-- ==== Sys2Proof/Word.lean ====
section
/-! DEFINITION. The word types of the FK-3 and their plainest arithmetic (R1 to R6). -/

namespace Sys2Proof

/-- One 32-bit element of a lane, and one instruction word (R67, R82). -/
abbrev Word := BitVec 32
/-- A 64-bit scalar (R67). -/
abbrev DWord := BitVec 64
/-- A byte of memory (R3). -/
abbrev Byte := BitVec 8
/-- One bit per logical lane, lane l in bit l (R5, R67). -/
abbrev LaneMask := BitVec 96

/-- The 96 lanes of a vector register, lane 0 first. A lane beyond the list reads 0. -/
abbrev Lanes := List Word

/-- The value of lane `l`. -/
def lane (v : Lanes) (l : Nat) : Word := v.getD l 0

/-- The 96-lane register whose lane `l` is `f l`. -/
def mkLanes (f : Nat → Word) : Lanes := (List.range 96).map f

/-- The lane mask whose bit `l` is `p l`. -/
def mkMask (p : Nat → Bool) : LaneMask :=
  BitVec.ofNat 96 ((List.range 96).foldr (fun l acc => if p l then acc ||| 2 ^ l else acc) 0)

/-- The lanes of a mask in ascending order. -/
def LaneMask.toList (m : LaneMask) : List Nat := (List.range 96).filter fun l => m.getLsbD l

/-- The lowest lane of a mask, 0 for the empty mask. -/
def LaneMask.lowest (m : LaneMask) : Nat := (LaneMask.toList m).headD 0

/-- Number of one bits of the low `n` bits of a number. -/
def popCount (n x : Nat) : Nat := ((List.range n).filter fun i => x.testBit i).length

/-- 0x7FBA_DBAD, what a dead register reads as (R76). -/
def poison : Word := 0x7FBADBAD#32

/-- Bits [hi:lo] of a number (R2). -/
def bits (x hi lo : Nat) : Nat := (x >>> lo) % 2 ^ (hi + 1 - lo)

/-- One bit of a number. -/
def bit (x i : Nat) : Bool := x.testBit i

/-- `x` taken as an `n`-bit two's-complement value (R6). -/
def sextInt (x n : Nat) : Int :=
  let y := x % 2 ^ n
  if n = 0 then 0 else if y ≥ 2 ^ (n - 1) then (y : Int) - 2 ^ n else y

/-- An integer modulo 2^n, as an `n`-bit number. -/
def wrap (x : Int) (n : Nat) : Nat := (x % (2 ^ n : Int)).toNat

/-- A little-endian number from its bytes, the first byte least significant (R3). -/
def leNat : List Byte → Nat
  | [] => 0
  | b :: bs => b.toNat + 256 * leNat bs

/-- The `n` little-endian bytes of a number (R3). -/
def leBytes : Nat → Nat → List Byte
  | 0, _ => []
  | n + 1, x => BitVec.ofNat 8 x :: leBytes n (x / 256)

/-- A structure's bits from its fields, given as (lowest bit, width, value). -/
def packBits : List (Nat × Nat × Nat) → Nat
  | [] => 0
  | (lo, w, v) :: fs => ((v % 2 ^ w) <<< lo) ||| packBits fs

/-- A number with bits [lo+w-1:lo] replaced by `v`. -/
def setBits (x lo w v : Nat) : Nat :=
  (x % 2 ^ lo) + ((v % 2 ^ w) <<< lo) + ((x >>> (lo + w)) <<< (lo + w))

end Sys2Proof
end

