-- ==== Sys2Proof/Machine/Crypto.lean ====
section
/-! DEFINITION. SHA-512 and ECDSA on P-521, which R285 names and does not restate: FIPS 180-4 and FIPS 186-5 (PRESUMED,
log 9). -/

namespace Sys2Proof.Machine

/-! ### SHA-512 -/

/-- The greatest r < 2^bits over `r` with r^k ≤ a, one bit after the other. -/
def rootFrom (k a : Nat) : Nat → Nat → Nat
  | 0, r => r
  | b + 1, r => rootFrom k a b (if (r + 2 ^ b) ^ k ≤ a then r + 2 ^ b else r)

/-- The first 64 fraction bits of the k-th root of n. -/
def rootBits (k n : Nat) : Nat := rootFrom k (n * 2 ^ (64 * k)) 72 0 % 2 ^ 64

/-- The first 80 primes. -/
def shaPrimes : List Nat := (List.range 410).filter fun n => 2 ≤ n && (List.range n).all fun d => d < 2 || n % d ≠ 0

/-- Constants of the 80 rounds, and the value a digest begins with. -/
def shaRounds : List Nat := shaPrimes.map (rootBits 3)
def shaStart : List Nat := (shaPrimes.take 8).map (rootBits 2)

/-- A 64-bit word rotated right. -/
def rotr64 (x n : Nat) : Nat := (x >>> n ||| x <<< (64 - n)) % 2 ^ 64

/-- The words of a block's message schedule from a window of the 16 before them on. -/
def shaSchedule : Nat → List Nat → List Nat
  | 0, _ => []
  | n + 1, w =>
    let (a, b) := (w.getD 1 0, w.getD 14 0)
    let s0 := rotr64 a 1 ^^^ rotr64 a 8 ^^^ a >>> 7
    let s1 := rotr64 b 19 ^^^ rotr64 b 61 ^^^ b >>> 6
    w.getD 0 0 :: shaSchedule n (w.drop 1 ++ [(w.getD 0 0 + s0 + w.getD 9 0 + s1) % 2 ^ 64])

/-- One round over the eight working words. -/
def shaRound (v : List Nat) (kw : Nat) : List Nat :=
  match v with
  | [a, b, c, d, e, f, g, h] =>
    let t1 := h + (rotr64 e 14 ^^^ rotr64 e 18 ^^^ rotr64 e 41) + (e &&& f ^^^ (2 ^ 64 - 1 - e) &&& g) + kw
    let t2 := (rotr64 a 28 ^^^ rotr64 a 34 ^^^ rotr64 a 39) + (a &&& b ^^^ a &&& c ^^^ b &&& c)
    [(t1 + t2) % 2 ^ 64, a, b, c, (d + t1) % 2 ^ 64, e, f, g]
  | v => v

/-- A number of bytes, the first the most significant. -/
def beNat (bs : List Byte) : Nat := bs.foldl (fun n b => n * 256 + b.toNat) 0
/-- The n bytes of a number, the most significant first. -/
def beBytes (n x : Nat) : List Byte := (leBytes n x).reverse

/-- The 64-bit words of a block. -/
def shaWords (bs : List Byte) : List Nat := (List.range 16).map fun i => beNat ((bs.drop (8 * i)).take 8)

/-- A block taken into the state. -/
def shaBlock (h : List Nat) (bs : List Byte) : List Nat :=
  let ws := shaSchedule 80 (shaWords bs)
  List.zipWith (fun x y => (x + y) % 2 ^ 64) h ((List.zipWith (· + ·) shaRounds ws).foldl shaRound h)

/-- Blocks of 128 bytes taken in. -/
def shaBlocks (h : List Nat) (bs : List Byte) : Nat → List Nat
  | 0 => h
  | n + 1 => shaBlocks (shaBlock h (bs.take 128)) (bs.drop 128) n

/-- A message padded to whole blocks. -/
def shaPad (bs : List Byte) : List Byte :=
  bs ++ 0x80 :: List.replicate (127 - (bs.length + 16) % 128) 0 ++ beBytes 16 (8 * bs.length)

/-- The 64 bytes of a SHA-512 digest. -/
def sha512Bytes (bs : List Byte) : List Byte :=
  let m := shaPad bs
  ((shaBlocks shaStart m (m.length / 128)).map (beBytes 8)).flatten

/-- A digest as a value whose lowest byte is the digest's first. -/
def sha512 (bs : List Byte) : BitVec 512 := BitVec.ofNat 512 (leNat (sha512Bytes bs))

/-! ### P-521 -/

/-- The field, the order of the group, and the curve's constant b. -/
def ecP : Nat := 2 ^ 521 - 1
def ecN : Nat := 2 ^ 521 - 0x5AE79787C40D069948033FEB708F65A2FC44A36477663B851449048E16EC79BF7
def ecB : Nat := 0x51953EB9618E1C9A1F929A21A0B68540EEA2DA725B99B315F3B8B489918EF109E156193951EC7E937B1652C0BD3BB1BF073573DF883D2C34F1EF451FD46B503F00

/-- A point in Jacobian coordinates; z = 0 is the point at infinity. -/
structure EcPoint where
  x : Nat
  y : Nat
  z : Nat
  deriving DecidableEq, Repr

/-- The generator. -/
def ecG : EcPoint := {
  x := 0xC6858E06B70404E9CD9E3ECB662395B4429C648139053FB521F828AF606B4D3DBAA14B5E77EFE75928FE1DC127A2FFA8DE3348B3C1856A429BF97E7E31C2E5BD66
  y := 0x11839296A789A3BC0045C8A5FB42C7D1BD998F54449579B446817AFBD17273E662C97EE72995EF42640C550B9013FAD0761353C7086A272C24088BE94769FD16650
  z := 1 }

/-- a − b in the field. -/
def fpSub (a b : Nat) : Nat := (a + ecP - b % ecP) % ecP

/-- A point doubled. -/
def EcPoint.double (q : EcPoint) : EcPoint :=
  let yy := q.y * q.y % ecP
  let s := 4 * q.x * yy % ecP
  let zz := q.z * q.z % ecP
  let m := 3 * fpSub q.x zz * (q.x + zz) % ecP
  let x := fpSub (m * m) (2 * s)
  { x, y := fpSub (m * fpSub s x) (8 * yy * yy), z := 2 * q.y * q.z % ecP }

/-- The sum of two points. -/
def EcPoint.add (q r : EcPoint) : EcPoint :=
  if q.z = 0 then r
  else if r.z = 0 then q
  else
    let (qz, rz) := (q.z * q.z % ecP, r.z * r.z % ecP)
    let (u, v) := (q.x * rz % ecP, r.x * qz % ecP)
    let (s, t) := (q.y * rz * r.z % ecP, r.y * qz * q.z % ecP)
    if u = v then (if s = t then q.double else { x := 1, y := 1, z := 0 })
    else
      let h := fpSub v u
      let k := fpSub t s
      let hh := h * h % ecP
      let hhh := h * hh % ecP
      let w := u * hh % ecP
      let x := fpSub (k * k) (hhh + 2 * w)
      { x, y := fpSub (k * fpSub w x) (s * hhh), z := h * q.z * r.z % ecP }

/-- A multiple of a point, from bit `n` - 1 of the factor down. -/
def EcPoint.mulFrom (q : EcPoint) (k : Nat) : Nat → EcPoint → EcPoint
  | 0, acc => acc
  | n + 1, acc =>
    let d := acc.double
    q.mulFrom k n (if k.testBit n then d.add q else d)
def EcPoint.mul (q : EcPoint) (k : Nat) : EcPoint := q.mulFrom k 521 { x := 1, y := 1, z := 0 }

/-- a^e modulo m, from bit `n` - 1 of the exponent down. -/
def powMod (m a e : Nat) : Nat → Nat → Nat
  | 0, acc => acc
  | n + 1, acc =>
    let sq := acc * acc % m
    powMod m a e n (if e.testBit n then sq * a % m else sq)
/-- The inverse of a modulo a prime of 521 bits. -/
def invMod (m a : Nat) : Nat := powMod m (a % m) (m - 2) 521 1

/-- The affine coordinates of a point that is not at infinity. -/
def EcPoint.affine (q : EcPoint) : Nat × Nat :=
  let i := invMod ecP q.z
  (q.x * i * i % ecP, q.y * i * i * i % ecP)

/-! ### ECDSA (R285) -/

/-- A public key as its uncompressed SEC1 point (R288). -/
def EcPoint.sec1 (q : EcPoint) : List Byte := 0x04 :: beBytes 66 q.affine.1 ++ beBytes 66 q.affine.2

/-- The point that a key names, where it is one of the curve. -/
def ecOfKey (key : List Byte) : Option EcPoint :=
  let (x, y) := (beNat ((key.drop 1).take 66), beNat ((key.drop 67).take 66))
  if key.length = 133 && key.head? = some 0x04 && x < ecP && y < ecP && y * y % ecP = fpSub (x * x * x + ecB) (3 * x) then
    some { x, y, z := 1 }
  else none

/-- Whether (r, s) signs a message under a key. -/
def ecdsaVerify (key msg : List Byte) (r s : Nat) : Bool :=
  match ecOfKey key with
  | none => false
  | some q =>
    if r = 0 || ecN ≤ r || s = 0 || ecN ≤ s then false
    else
      let w := invMod ecN s
      let z := beNat (sha512Bytes msg)
      let p := (ecG.mul (z * w % ecN)).add (q.mul (r * w % ecN))
      p.z ≠ 0 && p.affine.1 % ecN = r

/-- The signature of a message by a private key, with the random number k that it takes. -/
def ecdsaSign (d k : Nat) (msg : List Byte) : Nat × Nat :=
  let r := (ecG.mul k).affine.1 % ecN
  (r, (beNat (sha512Bytes msg) + r * d) * invMod ecN k % ecN)

end Sys2Proof.Machine
end

