-- ==== Sys2Proof/Config.lean ====
section
/-! DEFINITION. What an implementation fixes and the values the manual leaves free: opaque constants, so
that no proof can see one (logs 9, 15, 20, 26, 27, 86, 96, 107, 110). -/

namespace Sys2Proof.Config

/-- What a scratchpad byte reads that this context left behind and nothing has written since the team's
first full grant (R193). Free: counter of the grant, byte offset. Log 15. -/
opaque staleByte : Nat → Nat → BitVec 8
/-- The rank in which same-word lanes of one ATG or ATF are performed (R295). Free: counter, lane. Log 26. -/
opaque laneRank : Nat → Nat → Nat
/-- Whether a DL8 tie of two odd codes goes to the greater magnitude (R127): only that of 10^9 and 10^10. Free: the sign.
Log 20. -/
opaque dl8Tie : Bool → Bool
/-- The sign of FSIN of −0, of which R130 gives the value zero and no sign. Free. Log 27. -/
opaque sineZeroSign : Bool
/-- The module's private identity key, less 1 modulo the order of the group less 1 (R287). Log 9. -/
opaque identityKey : Nat
/-- The random number of a signature, likewise (R285). Free: counter. Log 9. -/
opaque signNonce : Nat → Nat
/-- The certificate chain in DER (R287, R288). Log 9. -/
opaque certChain : List (BitVec 8)
/-- The fused digest of the vendor's public key (R285). Log 9. -/
opaque fusedKeyDigest : BitVec 512
/-- The fused minimum security version (R285). Log 9. -/
opaque fusedMinVersion : Nat
/-- A byte that a save writes to the save area, whose layout R265 does not give. Free: counter of the save, byte. Log 86. -/
opaque saveByte : Nat → Nat → BitVec 8
/-- Units of the diagnosis budget that a core's lane diagnosis costs (R65, R248). Free: number of the core. Log 96. -/
opaque diagnosisCost : Nat → Nat
/-- The port of the 32 by which traffic to a node goes (R279). Free: the node. Log 107. -/
opaque portNo : Nat → Fin 32
/-- The number of that port. -/
def portOf (node : Nat) : Nat := (portNo node).val
/-- The fabric address at which the route table is read for an operation on a population of another module (R205, R371): that of
the node's management window. Free: the node. Log 110. -/
opaque windowVa : Nat → Nat
/-- Module serial number (R287). Log 9. -/
opaque serial : BitVec 64

/-- 640 GiB of HBM in 64 KiB frames (R10, R11). -/
def frameCount : Nat := 640 * 16384
/-- Register slots of a partition (R10). -/
def poolSlots : Nat := 1024
/-- Scratchpad bytes of a core (R10). -/
def scratchBytes : Nat := 393216

end Sys2Proof.Config
end

