-- ==== Sys2Proof/Syntax.lean ====
section
/-! DEFINITION. The instructions and events of spec/opcode_table.json as plain data. -/

namespace Sys2Proof

/-- Ordering of an access (R93). -/
inductive Ord
  | rlx | acq | rel | ar
  deriving DecidableEq, Repr

/-- Scopes, narrowest first (R166). -/
inductive Scope
  | group | team | die | device | pod
  deriving DecidableEq, Repr

/-- A scope's place in the order group, team, die, device, pod (R166), which is its SCOPE code. -/
def Scope.code : Scope → Nat
  | .group => 0 | .team => 1 | .die => 2 | .device => 3 | .pod => 4

/-- The fields of MPX and of MDEF (R93, R95). -/
structure Prefix where
  ord : Ord
  scope : Scope
  cache : BitVec 2
  nt : Bool
  rx : Bool
  deriving DecidableEq, Repr

/-- The TY codes 0x0 to 0xE, in order (R91). -/
inductive Ty
  | b32 | i32 | n32 | f32 | bf16 | f16 | dl8 | i8 | n8 | i4 | n4 | b16 | b8 | b64 | page
  deriving DecidableEq, Repr

/-- Rounding modes, RM 00 to 11 (R87, R123). -/
inductive Rm
  | rne | rtz | rdn | rup
  deriving DecidableEq, Repr

/-- A source field with its class (R88). The all-zero field of class 00 is `vec 0 false false`. -/
inductive Src
  | vec (n : BitVec 8) (k z : Bool)
  | scal (n : BitVec 6)
  | last (second : Bool)
  | tile (n : BitVec 4)
  | pred (n : BitVec 3)
  | greg (n : BitVec 4)
  | imm
  deriving DecidableEq, Repr

/-- The all-zero source field (R88). -/
abbrev Src.none : Src := .vec 0 false false

/-- A destination (R90). -/
inductive Dst
  | vec (n : BitVec 8)
  | scal (n : BitVec 6)
  | tile (n : BitVec 4)
  | pred (n : BitVec 3)
  | discard
  | greg (n : BitVec 4)
  deriving DecidableEq, Repr

/-- The fields of form X (R87). `lit` is the 64-bit literal of the LEN 11 form (R86). -/
structure XArgs where
  pn : Bool := false
  pi : BitVec 3 := 7
  dst : Dst
  ty : Ty
  fn : BitVec 5 := 0
  a : Src := .none
  b : Src := .none
  c : Src := .none
  rm : Rm := .rne
  xf : BitVec 24 := 0
  lit : Option (BitVec 64) := Option.none
  deriving DecidableEq, Repr

/-- A key's name (R169): its space code, the team for a scratchpad key (0 otherwise) and its address. -/
structure KeyId where
  space : BitVec 2
  team : Nat
  addr : BitVec 64
  deriving DecidableEq, Repr

/-- What a fabric operation asks of a page's home, or of a rank's module (R205, R206, R169, R224, R312, R416). -/
inductive FabKind
  | read (n : Nat) (own : List (Nat × Byte) := [])   -- `own`: bytes of the page that the sender's lichen half holds (R250)
  | write (bytes : List Byte)
  | atomic (op : BitVec 3) (ty : Ty) (x : BitVec 64) (e : BitVec 64)
  | signal                         -- an addition of 1 to a counter (R416)
  | typedRead (n : Nat) (own : List (Nat × Byte) := [])
  | typedWrite (vals : List Word) (rm : Rm)
  | engRead (i n : Nat) (own : List (Nat × Byte) := [])            -- element i of a run of n elements, as an engine delivers it (R151)
  | engWrite (i n : Nat) (xs : List Word)     -- elements of such a run from element i on
  | unit (ps : List (Nat × List Byte))        -- an engine's 16-byte unit, in one write: bytes at offsets from its address (R156)
  | key (req : BitVec 2) (who : Nat) (base len : BitVec 64)
    -- 0 ACQ.sh, 1 ACQ.ex, 2 BIND, or UNBIND where len is 0, 3 REL, or an end without it where len is 1; the sender's group
  | keyBinds (l : List (Nat × Nat))   -- the home of a key tells the sectors bound to it: first, and how many (R170, R182; log 125)
  | racer (retired : Bool)         -- the sender of `acc` as its detector entries are to tell it, or their end (R181; log 129)
  | plwadd (i : Nat) (x : Word)
  | plwrd (i : Nat)
  | rsmp (i : Nat) (step : Nat)
  | pmap (i : Nat)
  | probe (kind typed : Nat)       -- the tests of an access of a KIND of R202, of `typed` elements or 0, without the access (R198, R346)
  | popEntry (i : Nat)               -- an entry's 32 bytes, for a lichen half's PLWRD (R250, R371)
  | popProbe (i : Nat)             -- the tests of a population instruction for particle i (R226)
  | popRecord                      -- the test of its record alone, where it names no particle (R226)
  | coll (cid : BitVec 64) (q rank fn ty e : Nat) (data : Option (List Byte))   -- a rank's contribution; none: it withdraws (R312, R314)
  deriving DecidableEq, Repr

/-- The group that makes a checked access at another module, as the race detector needs it (R181, R182): its number there,
GRIDID, TEAMID and GROUPID, its interval number, the scope of its latest release, and its exclusive keys. -/
structure FabAcc where
  gid : Nat
  grid : BitVec 32
  team : Nat
  group : Nat
  interval : Nat
  scope : Scope
  keys : List KeyId := []           -- those that it holds exclusively
  deriving DecidableEq, Repr

/-- A fabric operation on the wire: sender's node and number of the operation there, context, virtual
address, work, how often it has been forwarded (R205), and who the race detector checks, where it does. -/
structure FabReq where
  node : Nat
  id : Nat
  ctxid : Nat
  va : BitVec 64
  kind : FabKind
  hops : Nat
  acc : Option FabAcc := Option.none
  deriving DecidableEq, Repr

/-- What the home answers (R203, R205). -/
inductive FabRep
  | data (bytes : List Byte)       -- bytes read, an old value, decoded words, a status, or FMT of a typed store's page
  | hint (node : Nat) (rep : FabRep)   -- an answer after a forward, with the new home's route hint
  | access                          -- a permission condition
  | element                         -- a format condition of a typed element, ACCESS (R150)
  | misalign                        -- a typed element that is not aligned to its page's element size
  | xlfail                          -- a failure reply
  | quota (tier : Nat)              -- 0 HBM, 1 pool (R45)
  | race                            -- a conflict under the trap setting (R182)
  deriving DecidableEq, Repr

/-- Who writes a device register, or reads one: the module's privileged driver, the driver of a VF, or a VF's driver that maps a
page of a context, with the bits of its entry but FRAME, in the pool tier or in HBM (R208, R281, R284; log 106). -/
inductive Source
  | privileged
  | driver (vf : Nat)
  | mapping (vf ctx page : Nat) (pool : Bool)
  deriving DecidableEq, Repr

/-- A device register as a source names it. -/
structure RegAt where
  src : Source
  off : Nat
  deriving DecidableEq, Repr

/-- Where a page moves to: the node, and for one that arrives here the leaf's entry and the page's bytes (R207). -/
structure MoveTo where
  node : Nat
  entry : BitVec 64 := 0
  data : List Byte := []
  deriving DecidableEq, Repr

/-- What one reset of the module finds (R275, R276, R286): the firmware image, the key and the signature that come with it, its
security version, the stacks and ports that failed calibration, and ERRC detail. -/
structure ResetInput where
  image : List Byte
  key : List Byte
  sig : Nat × Nat
  version : Nat
  badStacks : List Nat
  badPorts : List Nat
  errc : BitVec 16
  deriving DecidableEq, Repr

/-- The rows of the opcode table. The first part holds the encoded instructions in table order, the
second the events (spec/95: every step the part takes, each whole). -/
inductive Instr
  -- 32-bit forms (R96)
  | nop
  | br (off : BitVec 22)
  | brc (s : BitVec 6) (cc : BitVec 2) (off : BitVec 14)
  | call (off : BitVec 22)
  | ret
  | brx (a : BitVec 6)
  | exit
  | join
  | bar (d : BitVec 6) (n : BitVec 4) (e : BitVec 5)
  | barArrive (d : BitVec 6) (n : BitVec 4) (e : BitVec 5)
  | fence (kind : Ord) (scope : Scope)   -- full is `ar`, acquire `acq`, release `rel`; `rlx` has no word
  | acq (d a : BitVec 6) (space : BitVec 2) (ex : Bool)
  | rel (a : BitVec 6) (space : BitVec 2)
  | bind (k a b : BitVec 6) (space : BitVec 2)
  | unbind (k : BitVec 6) (space : BitVec 2)
  | waitc (cls : BitVec 2) (n : BitVec 8)
  | mbatch (d : BitVec 6)
  | mwait (a : BitVec 6)
  | susp (c a b : BitVec 6) (n : BitVec 4)
  | evsig (d a b : BitVec 6)
  | acqr
  | rela
  | setb (d : BitVec 6) (n : BitVec 10)
  | launch (d a : BitVec 6)
  | trap (n : BitVec 10)
  | eret
  | eretSkip
  | rdsr (d : BitVec 6) (n : BitVec 10)
  | wrsr (a : BitVec 6) (n : BitVec 10)
  | bkpt (n : BitVec 10)
  | mpx (p : Prefix)
  | seal (d a : BitVec 6)
  | sealRel (d b : BitVec 6)
  | stepcmt (d : BitVec 6)
  | qmov (d a : BitVec 6) (check : Bool)   -- t = 2 draft-queued, t = 3 check-queued
  | sadd (d a b : BitVec 6)
  | ssub (d a b : BitVec 6)
  | smul (d a b : BitVec 6)
  | smulhi (d a b : BitVec 6)
  | sand (d a b : BitVec 6)
  | sor (d a b : BitVec 6)
  | sxor (d a b : BitVec 6)
  | sshl (d a b : BitVec 6)
  | sshr (d a b : BitVec 6)
  | ssar (d a b : BitVec 6)
  | smov (d a : BitVec 6)
  | sli (d : BitVec 6) (imm : BitVec 10)
  | sliLit (d : BitVec 6) (lit : BitVec 64)
  | scmp (d a b : BitVec 6) (cond : BitVec 4)
  | sbfe (d a b : BitVec 6) (signed : Bool)
  | sffs (d a : BitVec 6) (hi : Bool)
  | spopc (d a : BitVec 6)
  | ssel (d a b : BitVec 6)
  | sdiv (d a b : BitVec 6) (mode : BitVec 2)
  | smin (d a b : BitVec 6) (unsigned : Bool)
  | smax (d a b : BitVec 6) (unsigned : Bool)
  | saddi (d a : BitVec 6) (imm : BitVec 10)
  | saddiLit (d a : BitVec 6) (lit : BitVec 64)
  | sldu (d a : BitVec 6) (imm : BitVec 10)
  | slduLit (d a : BitVec 6) (lit : BitVec 64)
  | sstu (d a : BitVec 6) (imm : BitVec 10)
  | sstuLit (d a : BitVec 6) (lit : BitVec 64)
  -- form X (R97)
  | iadd (x : XArgs) | isub (x : XArgs) | imul (x : XArgs) | imulhi (x : XArgs) | imad (x : XArgs)
  | idiv (x : XArgs) | irem (x : XArgs) | ineg (x : XArgs) | iabs (x : XArgs) | imin (x : XArgs)
  | imax (x : XArgs) | icmp (x : XArgs)
  | shl (x : XArgs) | shr (x : XArgs) | sar (x : XArgs) | rotl (x : XArgs)
  | and (x : XArgs) | or (x : XArgs) | xor (x : XArgs) | not (x : XArgs) | andn (x : XArgs)
  | popc (x : XArgs) | clz (x : XArgs) | brev (x : XArgs) | bfe (x : XArgs) | bfi (x : XArgs)
  | sel (x : XArgs) | mov (x : XArgs) | movi (x : XArgs)
  | fadd (x : XArgs) | fsub (x : XArgs) | fmul (x : XArgs) | fma (x : XArgs) | fmin (x : XArgs)
  | fmax (x : XArgs) | fcmp (x : XArgs) | fabs (x : XArgs) | fneg (x : XArgs)
  | frcp (x : XArgs) | frcpz (x : XArgs) | frsq (x : XArgs) | fsqrt (x : XArgs) | fexp2 (x : XArgs)
  | fexp (x : XArgs) | flog2 (x : XArgs) | fsin (x : XArgs) | fcos (x : XArgs) | fclass (x : XArgs)
  | cvt (x : XArgs) | pack (x : XArgs) | unpk (x : XArgs)
  | shfl (x : XArgs) | ballot (x : XArgs) | vote (x : XArgs) | matchLanes (x : XArgs) | redux (x : XArgs)
  | scan (x : XArgs) | prmb (x : XArgs) | xpose (x : XArgs)
  | brv (pn : Bool) (pi : BitVec 3) (off : BitVec 24)
  | plog (x : XArgs) | pmov (x : XArgs) | vget (x : XArgs) | vput (x : XArgs)
  | lds (x : XArgs) | sts (x : XArgs) | ats (x : XArgs) | ldg (x : XArgs) | stg (x : XArgs)
  | atg (x : XArgs) | pfg (x : XArgs) | gset (x : XArgs) | ldf (x : XArgs) | stf (x : XArgs)
  | atf (x : XArgs) | ldk (x : XArgs) | reqld (x : XArgs) | reqst (x : XArgs)
  | cpy (x : XArgs) | gath (x : XArgs) | scat (x : XArgs) | coll (x : XArgs) | cpyf (x : XArgs)
  | cntrd (x : XArgs)
  | mma (x : XArgs) | mmas (x : XArgs) | mqk (x : XArgs) | msmx (x : XArgs) | mzero (x : XArgs)
  | mldt (x : XArgs) | mstt (x : XArgs) | tmask (x : XArgs)
  | plwadd (x : XArgs) | plwrd (x : XArgs) | rsmp (x : XArgs) | pmap (x : XArgs) | rngx (x : XArgs)
  | drawc (x : XArgs) | specv (x : XArgs) | sigrd (x : XArgs)
  -- events
  | loadCompletion (g id : Nat) (lanes : LaneMask)
  | fullEmptyWake (g : Nat) (slot : Bool)
  | engineCompletion (g : Nat) (cls : BitVec 2) (idx units : Nat)
  | matrixCompletion (g idx units : Nat)
  | acqrGrant (core part : Nat)
  | keyGrant (ctx : Nat) (key : KeyId)
  | suspResume (g : Nat)
  | groupRetire (g : Nat)
  | completionSignal (i : Nat)
  | dispatchTeam
  | pendingDisplace (core part g : Nat)
  | growAllocate (ctx page : Nat)
  | cowCopy (ctx page : Nat)
  | pageReply (vf : Nat) (reply : BitVec 128)
  | fabricIngress (op : FabReq)
  | notHome (id : Nat)
  | pageMigrate (vf ctx page : Nat) (dest : MoveTo)
  | rootExpiry (ctx page : Nat)
  | invalidate (vf : Nat) (cmd : BitVec 256)
  | sync (vf : Nat) (cmd : BitVec 256)
  | flushRouteHints (vf : Nat) (cmd : BitVec 256)
  | start (vf : Nat) (cmd : BitVec 256)
  | preempt (vf : Nat) (cmd : BitVec 256)
  | restore (vf : Nat) (cmd : BitVec 256)
  | terminate (vf : Nat) (cmd : BitVec 256)
  | hlaunch (vf : Nat) (cmd : BitVec 256)
  | submission (vf : Nat) (value : BitVec 64)
  | recordWindowWrite (src rid off : Nat) (bytes : List Byte)
  | stepStart (vf k : Nat)
  | stepGridLaunch (vf k : Nat)
  | crozierCommit (vf k : Nat)
  | sporangiumComplete (rid : Nat)
  | deadlineExpiry (rid : Nat)
  | auditReexecution (i core : Nat) (corrupt : BitVec 64)
  | auditVerdict (i : Nat)
  | replayCheck (core part : Nat) (mismatch : Bool) (physLane : Nat)
  | scoreDecay (core : Nat)
  | laneDiagnosisEnd (core : Nat) (failing : List (List Nat))
  | coreReturnToService (core : Nat)
  | laneSpareSwitch (g : Nat) (uncorrectable : Bool)
  | uncorrectableError (g : Nat)
  | barrierWatchdogExpiry (team n : Nat)
  | budgetPeriodStart
  | powerStepDown (avgMilliwatt : Nat)
  | powerStepUp (avgMilliwatt : Nat)
  | moduleReset (r : ResetInput)
  | hbmRegionFill
  | vfReset (vf : Nat)
  | vfGrantWrite (vf off : Nat) (value : BitVec 64)
  | streamDescriptorWrite (vf k : Nat) (desc : BitVec 512)
  | portGenWrite (port : Nat) (value : BitVec 64)
  | portRetrainDone (port : Nat) (up : Bool)
  | areq (value : BitVec 64)
  | registerWrite (off : RegAt) (value : BitVec 64)
  | storePerformed (id : Nat) (scope : Scope)
  | fabricReply (id : Nat) (rep : FabRep)
  deriving DecidableEq, Repr

end Sys2Proof
end

