-- ==== Sys2Proof/Machine/Float.lean ====
section
/-! DEFINITION. Binary floating point by exact arithmetic and one rounding (R117 to R119, R123, R130, R330). -/

namespace Sys2Proof.Machine

/-- A binary format: exponent and fraction widths (R117). -/
structure Fmt where
  eb : Nat
  fb : Nat
  deriving DecidableEq, Repr

def f32 : Fmt := ⟨8, 23⟩
def f16 : Fmt := ⟨5, 10⟩
def bf16 : Fmt := ⟨8, 7⟩

/-- The exponent bias. -/
def Fmt.bias (f : Fmt) : Nat := 2 ^ (f.eb - 1) - 1
/-- The bits of +∞. -/
def Fmt.inf (f : Fmt) : Nat := (2 ^ f.eb - 1) * 2 ^ f.fb
/-- The sign bit's weight. -/
def Fmt.sign (f : Fmt) : Nat := 2 ^ (f.eb + f.fb)
/-- The canonical NaN (R118). -/
def Fmt.nan (f : Fmt) : Nat := f.inf + 2 ^ (f.fb - 1)
/-- Bits of a sign and a magnitude. -/
def Fmt.mk' (f : Fmt) (neg : Bool) (mag : Nat) : Nat := if neg then f.sign + mag else mag

/-- What a float is: a finite one is ±m · 2^e. -/
inductive FVal
  | nan
  | inf (neg : Bool)
  | fin (neg : Bool) (m : Nat) (e : Int)
  deriving DecidableEq, Repr

/-- The value of the low bits of a number in a format (R117). -/
def Fmt.decode (f : Fmt) (x : Nat) : FVal :=
  let neg := x.testBit (f.eb + f.fb)
  let mag := x % f.sign
  let ex := mag / 2 ^ f.fb
  let fr := mag % 2 ^ f.fb
  if mag > f.inf then .nan
  else if mag = f.inf then .inf neg
  else if ex = 0 then .fin neg fr (1 - (f.bias : Int) - f.fb)
  else .fin neg (2 ^ f.fb + fr) ((ex : Int) - f.bias - f.fb)

/-- Whether a rounded magnitude goes up from its floor: `r` of `d` is what was cut off. -/
def roundUp (rm : Rm) (neg odd : Bool) (r d : Nat) : Bool :=
  match rm with
  | .rne => d < 2 * r || (2 * r = d && odd)
  | .rtz => false
  | .rdn => neg && r ≠ 0
  | .rup => !neg && r ≠ 0

/-- The exponent of the leading bit of num/den, both positive. -/
def log2Rat (num den : Nat) : Int :=
  let e : Int := (Nat.log2 num : Int) - Nat.log2 den
  -- num/den lies in [2^(e-1), 2^(e+1))
  let below : Bool := if 0 ≤ e then num < den * 2 ^ e.toNat else num * 2 ^ (-e).toNat < den
  if below then e - 1 else e

/-- What a magnitude beyond the largest finite one becomes (R124, R330). -/
def Fmt.overflow (f : Fmt) (rm : Rm) (neg : Bool) : Nat :=
  let toInf : Bool := match rm with
    | .rne => true
    | .rtz => false
    | .rdn => neg
    | .rup => !neg
  f.mk' neg (if toInf then f.inf else f.inf - 1)

/-- ±num/den rounded once, and whether it changed (R123). A zero keeps the sign given. -/
def Fmt.round (f : Fmt) (rm : Rm) (neg : Bool) (num den : Nat) : Nat × Bool :=
  if num = 0 then (f.mk' neg 0, false) else
  let emin : Int := 1 - f.bias
  let ulp : Int := max (log2Rat num den) emin - f.fb
  let n := if ulp < 0 then num * 2 ^ (-ulp).toNat else num
  let d := if ulp < 0 then den else den * 2 ^ ulp.toNat
  let q := n / d
  let r := n % d
  let m := if roundUp rm neg (q % 2 == 1) r d then q + 1 else q
  let mag : Int := (ulp + f.fb + f.bias) * 2 ^ f.fb + m - 2 ^ f.fb
  if (f.inf : Int) ≤ mag then (f.overflow rm neg, true) else (f.mk' neg mag.toNat, r ≠ 0)

/-- s · 2^e rounded; an exact zero has the sign given. -/
def Fmt.roundInt (f : Fmt) (rm : Rm) (zeroNeg : Bool) (s e : Int) : Nat × Bool :=
  if s = 0 then (f.mk' zeroNeg 0, false)
  else if 0 ≤ e then f.round rm (s < 0) (s.natAbs * 2 ^ e.toNat) 1
  else f.round rm (s < 0) s.natAbs (2 ^ (-e).toNat)

/-- A signed mantissa. -/
def signed (neg : Bool) (m : Nat) : Int := if neg then -(m : Int) else m

/-- A sum of two finite values, exactly: an integer and its exponent. -/
def addExact (s1 e1 s2 e2 : Int) : Int × Int :=
  if e1 ≤ e2 then (s1 + s2 * 2 ^ (e2 - e1).toNat, e1) else (s1 * 2 ^ (e1 - e2).toNat + s2, e2)

/-- A + B rounded (R330). -/
def Fmt.addV (f : Fmt) (rm : Rm) : FVal → FVal → Nat × Bool
  | .nan, _ | _, .nan => (f.nan, false)
  | .inf a, .inf b => if a = b then (f.mk' a f.inf, false) else (f.nan, false)
  | .inf a, .fin _ _ _ => (f.mk' a f.inf, false)
  | .fin _ _ _, .inf b => (f.mk' b f.inf, false)
  | .fin n1 m1 e1, .fin n2 m2 e2 =>
    let (s, e) := addExact (signed n1 m1) e1 (signed n2 m2) e2
    -- an exact zero: the common sign, else +0, or -0 under RM 10
    f.roundInt rm (if n1 = n2 then n1 else rm = .rdn) s e

/-- A · B exactly. -/
def mulV : FVal → FVal → FVal
  | .nan, _ | _, .nan => .nan
  | .inf a, .inf b => .inf (a ^^ b)
  | .inf a, .fin n m _ => if m = 0 then .nan else .inf (a ^^ n)
  | .fin n m _, .inf b => if m = 0 then .nan else .inf (n ^^ b)
  | .fin n1 m1 e1, .fin n2 m2 e2 => .fin (n1 ^^ n2) (m1 * m2) (e1 + e2)

/-- An exact value rounded into a format. -/
def Fmt.ofV (f : Fmt) (rm : Rm) : FVal → Nat × Bool
  | .nan => (f.nan, false)
  | .inf n => (f.mk' n f.inf, false)
  | .fin n m e => f.roundInt rm n (signed n m) e

/-- The value with its sign inverted. -/
def FVal.neg : FVal → FVal
  | .nan => .nan
  | .inf n => .inf (!n)
  | .fin n m e => .fin (!n) m e

def Fmt.add (f : Fmt) (rm : Rm) (a b : Nat) : Nat × Bool := f.addV rm (f.decode a) (f.decode b)
def Fmt.sub (f : Fmt) (rm : Rm) (a b : Nat) : Nat × Bool := f.addV rm (f.decode a) (f.decode b).neg
def Fmt.mul (f : Fmt) (rm : Rm) (a b : Nat) : Nat × Bool := f.ofV rm (mulV (f.decode a) (f.decode b))
/-- A · B + C with one rounding (R119). -/
def Fmt.fma (f : Fmt) (rm : Rm) (a b c : Nat) : Nat × Bool := f.addV rm (mulV (f.decode a) (f.decode b)) (f.decode c)

/-- A / B of finite operands with B not zero, rounded. -/
def Fmt.divFin (f : Fmt) (rm : Rm) (n1 : Bool) (m1 : Nat) (e1 : Int) (n2 : Bool) (m2 : Nat) (e2 : Int) : Nat × Bool :=
  let e := e1 - e2
  if 0 ≤ e then f.round rm (n1 ^^ n2) (m1 * 2 ^ e.toNat) m2
  else f.round rm (n1 ^^ n2) m1 (m2 * 2 ^ (-e).toNat)

/-! ### Order and classes (R118, R331, R332) -/

/-- Whether the low bits are a NaN. -/
def Fmt.isNan (f : Fmt) (x : Nat) : Bool := f.inf < x % f.sign

/-- A place in the order of numbers, -0 below +0 (R118). -/
def Fmt.rank (f : Fmt) (x : Nat) : Int :=
  let mag := x % f.sign
  if x.testBit (f.eb + f.fb) then -(mag : Int) - 1 else mag

/-- FMIN and FMAX: a NaN is ignored beside a number (R118). -/
def Fmt.minMax (f : Fmt) (isMax : Bool) (a b : Nat) : Nat :=
  let a := a % (2 * f.sign)
  let b := b % (2 * f.sign)
  if f.isNan a then (if f.isNan b then f.nan else b)
  else if f.isNan b then a
  else if (f.rank a < f.rank b) = isMax then b else a

/-- FCMP's conditions (R331). -/
def Fmt.cmp (f : Fmt) (cond a b : Nat) : Bool :=
  let un := f.isNan a || f.isNan b
  let x := f.rank a
  let y := f.rank b
  match cond with
  | 0 => !un && x = y
  | 1 => un || x ≠ y
  | 2 => !un && x < y
  | 3 => !un && x ≤ y
  | 4 => !un && y < x
  | 5 => !un && y ≤ x
  | 6 => un
  | _ => !un

/-- FCLASS's class bit (R332). -/
def Fmt.classOf (f : Fmt) (x : Nat) : Nat :=
  let neg := x.testBit (f.eb + f.fb)
  let mag := x % f.sign
  let ex := mag / 2 ^ f.fb
  if f.inf < mag then (if mag.testBit (f.fb - 1) then 9 else 8)
  else if mag = f.inf then (if neg then 0 else 7)
  else if mag = 0 then (if neg then 3 else 4)
  else if ex = 0 then (if neg then 2 else 5)
  else if neg then 1 else 6

/-! ### Square roots -/

/-- The floor of a square root, bit by bit from 2^(n-1). -/
def isqrtFrom (x : Nat) (acc : Nat) : Nat → Nat
  | 0 => acc
  | n + 1 =>
    let t := acc + 2 ^ n
    if t * t ≤ x then isqrtFrom x t n else isqrtFrom x acc n
/-- The floor of a square root. -/
def isqrt (x : Nat) : Nat := isqrtFrom x 0 (Nat.log2 x / 2 + 1)

/-- The square root of num/den rounded once. The floor to 2^-160 decides every rounding but an exact one. -/
def Fmt.sqrtRat (f : Fmt) (rm : Rm) (num den : Nat) : Nat × Bool :=
  let k := 160
  let n := isqrt (num * 2 ^ (2 * k) / den)
  if n * n * den = num * 2 ^ (2 * k) then f.round rm false n (2 ^ k)
  else ((f.round rm false (2 * n + 1) (2 ^ (k + 1))).1, true)

end Sys2Proof.Machine
end

