-- ==== Sys2Proof/Machine/Transc.lean ====
section
/-! DEFINITION. The correctly rounded functions of R130, R135, R218 and R230: fixed-point values with a bound on
their error, at precisions that grow until both ends of the enclosure round alike. -/

namespace Sys2Proof.Machine

/-- A real number near num / 2^p, no further than err / 2^p from it. -/
structure Appr where
  num : Int
  err : Nat
  deriving DecidableEq, Repr

/-- The sum of 2^p / (k · 2^k) over k from `k` on: ln 2. -/
def ln2From (p k acc : Nat) : Nat → Nat
  | 0 => acc
  | n + 1 => ln2From p (k + 1) (acc + 2 ^ p / (k * 2 ^ k)) n
/-- ln 2 at precision p. -/
def ln2At (p : Nat) : Appr := ⟨ln2From p 1 0 (p + 8), p + 16⟩

/-- The alternating series of arctan(1/n), from the power `pw` = 2^p / n^(2i+1). -/
def atanFrom (nn i pw : Nat) (acc : Int) : Nat → Int
  | 0 => acc
  | k + 1 =>
    let term : Int := (pw / (2 * i + 1) : Nat)
    atanFrom nn (i + 1) (pw / nn) (if i % 2 = 0 then acc + term else acc - term) k
/-- arctan(1/n) at precision p. -/
def atanInv (p n : Nat) : Int := atanFrom (n * n) 0 (2 ^ p / n) 0 (p / 4 + 8)
/-- π at precision p, by 16 arctan(1/5) - 4 arctan(1/239). -/
def piAt (p : Nat) : Appr := ⟨16 * atanInv p 5 - 4 * atanInv p 239, 64 * p + 1024⟩

/-- The exponential series of r / 2^p, from the term t of index k. -/
def expFrom (p r k t acc : Nat) : Nat → Nat
  | 0 => acc
  | n + 1 => expFrom p r (k + 1) (t * r / (k * 2 ^ p)) (acc + t) n
/-- A fixed-point value squared n times. -/
def squareN (p x : Nat) : Nat → Nat
  | 0 => x
  | n + 1 => squareN p (x * x / 2 ^ p) n
/-- e^y for y near x / 2^p in [0, 1], `err` units off at most. -/
def expCore (p x err : Nat) : Appr :=
  ⟨squareN p (expFrom p (x / 256) 1 (2 ^ p) 0 (p / 8 + 16)) 8, 4 * err + 1024 * (p + 8)⟩

/-- A real enclosed as (num ± err) · 2^sh. -/
structure Encl where
  lo : Int
  hi : Int
  sh : Int
  deriving DecidableEq, Repr

/-- An enclosure from an approximation at precision p, times 2^k. -/
def Appr.encl (a : Appr) (p : Nat) (k : Int) : Encl := ⟨a.num - a.err, a.num + a.err, k - p⟩

/-- m · 2^e as a fixed-point integer at precision p, rounded down. -/
def toFix (p : Nat) (m e : Int) : Int :=
  let x := e + p
  if 0 ≤ x then m * 2 ^ x.toNat else m / 2 ^ (-x).toNat

/-- e^x for x = m · 2^e. -/
def expEncl (m e : Int) (p : Nat) : Encl :=
  let l := ln2At p
  let x := toFix p m e
  let k := x / l.num
  let y := (x - k * l.num).toNat
  (expCore p y (2 + k.natAbs * l.err)).encl p k

/-- 2^x for x = m · 2^e. -/
def exp2Encl (m e : Int) (p : Nat) : Encl :=
  let l := ln2At p
  let x := toFix p m e
  let k := x / 2 ^ p
  let f := (x - k * 2 ^ p).toNat
  (expCore p (f * l.num.toNat / 2 ^ p) (l.err + 3)).encl p k

/-- The series of 2 artanh(z / 2^p), z2 its square. -/
def artanhFrom (p z2 i pw acc : Nat) : Nat → Nat
  | 0 => acc
  | n + 1 => artanhFrom p z2 (i + 1) (pw * z2 / 2 ^ p) (acc + 2 * pw / (2 * i + 1)) n
/-- The exponent k and ln of the rest M in [1, 2) of m · 2^e, m positive. -/
def lnParts (m : Nat) (e : Int) (p : Nat) : Int × Appr :=
  let b := Nat.log2 m
  -- M = m / 2^b; z = (M - 1) / (M + 1)
  let z := (m - 2 ^ b) * 2 ^ p / (m + 2 ^ b)
  (e + b, ⟨artanhFrom p (z * z / 2 ^ p) 0 z 0 (p / 3 + 8), 8 * (p + 16)⟩)

/-- log2 of m · 2^e. -/
def log2Encl (m : Nat) (e : Int) (p : Nat) : Encl :=
  let l := ln2At p
  let (k, a) := lnParts m e p
  let q : Int := a.num * 2 ^ p / l.num
  (⟨k * 2 ^ p + q, 2 * a.err + 4 * l.err + 4⟩ : Appr).encl p 0

/-- ln of m · 2^e. -/
def lnEncl (m : Nat) (e : Int) (p : Nat) : Encl :=
  let l := ln2At p
  let (k, a) := lnParts m e p
  (⟨k * l.num + a.num, a.err + k.natAbs * l.err⟩ : Appr).encl p 0

/-- The series of sine (from index 1) or cosine (from index 0): alternating terms t · r2 / (j (j+1)). -/
def trigFrom (p r2 j t : Nat) (neg : Bool) (acc : Int) : Nat → Int
  | 0 => acc
  | n + 1 => trigFrom p r2 (j + 2) (t * r2 / (2 ^ p * (j * (j + 1)))) (!neg)
      (if neg then acc - t else acc + t) n
/-- sin or cos of r / 2^p in [0, 2), `err` units off at most. -/
def trigCore (p : Nat) (cos : Bool) (r err : Nat) : Appr :=
  let r2 := r * r / 2 ^ p
  let v := if cos then trigFrom p r2 1 (2 ^ p) false 0 (p / 6 + 32) else trigFrom p r2 2 r false 0 (p / 6 + 32)
  ⟨v, 2 * err + 8 * (p + 32)⟩

/-- sin or cos of a quadrant plus r / 2^p. -/
def quadrant (p : Nat) (cos : Bool) (k r err : Nat) : Appr :=
  let j := (if cos then k + 1 else k) % 4
  let a := trigCore p (j % 2 == 1) r err
  if j < 2 then a else ⟨-a.num, a.err⟩

/-- sin or cos of x = ±m · 2^e radians. -/
def trigEncl (cos neg : Bool) (m : Nat) (e : Int) (p : Nat) : Encl :=
  let q := piAt p
  let x := (toFix p m e).toNat
  let h := q.num.toNat / 2
  let k := x / h
  let a := quadrant p cos k (x - k * h) (2 + k * (q.err + 1))
  (if neg && !cos then ⟨-a.num, a.err⟩ else a : Appr).encl p 0

/-- sin or cos of a / 2^32 turns. -/
def turnEncl (cos : Bool) (a p : Nat) : Encl :=
  let q := piAt p
  let k := a / 2 ^ 30
  let r := a % 2 ^ 30 * q.num.toNat / 2 ^ 31
  (quadrant p cos k r (q.err + 2)).encl p 0

/-- One end of an enclosure rounded. -/
def Fmt.roundEnd (f : Fmt) (rm : Rm) (x sh : Int) : Nat := (f.roundInt rm false x sh).1

/-- The rounding of an irrational result: the first precision whose enclosure rounds to one value without
reaching zero decides (R130). -/
def Fmt.settle (f : Fmt) (rm : Rm) (g : Nat → Encl) : List Nat → Nat
  | [] => 0
  | [p] => f.roundEnd rm (g p).lo (g p).sh
  | p :: ps =>
    let c := g p
    let a := f.roundEnd rm c.lo c.sh
    if (0 < c.lo || c.hi < 0) && a = f.roundEnd rm c.hi c.sh then a else f.settle rm g ps

/-- The precisions tried. -/
def precisions : List Nat := [192, 640, 2048]

/-- An irrational result rounded into f32. -/
def irr (rm : Rm) (g : Nat → Encl) : Nat × Bool := (f32.settle rm g precisions, true)

/-- A positive result far above or below the range of f32, rounded. -/
def farAway (rm : Rm) (big : Bool) : Nat × Bool :=
  if big then f32.round rm false (2 ^ 300) 1 else f32.round rm false 1 (2 ^ 300)

/-- Whether |m · 2^e| is 2^9 or more. -/
def beyond (m : Nat) (e : Int) : Bool := m ≠ 0 && 9 ≤ e + Nat.log2 m

/-- m · 2^e as an integer, when it is one. -/
def asInt (neg : Bool) (m : Nat) (e : Int) : Option Int :=
  if 0 ≤ e then some (signed neg m * 2 ^ e.toNat)
  else if m % 2 ^ (-e).toNat = 0 then some (signed neg (m / 2 ^ (-e).toNat)) else none

/-- The functions of R130. -/
inductive Special
  | rcp | rcpz | rsq | sqrt | exp2 | exp | log2 | sin | cos
  deriving DecidableEq, Repr

/-- A function of R130 on f32 bits: the result and whether INEXACT is set. The logarithm of 1 is +0 under every RM: the rule
gives the exact zero, and no sign (DESIGN CHOICE, log 122). -/
def special (fn : Special) (rm : Rm) (x : Nat) : Nat × Bool :=
  let nan : Nat × Bool := (f32.nan, false)
  match fn, f32.decode x with
  | _, .nan => nan
  | .rcp, .inf n | .rcpz, .inf n => (f32.mk' n 0, false)
  | .rcp, .fin n m e => if m = 0 then (f32.mk' n f32.inf, false) else f32.divFin rm n 1 0 false m e
  | .rcpz, .fin n m e => if m = 0 then (f32.mk' n 0, true) else f32.divFin rm n 1 0 false m e
  | .rsq, .inf n => if n then nan else (0, false)
  | .rsq, .fin n m e =>
    if m = 0 then (f32.mk' n f32.inf, false) else if n then nan
    else if 0 ≤ e then f32.sqrtRat rm 1 (m * 2 ^ e.toNat) else f32.sqrtRat rm (2 ^ (-e).toNat) m
  | .sqrt, .inf n => if n then nan else (f32.inf, false)
  | .sqrt, .fin n m e =>
    if m = 0 then (f32.mk' n 0, false) else if n then nan
    else if 0 ≤ e then f32.sqrtRat rm (m * 2 ^ e.toNat) 1 else f32.sqrtRat rm m (2 ^ (-e).toNat)
  | .exp2, .inf n | .exp, .inf n => (if n then 0 else f32.inf, false)
  | .exp2, .fin n m e =>
    if beyond m e then farAway rm (!n)
    else match asInt n m e with
      | some k => f32.roundInt rm false 1 k
      | none => irr rm (exp2Encl (signed n m) e)
  | .exp, .fin n m e =>
    if m = 0 then (0x3F800000, false)
    else if beyond m e then farAway rm (!n)
    else irr rm (expEncl (signed n m) e)
  | .log2, .inf n => if n then nan else (f32.inf, false)
  | .log2, .fin n m e =>
    if m = 0 then (f32.mk' true f32.inf, false) else if n then nan
    else if m = 2 ^ Nat.log2 m then f32.roundInt rm false (e + Nat.log2 m) 0
    else irr rm (log2Encl m e)
  | .sin, .inf _ | .cos, .inf _ => nan
  -- the sign of the sine of −0 is free (log 27)
  | .sin, .fin n m e => if m = 0 then (f32.mk' (n && Config.sineZeroSign) 0, false) else irr rm (trigEncl false n m e)
  | .cos, .fin n m e => if m = 0 then (0x3F800000, false) else irr rm (trigEncl true n m e)

/-- cos and sin of 2πa / 2^32, each rounded to f32 by rne (R135). An exact zero is +0: R135 shows that of the cosine at a quarter turn
only, and leaves the other signs open (DESIGN CHOICE, log 134). -/
def turn (cos : Bool) (a : Nat) : Nat :=
  let k := (a / 2 ^ 30 + (if cos then 1 else 0)) % 4
  if a % 2 ^ 30 = 0 then
    (if k = 0 then 0 else if k = 1 then 0x3F800000 else if k = 2 then 0 else 0xBF800000)
  else f32.settle .rne (turnEncl cos a) precisions

/-- A rotated pair (R135): t := rne(y s), x' := fma(x, c, -t), w := rne(y c), y' := fma(x, s, w). -/
def rotatePair (a x y : Nat) : Nat × Nat :=
  let c := turn true a
  let s := turn false a
  let t := (f32.mul .rne y s).1
  let w := (f32.mul .rne y c).1
  ((f32.fma .rne x c (t ^^^ 0x80000000)).1, (f32.fma .rne x s w).1)

/-- e^d rounded to f32 by rne, for f32 bits d (R218). -/
def expRne (d : Nat) : Nat := (special .exp .rne d).1

/-- ln s rounded to f32 by rne, for f32 bits of a number of at least 1 (R218). -/
def lnRne (s : Nat) : Nat :=
  match f32.decode s with
  | .fin _ m e => if m = 0 then 0xFF800000 else if s = 0x3F800000 then 0 else (irr .rne (lnEncl m e)).1
  | .inf _ => f32.inf
  | .nan => f32.nan

/-- Whether both ends of an enclosure give one nearest integer to 2^32 times the value. -/
def nearestFrom (g : Nat → Encl) : List Nat → Nat
  | [] => 0
  | p :: ps =>
    let c := g p
    let r (x : Int) : Int := (toFix 33 x c.sh + 1) / 2
    if r c.lo = r c.hi || ps = [] then (r c.lo).toNat else nearestFrom g ps

/-- The nearest integer to 2^32 · e^(d / 2^32) for d at most 0 (R230). -/
def expWeight (d : Int) : Nat :=
  if d = 0 then 2 ^ 32
  else if d < -(64 * 2 ^ 32) then 0
  else nearestFrom (expEncl d (-32)) precisions

end Sys2Proof.Machine
end

