-- ==== Sys2Proof/WellFormed.lean ====
section
/-! DEFINITION. Which operands each row of the opcode table accepts (R69, R75, R84 to R93 and the entries). -/

namespace Sys2Proof

/-! ### Types -/

/-- The TY code of a type (R91). -/
def Ty.code : Ty → Nat
  | .b32 => 0 | .i32 => 1 | .n32 => 2 | .f32 => 3 | .bf16 => 4 | .f16 => 5 | .dl8 => 6 | .i8 => 7
  | .n8 => 8 | .i4 => 9 | .n4 => 10 | .b16 => 11 | .b8 => 12 | .b64 => 13 | .page => 14

/-- The type of a TY code; 0xF is illegal (R91). -/
def Ty.ofCode (n : Nat) : Option Ty :=
  match n with
  | 0 => some .b32 | 1 => some .i32 | 2 => some .n32 | 3 => some .f32 | 4 => some .bf16 | 5 => some .f16
  | 6 => some .dl8 | 7 => some .i8 | 8 => some .n8 | 9 => some .i4 | 10 => some .n4 | 11 => some .b16
  | 12 => some .b8 | 13 => some .b64 | 14 => some .page | _ => none

/-- The float types (R89). -/
def Ty.isFloat : Ty → Bool
  | .f32 | .bf16 | .f16 | .dl8 => true
  | _ => false

/-- Width in bits of an element of the type (R117, R120). -/
def Ty.width : Ty → Nat
  | .bf16 | .f16 | .b16 => 16
  | .dl8 | .i8 | .n8 | .b8 => 8
  | .i4 | .n4 => 4
  | .b64 => 64
  | _ => 32

/-- What an immediate of a source is read as (R89). -/
inductive ImmKind
  | int      -- an integer or bit type other than b64, or an index, count or number
  | wide     -- b64
  | float
  deriving DecidableEq, Repr

/-- The kind of an immediate read at a type. -/
def ImmKind.ofTy (t : Ty) : ImmKind := if t.isFloat then .float else if t = .b64 then .wide else .int

/-! ### Source and destination classes -/

/-- The classes a source accepts (R88, R290). A vector class also takes l0 and l1 unless `strict`. -/
structure SrcRule where
  vec : Bool := false
  strict : Bool := false
  scal : Bool := false
  pred : Bool := false
  greg : Bool := false
  tile : Bool := false
  imm : Bool := false
  deriving DecidableEq, Repr

namespace SrcRule
/-- An unused source. -/
def no : SrcRule := {}
def v : SrcRule := { vec := true }
def raw : SrcRule := { vec := true, strict := true }
def s : SrcRule := { scal := true }
def p : SrcRule := { pred := true }
def g : SrcRule := { greg := true }
def t : SrcRule := { tile := true }
def si : SrcRule := { scal := true, imm := true }
def vs : SrcRule := { vec := true, scal := true }
def vp : SrcRule := { vec := true, pred := true }
def vsi : SrcRule := { vec := true, scal := true, imm := true }
end SrcRule

/-- Whether a source field is of a class the rule accepts. -/
def SrcRule.accepts (r : SrcRule) : Src → Bool
  | .vec n k z => r.vec || (r = SrcRule.no && n == 0 && !k && !z)
  | .last _ => r.vec && !r.strict
  | .scal _ => r.scal
  | .pred _ => r.pred
  | .greg _ => r.greg
  | .tile _ => r.tile
  | .imm => r.imm

/-- The destinations an entry accepts (R90). `scalNV`: a scalar only when no source is a vector (R323). -/
structure DstRule where
  vec : Bool := false
  scal : Bool := false
  scalNV : Bool := false
  tile : Bool := false
  pred : Bool := false
  discard : Bool := false
  greg : Bool := false
  deriving DecidableEq, Repr

/-- Whether a source is a vector register or the last-result file. -/
def Src.isVec : Src → Bool
  | .vec _ _ _ | .last _ => true
  | _ => false

/-- Whether a source field names a scalar. -/
def Src.isScal : Src → Bool
  | .scal _ => true
  | _ => false

/-- Whether a source field holds an immediate. -/
def Src.isImm : Src → Bool
  | .imm => true
  | _ => false

/-- One row of the operand table: what the entry of an opcode accepts. `ua`, `ub`, `uc` say whether the
entry uses the source at all; `xfUsed` that it gives XF a meaning; `always` that it requires PI 7, PN 0. -/
structure XRule where
  tys : List Ty
  fn : Ty → Nat → Bool
  rm : XArgs → Bool
  a : SrcRule
  b : SrcRule
  c : SrcRule
  dst : DstRule
  imm : XArgs → ImmKind
  xfUsed : Bool
  always : Bool
  extra : XArgs → Bool

/-- RM must be 00 (R91). -/
def rmZero (x : XArgs) : Bool := x.rm = .rne
/-- Any RM. -/
def rmAny (_ : XArgs) : Bool := true

/-- A source's vector number, if it names one directly. -/
def Src.num? : Src → Option Nat
  | .vec n _ _ => some n.toNat
  | _ => Option.none

/-- A destination's vector number, if it is a vector register. -/
def Dst.num? : Dst → Option Nat
  | .vec n => some n.toNat
  | _ => none

/-- The vector number, when there is one, is a multiple of `m`. -/
def multOf (m : Nat) : Option Nat → Bool
  | some n => n % m == 0
  | none => true

/-- FN[4:3] as a register count: 1, 2 or 4 (R92). -/
def regCount (fn : BitVec 5) : Nat := 2 ^ (fn.toNat / 8)

/-- FN[4:3] = 11 is illegal (R92). -/
def countOk (n : Nat) : Bool := n / 8 ≠ 3

/-- Types that move bytes unchanged (R343). -/
def plainTys : List Ty := [.b32, .i32, .n32, .f32, .b64]

/-- b64 requires two or four registers (R138). -/
def countFits (x : XArgs) : Bool := x.ty ≠ .b64 || regCount x.fn ≠ 1

/-- The element positions of PACK and UNPK for a packed type (R120, R368, R410). -/
def elems (t : Ty) : Nat := 32 / t.width

/-- The data operand of a store (R403). The run that l0 or l1 names is tested when it is read (R73, R290). -/
def storeDataOk (x : XArgs) : Bool :=
  let n := regCount x.fn
  match x.c with
  | .vec v _ _ => v.toNat % n == 0
  | .last _ => true
  | .scal _ => n == 1 || (n == 2 && x.ty = .b64)
  | .imm => n == 1 && x.ty ≠ .b64 && x.ty ≠ .page
  | _ => false

/-- The operand C of an atomic (R290, R294, R295). -/
def atomicDataOk (x : XArgs) : Bool :=
  let cas := x.fn.toNat % 8 == 7
  let wide : Bool := x.ty = .b64
  match x.c with
  | .vec v _ _ => v.toNat % ((if cas then 2 else 1) * (if wide then 2 else 1)) == 0
  | .last _ => true
  | .scal _ => !(cas && wide)
  | .imm => !cas
  | _ => false

/-- FN of an atomic: one register for 32-bit types, two for b64; no min or max at 64 bits (R294). -/
def atomicFnOk (t : Ty) (n : Nat) : Bool :=
  if t = .b64 then n / 8 == 1 && n % 8 ≠ 1 && n % 8 ≠ 2 else n / 8 == 0

/-- The pairings of PMOV (R373). -/
def pmovOk (x : XArgs) : Bool :=
  let w := x.fn.toNat
  match x.dst, x.a with
  | .pred _, .vec _ _ _ | .pred _, .last _ | .pred _, .pred _ | .vec _, .pred _ => w == 0
  | .pred _, .scal _ | .scal _, .pred _ => w ≤ 2
  | _, _ => false

/-- The base of an operand-table row: type list, no function, RM 00, nothing used. -/
def base (tys : List Ty) : XRule :=
  { tys, fn := fun _ n => n == 0, rm := rmZero, a := .no, b := .no, c := .no, dst := {},
    imm := fun x => .ofTy x.ty, xfUsed := false, always := false, extra := fun _ => true }

/-- vD, sD when no source is a vector register, or discard (R338). -/
def dstVSD : DstRule := { vec := true, scalNV := true, discard := true }
/-- vD, or sD when no source is a vector register (R293). -/
def dstVS : DstRule := { vec := true, scalNV := true }
def dstV : DstRule := { vec := true }
def dstS : DstRule := { scal := true }
def dstNone : DstRule := { discard := true }

def intTys : List Ty := [.i32, .n32]
def floatTys : List Ty := [.f32, .bf16, .f16]

/-- The operand table of form X by opcode (R97 and the entries R293 to R415). IADD takes no tile: its entry R338 gives it none, though a
case under R159 has an IADD read one (DESIGN CHOICE, log 135). -/
def ruleOf (opc : Nat) : Option XRule :=
  let int2 : XRule := { base intTys with a := .vsi, b := .vsi, dst := dstVSD }
  let bits2 : XRule := { base [.b32] with a := .vs, b := .vsi, dst := dstVS }
  let bits1 : XRule := { base [.b32] with a := .vs, dst := dstVS }
  let float2 : XRule := { base floatTys with a := .vsi, b := .vsi, rm := rmAny, dst := dstVSD }
  let float1 : XRule := { base floatTys with a := .vsi, dst := dstVSD }
  let special : XRule := { base [.f32] with a := .vsi, rm := rmAny, dst := dstVSD }
  let load : XRule := { base plainTys with
    fn := fun _ n => countOk n && n % 8 == 0, b := .vsi, dst := dstV,
    imm := fun _ => .int, xfUsed := true,
    extra := fun x => countFits x && multOf (regCount x.fn) x.dst.num? }
  let store : XRule := { base plainTys with
    fn := fun _ n => countOk n && n % 8 == 0, b := .vsi, c := .vsi,
    dst := dstNone, imm := fun x => if x.c.isImm then .ofTy x.ty else .int, xfUsed := true,
    extra := fun x => countFits x && storeDataOk x }
  let atomic : XRule := { base intTys with
    fn := atomicFnOk, b := .vs, c := .vsi,
    dst := { vec := true, discard := true }, imm := fun x => .ofTy x.ty, xfUsed := true,
    extra := fun x => atomicDataOk x && (x.ty ≠ .b64 || multOf 2 x.dst.num?) }
  let engine : XRule := { base [.page] with fn := fun _ n => n ≤ 1, a := .s, b := .s, dst := dstNone }
  let matrix : XRule := { base [.bf16, .f16, .dl8, .i8, .n8, .i4, .n4] with
    a := .raw, b := .raw,
    dst := { tile := true }, always := true,
    extra := fun x => multOf 8 x.a.num? && multOf 4 x.b.num? }
  match opc with
  | 0x40 | 0x41 | 0x42 | 0x43 | 0x45 | 0x46 | 0x49 | 0x4A => some int2
  | 0x44 => some { int2 with c := .vsi }
  | 0x47 => some { int2 with b := .no }
  | 0x48 => some { int2 with b := .no, tys := [.i32] }
  | 0x4B => some { int2 with fn := fun _ n => n ≤ 5, dst := { pred := true } }
  | 0x4C | 0x4D | 0x4E | 0x4F | 0x50 | 0x51 | 0x52 | 0x54 => some bits2
  | 0x53 | 0x55 | 0x56 | 0x57 => some bits1
  | 0x58 => some { base intTys with a := .vsi, b := .vsi, c := .vsi, dst := { vec := true, discard := true } }
  | 0x59 => some { base [.b32] with a := .vsi, b := .vsi, c := .vsi, dst := dstV }
  | 0x5A => some { base [.b32, .b64] with
      a := .vsi, b := .vsi, c := .p, dst := dstV,
      extra := fun x => x.ty ≠ .b64 || (multOf 2 x.dst.num? && multOf 2 x.a.num? && multOf 2 x.b.num?) }
  | 0x5B => some { base [.b32, .b64] with
      a := .vsi, dst := dstVSD,
      extra := fun x => x.ty ≠ .b64 || (multOf 2 x.dst.num? && multOf 2 x.a.num?) }
  | 0x5C => some { base intTys with a := .si, b := .si, dst := dstV }
  | 0x60 | 0x61 | 0x62 => some float2
  | 0x63 => some { float2 with c := .vsi }
  | 0x64 | 0x65 => some { float2 with rm := rmZero }
  | 0x66 => some { float2 with rm := rmZero, fn := fun _ n => n ≤ 7, dst := { pred := true, discard := true } }
  | 0x67 | 0x68 | 0x72 => some float1
  | 0x69 | 0x6A | 0x6B | 0x6C | 0x6D | 0x6E | 0x6F | 0x70 | 0x71 => some special
  | 0x73 => some { base [.i32, .n32, .f32, .bf16, .f16, .dl8, .i8, .n8, .i4, .n4] with
      fn := fun _ n => 1 ≤ n && n ≤ 10, a := .vsi, dst := { vec := true, discard := true },
      rm := fun x => x.rm = .rne || x.ty.isFloat || ((Ty.ofCode x.fn.toNat).getD .b32).isFloat,
      imm := fun x => .ofTy ((Ty.ofCode x.fn.toNat).getD .b32) }
  | 0x74 => some { base [.bf16, .f16, .dl8, .i8, .n8, .i4, .n4] with
      fn := fun t n => n < elems t,
      a := .vsi, b := .vs, dst := dstVSD, xfUsed := true,
      rm := fun x => x.rm = .rne || x.ty.isFloat || ((Ty.ofCode x.xf.toNat).getD .b32).isFloat,
      imm := fun x => .ofTy ((Ty.ofCode x.xf.toNat).getD .b32),
      extra := fun x => 1 ≤ x.xf.toNat && x.xf.toNat ≤ 6 }
  | 0x75 => some { base [.i32, .n32, .f32] with
      fn := fun _ n => n ≤ 7, a := .vs, dst := dstVSD, xfUsed := true,
      rm := fun x => x.rm = .rne || x.ty.isFloat || ((Ty.ofCode x.xf.toNat).getD .b32).isFloat,
      extra := fun x => 4 ≤ x.xf.toNat && x.xf.toNat ≤ 10 &&
        x.fn.toNat < elems ((Ty.ofCode x.xf.toNat).getD .b32) }
  | 0x78 => some { base [.b32] with fn := fun _ n => n ≤ 3, a := .v, b := .vsi, dst := dstV }
  | 0x79 => some { base [.b32] with fn := fun _ n => n ≤ 2, a := .vp, dst := { vec := true, scal := true } }
  | 0x7A => some { base [.b32] with fn := fun _ n => n ≤ 2, a := .vp, dst := { pred := true, scal := true } }
  | 0x7B => some { base [.b32] with fn := fun _ n => n ≤ 2, a := .vs, dst := dstV }
  | 0x7C => some { base [.i32, .n32, .f32] with
      fn := fun t n => n ≤ 5 && (t ≠ .f32 || n ≤ 2), a := .vsi,
      dst := { vec := true, scal := true, discard := true },
      rm := fun x => x.rm = .rne || (x.ty = .f32 && x.fn == 0) }
  | 0x7D => some { base [.i32, .n32, .f32] with
      fn := fun t n => n < 16 && n % 8 ≤ 5 && (t ≠ .f32 || n % 8 ≤ 2), a := .vsi,
      dst := { vec := true, discard := true },
      rm := fun x => x.rm = .rne || (x.ty = .f32 && x.fn.toNat % 8 == 0) }
  | 0x7E => some { base [.b32] with a := .v, b := .v, c := .vsi, dst := dstV }
  | 0x7F => some { base [.b32, .b16, .b8] with
      a := .raw, dst := dstV,
      extra := fun x => multOf 8 x.dst.num? && x.a.num? = x.dst.num? }
  | 0x81 => some { base [.b32] with fn := fun _ n => n ≤ 7, a := .p, b := .p, dst := { pred := true, discard := true } }
  | 0x82 => some { base [.b32] with
      fn := fun _ n => n ≤ 2, a := { vec := true, scal := true, pred := true },
      dst := { vec := true, scal := true, pred := true }, extra := pmovOk }
  | 0x83 => some { base [.b32, .b64] with
      a := .v, b := .si, dst := dstS, imm := fun _ => .int,
      extra := fun x => x.ty ≠ .b64 || multOf 2 x.a.num? }
  | 0x84 => some { base [.b32, .b64] with
      a := .s, b := .si, dst := dstV, imm := fun _ => .int,
      extra := fun x => x.ty ≠ .b64 || multOf 2 x.dst.num? }
  | 0x88 => some { load with fn := fun _ n => countOk n && n % 8 ≤ 2 }
  | 0x89 => some { store with fn := fun _ n => countOk n && n % 8 ≤ 1 }
  | 0x8A => some atomic
  | 0x8B => some { load with tys := .page :: plainTys, a := .g }
  | 0x8C => some { store with tys := .page :: plainTys, a := .g, rm := fun x => x.rm = .rne || x.ty = .page }
  | 0x8D => some { atomic with tys := [.i32, .n32, .b64], a := .g }
  | 0x8E => some { base [.b32] with
      fn := fun _ n => countOk n && n % 8 == 0, a := .g, b := .vs, dst := dstNone,
      xfUsed := true }
  | 0x8F => some { base [.b32] with a := .s, b := .s, dst := { greg := true }, xfUsed := true, always := true }
  | 0x90 => some { load with tys := .page :: plainTys, a := .s }
  | 0x91 => some { store with tys := .page :: plainTys, a := .s, rm := fun x => x.rm = .rne || x.ty = .page }
  | 0x92 => some { atomic with tys := [.i32, .n32, .b64], a := .s }
  | 0x93 => some { base [.f32, .page] with
      fn := fun _ n => n == 8, a := .g, b := .vsi, c := .vs, dst := dstV,
      imm := fun _ => .int, xfUsed := true, extra := fun x => multOf 2 x.dst.num? }
  | 0x94 => some { base [.b32, .b64] with
      fn := fun _ n => countOk n && n % 8 == 0, a := .s, b := .vs,
      dst := { vec := true, scal := true }, xfUsed := true,
      extra := fun x => match x.dst with
        | .scal _ => x.ty = .b64 && x.fn == 0 && x.b = Src.none && !x.pn && x.pi == 7
        | _ => countFits x && multOf (regCount x.fn) x.dst.num? }
  | 0x95 => some { base [.b32, .b64] with a := .s, c := .s, dst := dstNone, xfUsed := true, always := true }
  | 0xA0 => some { engine with
      c := { scal := true, vec := true, strict := true },
      extra := fun x => !x.c.isVec || x.c = Src.none }
  | 0xA1 | 0xA2 => some { engine with b := .vs, c := .s }
  | 0xA3 => some { engine with
      tys := [.b32, .i32, .n32, .f32, .bf16], c := .s,
      fn := fun t n => n ≤ 5 && (t ≠ .b32 || n == 3 || n == 5) }
  | 0xA4 => some { engine with
      fn := fun _ n => n ≤ 2, c := { scal := true, vec := true, strict := true },
      extra := fun x => !x.c.isVec || x.c = Src.none }
  | 0xA5 => some { base [.b32] with dst := dstS }
  | 0xB0 => some matrix
  | 0xB1 => some { matrix with tys := [.dl8, .i8, .n8], fn := fun _ n => n ≤ 1, c := .raw }
  | 0xB2 => some { matrix with
      tys := [.bf16, .f16, .dl8], fn := fun _ n => n ≤ 2, a := .v, b := .v,
      c := { scal := true, vec := true, strict := true },
      extra := fun x => multOf 8 x.a.num? && multOf 4 x.b.num? &&
        (if x.fn == 0 then x.c = Src.none else !x.c.isVec) }
  | 0xB3 => some { base [.f32] with fn := fun _ n => n ≤ 1, a := .t, dst := dstV, always := true }
  | 0xB4 => some { base [.b32] with dst := { tile := true }, always := true }
  | 0xB5 => some { base [.b32] with
      fn := fun _ n => n ≤ 1, a := .s, b := .s, dst := { tile := true },
      xfUsed := true, always := true }
  | 0xB6 => some { base [.b32] with
      fn := fun _ n => n ≤ 1, a := .s, b := .s, c := .t, dst := dstNone,
      xfUsed := true, always := true }
  | 0xB7 => some { base [.i32] with a := .s, b := .v, dst := { pred := true, discard := true } }
  | 0xC0 => some { base [.f32] with a := .vsi, b := .vs, dst := dstNone }
  | 0xC1 => some { base [.b64] with a := .vsi, dst := dstVS, imm := fun _ => .int, extra := fun x => multOf 2 x.dst.num? }
  | 0xC2 => some { base [.n32] with a := .si, dst := dstS, always := true }
  | 0xC3 => some { base [.n32] with a := .vsi, dst := dstVS }
  | 0xC4 => some { base [.n32] with
      fn := fun _ n => n ≤ 1, a := .vsi, b := .vsi,
      c := { scal := true, vec := true, strict := true }, dst := dstV,
      extra := fun x => multOf 4 x.dst.num? && (if x.fn == 0 then x.c = Src.none else !x.c.isVec) }
  | 0xC5 => some { base [.f32] with fn := fun _ n => n ≤ 7, a := .vs, b := .s, c := .vs, dst := dstV, xfUsed := true }
  | 0xC6 => some { base [.n32] with a := .s, b := .s, dst := dstS, always := true }
  | 0xC8 => some { base [.b64] with dst := dstS, always := true }
  | _ => none

/-- K and Z are not both set (R75); the other classes carry no marks in this syntax. -/
def Src.marksOk : Src → Bool
  | .vec _ k z => !(k && z)
  | _ => true

/-- Whether a destination is of a kind the rule accepts, with `nv` = no source is a vector register.
p7 is never a destination (R69). -/
def DstRule.accepts (r : DstRule) (nv : Bool) : Dst → Bool
  | .vec _ => r.vec
  | .scal _ => r.scal || (r.scalNV && nv)
  | .tile _ => r.tile
  | .pred n => r.pred && n ≠ 7
  | .discard => r.discard
  | .greg _ => r.greg

/-- A source's vector-ness under its rule: an unused field is no vector source. -/
def SrcRule.usesVec (r : SrcRule) (s : Src) : Bool := s.isVec && r.vec

/-- The immediate rules of R89 and the literal rules of R86. -/
def immOk (r : XRule) (x : XArgs) : Bool :=
  let n := x.a.isImm.toNat + x.b.isImm.toNat + x.c.isImm.toNat
  match n, x.lit with
  | 0, none => r.xfUsed || x.xf == 0
  | 0, some _ => false
  | 1, none => !r.xfUsed && r.imm x = .int
  | 1, some l => (r.xfUsed || x.xf == 0) && (match r.imm x with
      | .wide => true
      | .int => l >>> 32 == 0 || l >>> 32 == 0xFFFFFFFF#64
      | .float => l >>> 32 == 0)
  | _, _ => false

/-- Whether the entry of the opcode accepts these fields (R98: anything else is ILLOP). -/
def xOk (opc : Nat) (x : XArgs) : Bool :=
  match ruleOf opc with
  | none => false
  | some r =>
    !(x.pn && x.pi == 7) && x.a.marksOk && x.b.marksOk && x.c.marksOk
    && r.tys.contains x.ty && r.fn x.ty x.fn.toNat && r.rm x
    && r.a.accepts x.a && r.b.accepts x.b && r.c.accepts x.c
    && r.dst.accepts (!(r.a.usesVec x.a || r.b.usesVec x.b || r.c.usesVec x.c)) x.dst
    && (!r.always || (x.pi == 7 && !x.pn))
    && immOk r x && r.extra x

/-- The opcode and fields of a form X instruction other than BRV (R97). -/
def Instr.xform : Instr → Option (Nat × XArgs)
  | .iadd x => some (0x40, x) | .isub x => some (0x41, x) | .imul x => some (0x42, x)
  | .imulhi x => some (0x43, x) | .imad x => some (0x44, x) | .idiv x => some (0x45, x)
  | .irem x => some (0x46, x) | .ineg x => some (0x47, x) | .iabs x => some (0x48, x)
  | .imin x => some (0x49, x) | .imax x => some (0x4A, x) | .icmp x => some (0x4B, x)
  | .shl x => some (0x4C, x) | .shr x => some (0x4D, x) | .sar x => some (0x4E, x)
  | .rotl x => some (0x4F, x) | .and x => some (0x50, x) | .or x => some (0x51, x)
  | .xor x => some (0x52, x) | .not x => some (0x53, x) | .andn x => some (0x54, x)
  | .popc x => some (0x55, x) | .clz x => some (0x56, x) | .brev x => some (0x57, x)
  | .bfe x => some (0x58, x) | .bfi x => some (0x59, x) | .sel x => some (0x5A, x)
  | .mov x => some (0x5B, x) | .movi x => some (0x5C, x)
  | .fadd x => some (0x60, x) | .fsub x => some (0x61, x) | .fmul x => some (0x62, x)
  | .fma x => some (0x63, x) | .fmin x => some (0x64, x) | .fmax x => some (0x65, x)
  | .fcmp x => some (0x66, x) | .fabs x => some (0x67, x) | .fneg x => some (0x68, x)
  | .frcp x => some (0x69, x) | .frcpz x => some (0x6A, x) | .frsq x => some (0x6B, x)
  | .fsqrt x => some (0x6C, x) | .fexp2 x => some (0x6D, x) | .fexp x => some (0x6E, x)
  | .flog2 x => some (0x6F, x) | .fsin x => some (0x70, x) | .fcos x => some (0x71, x)
  | .fclass x => some (0x72, x) | .cvt x => some (0x73, x) | .pack x => some (0x74, x)
  | .unpk x => some (0x75, x) | .shfl x => some (0x78, x) | .ballot x => some (0x79, x)
  | .vote x => some (0x7A, x) | .matchLanes x => some (0x7B, x) | .redux x => some (0x7C, x)
  | .scan x => some (0x7D, x) | .prmb x => some (0x7E, x) | .xpose x => some (0x7F, x)
  | .plog x => some (0x81, x) | .pmov x => some (0x82, x) | .vget x => some (0x83, x)
  | .vput x => some (0x84, x) | .lds x => some (0x88, x) | .sts x => some (0x89, x)
  | .ats x => some (0x8A, x) | .ldg x => some (0x8B, x) | .stg x => some (0x8C, x)
  | .atg x => some (0x8D, x) | .pfg x => some (0x8E, x) | .gset x => some (0x8F, x)
  | .ldf x => some (0x90, x) | .stf x => some (0x91, x) | .atf x => some (0x92, x)
  | .ldk x => some (0x93, x) | .reqld x => some (0x94, x) | .reqst x => some (0x95, x)
  | .cpy x => some (0xA0, x) | .gath x => some (0xA1, x) | .scat x => some (0xA2, x)
  | .coll x => some (0xA3, x) | .cpyf x => some (0xA4, x) | .cntrd x => some (0xA5, x)
  | .mma x => some (0xB0, x) | .mmas x => some (0xB1, x) | .mqk x => some (0xB2, x)
  | .msmx x => some (0xB3, x) | .mzero x => some (0xB4, x) | .mldt x => some (0xB5, x)
  | .mstt x => some (0xB6, x) | .tmask x => some (0xB7, x) | .plwadd x => some (0xC0, x)
  | .plwrd x => some (0xC1, x) | .rsmp x => some (0xC2, x) | .pmap x => some (0xC3, x)
  | .rngx x => some (0xC4, x) | .drawc x => some (0xC5, x) | .specv x => some (0xC6, x)
  | .sigrd x => some (0xC8, x)
  | _ => none

/-- The 32-bit instructions whose operands can be outside what their entries allow. -/
def Instr.shortOk : Instr → Bool
  | .fence k _ => k ≠ .rlx
  | .acq _ _ sp _ | .rel _ sp | .bind _ _ _ sp | .unbind _ sp => sp ≠ 3
  | .rdsr _ n | .wrsr _ n => n.toNat ≤ 0x11
  | .scmp _ _ _ c => c.toNat ≤ 9
  | .bar _ _ e | .barArrive _ _ e => 1 ≤ e.toNat && e.toNat ≤ 16
  | .brv pn pi _ => !(pn && pi == 7)
  | _ => true

/-- An instruction whose every operand is within what its entry accepts. -/
def Instr.wf (i : Instr) : Bool :=
  i.shortOk && (match i.xform with
    | some (opc, x) => xOk opc x
    | none => true)

end Sys2Proof
end

