-- ==== Sys2Proof/Machine/Num.lean ====
section
/-! DEFINITION. DL8, conversions among the number formats, and integer division (R120 to R128, R134). -/

namespace Sys2Proof.Machine

/-! ### DL8 (R125 to R127) -/

/-- The exact decimal magnitude of a DL8 code c of 2 to 127, as numerator and denominator (R125). -/
def dl8Mag (c : Nat) : Nat × Nat :=
  let m := Nat.log2 c
  if m = 1 then (if c % 2 = 0 then (1, 10 ^ 11) else (10 ^ 10, 1))
  else
    let k : Int := 6 - m
    let fw := m - 2
    let e : Int := match bits c (m - 1) (m - 2) with
      | 0 => -(2 * k + 2)
      | 1 => -(2 * k + 1)
      | 2 => 2 * k
      | _ => 2 * k + 1
    ((2 ^ fw + 9 * (c % 2 ^ fw)) * 10 ^ e.toNat, 2 ^ fw * 10 ^ (-e).toNat)

/-- The binary32 decode of a DL8 byte (R125). -/
def dl8Decode (x : Nat) : Nat :=
  let neg := x.testBit 7
  let c := x % 128
  if c = 0 then (if neg then f32.nan else 0)
  else if c = 1 then f32.mk' neg f32.inf
  else (f32.round .rne neg (dl8Mag c).1 (dl8Mag c).2).1

/-- Codes from `a` on. -/
def codesFrom (a n : Nat) : List Nat := (List.range n).map (a + ·)

/-- The codes of the finite nonzero magnitudes, ascending (R126). -/
def dl8Order : List Nat :=
  [0x02, 0x04, 0x05] ++ codesFrom 0x08 4 ++ codesFrom 0x10 8 ++ codesFrom 0x20 16 ++ codesFrom 0x40 64
    ++ codesFrom 0x30 16 ++ codesFrom 0x18 8 ++ codesFrom 0x0C 4 ++ [0x06, 0x07, 0x03]

/-- A positive num/den between the code `lo` and the codes that follow it, rounded (R127). A tie of two odd
codes, which the rule does not settle, goes to a free one of them (log 20). -/
def dl8Between (rm : Rm) (neg : Bool) (num den lo : Nat) : List Nat → Nat
  | [] => lo
  | hi :: rest =>
    let (hn, hd) := dl8Mag hi
    if num * hd = hn * den then hi
    else if hn * den < num * hd then dl8Between rm neg num den hi rest
    else
      let (ln, ld) := if lo = 0 then (0, 1) else dl8Mag lo
      -- twice the input against the sum of the neighbours, over one denominator
      let x := 2 * num * (hd * ld)
      let y := (hn * ld + ln * hd) * den
      match rm with
      | .rtz => lo
      | .rdn => if neg then hi else lo
      | .rup => if neg then lo else hi
      | .rne =>
        if y < x then hi else if x < y then lo
        else if lo % 2 = 0 then lo else if hi % 2 = 0 then hi else if Config.dl8Tie neg then hi else lo

/-- Whether the binary32 decode of a code is num/den. -/
def dl8Equals (num den c : Nat) : Bool :=
  match f32.decode (dl8Decode c) with
  | .fin _ m e => if 0 ≤ e then num = m * 2 ^ e.toNat * den else num * 2 ^ (-e).toNat = m * den
  | _ => false

/-- A conversion to DL8 and whether it is inexact (R127). −0 becomes code 0x00, whose decode is +0, and counts as exact: the rule
does not say whether a lost sign is a difference (DESIGN CHOICE, log 124). -/
def dl8Encode (rm : Rm) : FVal → Nat × Bool
  | .nan => (0x80, false)
  | .inf neg => (if neg then 0x81 else 0x01, false)
  | .fin neg m e =>
    if m = 0 then (0, false)
    else
      let num := if 0 ≤ e then m * 2 ^ e.toNat else m
      let den := if 0 ≤ e then 1 else 2 ^ (-e).toNat
      let s (c : Nat) : Nat := if neg && c ≠ 0 then c + 128 else c
      match dl8Order.find? (dl8Equals num den) with
      | some c => (s c, false)
      | none => if 10 ^ 10 * den < num then (s 0x03, true) else (s (dl8Between rm neg num den 0 dl8Order), true)

/-! ### Conversions (R124) -/

/-- Whether an integer type is signed. -/
def tySigned : Ty → Bool
  | .i32 | .i8 | .i4 => true
  | _ => false

/-- The value of the low bits of a lane at a type (R117, R120, R321). -/
def tyValue (t : Ty) (x : Nat) : FVal :=
  match t with
  | .f32 => f32.decode x
  | .bf16 => bf16.decode x
  | .f16 => f16.decode x
  | .dl8 => f32.decode (dl8Decode x)
  | _ =>
    let v : Int := if tySigned t then sextInt x t.width else (x % 2 ^ t.width : Nat)
    .fin (v < 0) v.natAbs 0

/-- Least and greatest value of an integer type (R120). -/
def tyRange (t : Ty) : Int × Int :=
  if tySigned t then (-(2 ^ (t.width - 1)), 2 ^ (t.width - 1) - 1) else (0, 2 ^ t.width - 1)

/-- A value converted to an integer type: rounded, then saturated (R124). So is one from an integer type of equal or greater
width whose value is out of range, with INEXACT: R124 has a row for narrower integers only (DESIGN CHOICE, log 123). -/
def toInt (t : Ty) (rm : Rm) : FVal → Int × Bool
  | .nan => (0, true)
  | .inf neg => (if neg then (tyRange t).1 else (tyRange t).2, true)
  | .fin neg m e =>
    let d := if 0 ≤ e then 1 else 2 ^ (-e).toNat
    let n := if 0 ≤ e then m * 2 ^ e.toNat else m
    let q := if roundUp rm neg (n / d % 2 == 1) (n % d) d then n / d + 1 else n / d
    let v := signed neg q
    let (lo, hi) := tyRange t
    if v < lo then (lo, true) else if hi < v then (hi, true) else (v, n % d ≠ 0)

/-- A value converted to a type: the 32 bits of the lane and whether it is inexact (R124, R321). -/
def toTy (t : Ty) (rm : Rm) (v : FVal) : Nat × Bool :=
  match t with
  | .f32 => f32.ofV rm v
  | .bf16 => bf16.ofV rm v
  | .f16 => f16.ofV rm v
  | .dl8 => dl8Encode rm v
  | _ => (wrap (toInt t rm v).1 32, (toInt t rm v).2)

/-- A conversion from one type to another (R124). -/
def convert (src dst : Ty) (rm : Rm) (x : Nat) : Nat × Bool := toTy dst rm (tyValue src x)

/-- The value of a float immediate: the literal's binary32 value at the source type (R89). -/
def floatImm (t : Ty) (lit : Nat) : Nat := (convert .f32 t .rne (lit % 2 ^ 32)).1

/-- The binary format of a float type other than dl8. -/
def fmtOf : Ty → Fmt
  | .bf16 => bf16
  | .f16 => f16
  | _ => f32

/-! ### Integer division (R128) -/

/-- Quotient, remainder, DIVZ and OVF of a division of w-bit numbers. -/
def divide (w : Nat) (isSigned : Bool) (x y : Nat) : Nat × Nat × Bool × Bool :=
  let x := x % 2 ^ w
  let y := y % 2 ^ w
  if isSigned then
    let a := sextInt x w
    let b := sextInt y w
    if b = 0 then
      ((if a = 0 then 0 else if 0 < a then 2 ^ (w - 1) - 1 else 2 ^ (w - 1)), x, true, false)
    else if x = 2 ^ (w - 1) && b = -1 then (2 ^ (w - 1), 0, false, true)
    else (wrap (a.tdiv b) w, wrap (a.tmod b) w, false, false)
  else if y = 0 then ((if x = 0 then 0 else 2 ^ w - 1), x, true, false)
  else (x / y, x % y, false, false)

/-! ### Log-weights (R133, R134) -/

/-- The increment of PLWADD for f32 bits, as an integer of 2^-32 steps; none is the flag of minus infinity. -/
def weightStep (x : Nat) : Option Int :=
  match f32.decode x with
  | .nan => none
  | .inf neg => if neg then none else some (2 ^ 63 - 1)
  | .fin neg m e =>
    let k := e + 32
    let n := if 0 ≤ k then m * 2 ^ k.toNat else m
    let d := if 0 ≤ k then 1 else 2 ^ (-k).toNat
    let q := if roundUp .rne neg (n / d % 2 == 1) (n % d) d then n / d + 1 else n / d
    some (signed neg (min q (2 ^ 63 - 1)))

/-- What a log-weight reads as: the sum saturated to the finite range, or minus infinity (R134). -/
def weightRead (sum : Int) (minusInf : Bool) : Int :=
  if minusInf then -(2 ^ 63) else max (-(2 ^ 63) + 1) (min (2 ^ 63 - 1) sum)

end Sys2Proof.Machine
end

