-- ==== Sys2Proof/Decode.lean ====
section
/-! DEFINITION. Decoding of instruction words, total and rejecting by name (R82 to R98), and the encoder. -/

namespace Sys2Proof

/-- Why a word sequence is no instruction. Every one is ILLOP (R98) but `short`, which says that the words
given end before the instruction does. -/
inductive DecodeErr
  | short        -- fewer words than LEN asks for
  | pairing      -- LEN and OPC do not pair (R83)
  | opcode       -- an unassigned opcode (R96, R97)
  | reserved     -- a must-be-zero field is not zero (R84, R86, R87)
  | field        -- an illegal field value (R87 to R93)
  | operand      -- an operand the entry does not accept (R98, R290)
  deriving DecidableEq, Repr

/-! ### Fields -/

/-- LEN of a first word (R82). -/
def wordLen (w : Word) : Nat := bits w.toNat 31 30
/-- OPC of a first word (R82). -/
def wordOpc (w : Word) : Nat := bits w.toNat 29 22
/-- Words of an instruction by LEN (R82). -/
def lenWords : Nat → Nat
  | 0 => 1
  | 3 => 5
  | _ => 3

/-- The order an ORD code names (R93). -/
def ordOf : Nat → Option Ord
  | 0 => some .rlx | 1 => some .acq | 2 => some .rel | 3 => some .ar | _ => none
/-- The ORD code (R93). -/
def Ord.code : Ord → Nat
  | .rlx => 0 | .acq => 1 | .rel => 2 | .ar => 3
/-- The scope a SCOPE code names (R93). -/
def scopeOf : Nat → Option Scope
  | 0 => some .group | 1 => some .team | 2 => some .die | 3 => some .device | 4 => some .pod | _ => none
/-- The fence kind a KIND code names: full, acquire, release (R175). -/
def fenceOf : Nat → Option Ord
  | 0 => some .ar | 1 => some .acq | 2 => some .rel | _ => none
/-- The KIND code of a fence (R175). -/
def fenceCode : Ord → Nat
  | .acq => 1 | .rel => 2 | _ => 0
/-- The type a TY code names (R91). -/
def tyOf : Nat → Option Ty
  | 15 => none
  | n => Ty.ofCode n
/-- The rounding mode of RM (R87). -/
def rmOf : Nat → Rm
  | 0 => .rne | 1 => .rtz | 2 => .rdn | _ => .rup
/-- The RM code (R87). -/
def Rm.code : Rm → Nat
  | .rne => 0 | .rtz => 1 | .rdn => 2 | .rup => 3

/-- The prefix fields of an MPX word, or of MDEF, from bits [21:12] as a number; none where ORD or SCOPE is illegal (R93, R95). -/
def prefixOf (x : Nat) : Option Prefix :=
  match ordOf (bits x 9 7), scopeOf (bits x 6 4) with
  | some o, some s => some { ord := o, scope := s, cache := BitVec.ofNat 2 (bits x 3 2), nt := bit x 1, rx := bit x 0 }
  | _, _ => none

/-- Bits [21:12] of a prefix (R93). -/
def Prefix.code (p : Prefix) : Nat :=
  p.ord.code * 128 + p.scope.code * 16 + p.cache.toNat * 4 + p.nt.toNat * 2 + p.rx.toNat

/-- A source field of class `cls` (R88); K and Z only with class 00, and not both (R75). -/
def srcOf (cls field : Nat) : Option Src :=
  let num := field % 256
  let k := bit field 9
  let z := bit field 8
  if cls = 0 then (if k && z then none else some (.vec (BitVec.ofNat 8 num) k z))
  else if k || z then none
  else if cls = 1 then (if num < 64 then some (.scal (BitVec.ofNat 6 num)) else none)
  else if cls = 2 then
    (if num < 2 then some (.last (num == 1))
     else if 0x10 ≤ num && num ≤ 0x1F then some (.tile (BitVec.ofNat 4 num))
     else if 0x20 ≤ num && num ≤ 0x27 then some (.pred (BitVec.ofNat 3 num))
     else if 0x30 ≤ num && num ≤ 0x3F then some (.greg (BitVec.ofNat 4 num))
     else none)
  else (if num = 0 then some .imm else none)

/-- Class and field of a source (R88). -/
def Src.code : Src → Nat × Nat
  | .vec n k z => (0, n.toNat + k.toNat * 512 + z.toNat * 256)
  | .scal n => (1, n.toNat)
  | .last second => (2, second.toNat)
  | .tile n => (2, 0x10 + n.toNat)
  | .pred n => (2, 0x20 + n.toNat)
  | .greg n => (2, 0x30 + n.toNat)
  | .imm => (3, 0)

/-- The destination DC and DN name (R90). -/
def dstOf (dc : Bool) (dn : Nat) : Option Dst :=
  if !dc then some (.vec (BitVec.ofNat 8 dn))
  else if dn < 0x40 then some (.scal (BitVec.ofNat 6 dn))
  else if dn < 0x50 then some (.tile (BitVec.ofNat 4 dn))
  else if dn < 0x57 then some (.pred (BitVec.ofNat 3 dn))
  else if dn = 0x58 then some .discard
  else if 0x60 ≤ dn && dn < 0x70 then some (.greg (BitVec.ofNat 4 dn))
  else none

/-- DC and DN of a destination (R90). -/
def Dst.code : Dst → Nat × Nat
  | .vec n => (0, n.toNat)
  | .scal n => (1, n.toNat)
  | .tile n => (1, 0x40 + n.toNat)
  | .pred n => (1, 0x50 + n.toNat)
  | .discard => (1, 0x58)
  | .greg n => (1, 0x60 + n.toNat)

/-! ### The encoder -/

/-- A first word of LEN 00 or 01. -/
def head (len opc rest : Nat) : Word := BitVec.ofNat 32 (len * 2 ^ 30 + opc * 2 ^ 22 + rest)
/-- Form B (R84). -/
def formB (opc : Nat) (d a b : BitVec 6) (sub : Nat) : List Word :=
  [head 0 opc (d.toNat * 2 ^ 16 + a.toNat * 2 ^ 10 + b.toNat * 2 ^ 4 + sub)]
/-- Form I (R84). -/
def formI (opc : Nat) (d a : BitVec 6) (imm : Nat) : List Word :=
  [head 0 opc (d.toNat * 2 ^ 16 + a.toNat * 2 ^ 10 + imm)]
/-- Form I with a literal (R86). -/
def formL (opc : Nat) (d a : BitVec 6) (lit : BitVec 64) : List Word :=
  [head 1 opc (d.toNat * 2 ^ 16 + a.toNat * 2 ^ 10), BitVec.ofNat 32 lit.toNat,
   BitVec.ofNat 32 (lit.toNat / 2 ^ 32)]

/-- Form X (R86 to R88). -/
def formX (opc : Nat) (x : XArgs) : List Word :=
  let (ca, fa) := x.a.code
  let (cb, fb) := x.b.code
  let (cc, fc) := x.c.code
  let (dc, dn) := x.dst.code
  let len := if x.lit.isSome then 3 else 2
  let w0 := len * 2 ^ 30 + opc * 2 ^ 22 + x.pn.toNat * 2 ^ 21 + x.pi.toNat * 2 ^ 18 + dc * 2 ^ 17
    + dn * 2 ^ 9 + x.ty.code * 2 ^ 5 + x.fn.toNat
  let w1 := fa * 2 ^ 22 + fb * 2 ^ 12 + fc * 2 ^ 2
  let w2 := ca * 2 ^ 30 + cb * 2 ^ 28 + cc * 2 ^ 26 + x.rm.code * 2 ^ 24 + x.xf.toNat
  [BitVec.ofNat 32 w0, BitVec.ofNat 32 w1, BitVec.ofNat 32 w2]
    ++ match x.lit with
       | none => []
       | some l => [BitVec.ofNat 32 l.toNat, BitVec.ofNat 32 (l.toNat / 2 ^ 32)]

/-- The words of an instruction (R84 to R97); none for an event. -/
def encode : Instr → List Word
  | .nop => [0]
  | .br o => [head 0 0x01 o.toNat]
  | .brc s cc o => [head 0 0x02 (s.toNat * 2 ^ 16 + cc.toNat * 2 ^ 14 + o.toNat)]
  | .call o => [head 0 0x03 o.toNat]
  | .ret => [head 0 0x04 0]
  | .brx a => formB 0x05 0 a 0 0
  | .exit => [head 0 0x06 0]
  | .join => [head 0 0x07 0]
  | .bar d n e => formI 0x08 d 0 (n.toNat * 64 + e.toNat * 2)
  | .barArrive d n e => formI 0x08 d 0 (n.toNat * 64 + e.toNat * 2 + 1)
  | .fence k s => formI 0x09 0 0 (fenceCode k * 8 + s.code)
  | .acq d a sp ex => formI 0x0A d a (sp.toNat * 2 + ex.toNat)
  | .rel a sp => formI 0x0B 0 a (sp.toNat * 2)
  | .bind k a b sp => formB 0x0C k a b sp.toNat
  | .unbind k sp => formB 0x0D k 0 0 sp.toNat
  | .waitc c n => formI 0x0E 0 0 (c.toNat * 256 + n.toNat)
  | .mbatch d => formI 0x0F d 0 0
  | .mwait a => formI 0x10 0 a 0
  | .susp c a b n => formB 0x11 c a b n.toNat
  | .evsig d a b => formB 0x12 d a b 0
  | .acqr => [head 0 0x13 0]
  | .rela => [head 0 0x14 0]
  | .setb d n => formI 0x15 d 0 n.toNat
  | .launch d a => formB 0x16 d a 0 0
  | .trap n => formI 0x17 0 0 n.toNat
  | .eret => formB 0x18 0 0 0 0
  | .eretSkip => formB 0x18 0 0 0 1
  | .rdsr d n => formI 0x19 d 0 n.toNat
  | .wrsr a n => formI 0x1A 0 a n.toNat
  | .bkpt n => formI 0x1B 0 0 n.toNat
  | .mpx p => [head 0 0x1C (p.code * 2 ^ 12)]
  | .seal d a => formB 0x1D d a 0 0
  | .sealRel d b => formB 0x1D d 0 b 1
  | .stepcmt d => formB 0x1E d 0 0 0
  | .qmov d a c => formB 0x1F d a 0 (2 + c.toNat)
  | .sadd d a b => formB 0x20 d a b 0
  | .ssub d a b => formB 0x21 d a b 0
  | .smul d a b => formB 0x22 d a b 0
  | .smulhi d a b => formB 0x23 d a b 0
  | .sand d a b => formB 0x24 d a b 0
  | .sor d a b => formB 0x25 d a b 0
  | .sxor d a b => formB 0x26 d a b 0
  | .sshl d a b => formB 0x27 d a b 0
  | .sshr d a b => formB 0x28 d a b 0
  | .ssar d a b => formB 0x29 d a b 0
  | .smov d a => formB 0x2A d a 0 0
  | .sli d i => formI 0x2B d 0 i.toNat
  | .sliLit d l => formL 0x2B d 0 l
  | .scmp d a b c => formB 0x2C d a b c.toNat
  | .sbfe d a b s => formB 0x2D d a b s.toNat
  | .sffs d a h => formB 0x2E d a 0 h.toNat
  | .spopc d a => formB 0x2F d a 0 0
  | .ssel d a b => formB 0x30 d a b 0
  | .sdiv d a b m => formB 0x31 d a b m.toNat
  | .smin d a b u => formB 0x32 d a b u.toNat
  | .smax d a b u => formB 0x33 d a b u.toNat
  | .saddi d a i => formI 0x34 d a i.toNat
  | .saddiLit d a l => formL 0x34 d a l
  | .sldu d a i => formI 0x35 d a i.toNat
  | .slduLit d a l => formL 0x35 d a l
  | .sstu d a i => formI 0x36 d a i.toNat
  | .sstuLit d a l => formL 0x36 d a l
  | .brv pn pi o => [BitVec.ofNat 32 (2 * 2 ^ 30 + 0x80 * 2 ^ 22 + pn.toNat * 2 ^ 21 + pi.toNat * 2 ^ 18), 0,
      BitVec.ofNat 32 o.toNat]
  | i => match i.xform with
    | some (opc, x) => formX opc x
    | none => []

/-! ### The decoder -/

/-- The instruction a LEN 00 word would be by its OPC and the fields its form gives. Fields the form does
not use are checked by `decodeShort`. -/
def shortCandidate (w : Word) : Option Instr :=
  let n := w.toNat
  let d : BitVec 6 := BitVec.ofNat 6 (n / 2 ^ 16)
  let a : BitVec 6 := BitVec.ofNat 6 (n / 2 ^ 10)
  let b : BitVec 6 := BitVec.ofNat 6 (n / 2 ^ 4)
  let i : BitVec 10 := BitVec.ofNat 10 n
  let sub := n % 16
  match wordOpc w with
  | 0x00 => some .nop
  | 0x01 => some (.br (BitVec.ofNat 22 n))
  | 0x02 => some (.brc d (BitVec.ofNat 2 (n / 2 ^ 14)) (BitVec.ofNat 14 n))
  | 0x03 => some (.call (BitVec.ofNat 22 n))
  | 0x04 => some .ret
  | 0x05 => some (.brx a)
  | 0x06 => some .exit
  | 0x07 => some .join
  | 0x08 =>
    if bit n 0 then some (.barArrive d (BitVec.ofNat 4 (n / 64)) (BitVec.ofNat 5 (n / 2)))
    else some (.bar d (BitVec.ofNat 4 (n / 64)) (BitVec.ofNat 5 (n / 2)))
  | 0x09 =>
    match fenceOf (bits n 4 3), scopeOf (bits n 2 0) with
    | some k, some s => some (.fence k s)
    | _, _ => none
  | 0x0A => some (.acq d a (BitVec.ofNat 2 (n / 2)) (bit n 0))
  | 0x0B => some (.rel a (BitVec.ofNat 2 (n / 2)))
  | 0x0C => some (.bind d a b (BitVec.ofNat 2 n))
  | 0x0D => some (.unbind d (BitVec.ofNat 2 n))
  | 0x0E => some (.waitc (BitVec.ofNat 2 (n / 256)) (BitVec.ofNat 8 n))
  | 0x0F => some (.mbatch d)
  | 0x10 => some (.mwait a)
  | 0x11 => some (.susp d a b (BitVec.ofNat 4 n))
  | 0x12 => some (.evsig d a b)
  | 0x13 => some .acqr
  | 0x14 => some .rela
  | 0x15 => some (.setb d i)
  | 0x16 => some (.launch d a)
  | 0x17 => some (.trap i)
  | 0x18 => if sub = 0 then some .eret else some .eretSkip
  | 0x19 => some (.rdsr d i)
  | 0x1A => some (.wrsr a i)
  | 0x1B => some (.bkpt i)
  | 0x1C => (prefixOf (bits n 21 12)).map .mpx
  | 0x1D => if sub = 0 then some (.seal d a) else some (.sealRel d b)
  | 0x1E => some (.stepcmt d)
  | 0x1F => some (.qmov d a (bit n 0))
  | 0x20 => some (.sadd d a b)
  | 0x21 => some (.ssub d a b)
  | 0x22 => some (.smul d a b)
  | 0x23 => some (.smulhi d a b)
  | 0x24 => some (.sand d a b)
  | 0x25 => some (.sor d a b)
  | 0x26 => some (.sxor d a b)
  | 0x27 => some (.sshl d a b)
  | 0x28 => some (.sshr d a b)
  | 0x29 => some (.ssar d a b)
  | 0x2A => some (.smov d a)
  | 0x2B => some (.sli d i)
  | 0x2C => some (.scmp d a b (BitVec.ofNat 4 n))
  | 0x2D => some (.sbfe d a b (bit n 0))
  | 0x2E => some (.sffs d a (bit n 0))
  | 0x2F => some (.spopc d a)
  | 0x30 => some (.ssel d a b)
  | 0x31 => some (.sdiv d a b (BitVec.ofNat 2 n))
  | 0x32 => some (.smin d a b (bit n 0))
  | 0x33 => some (.smax d a b (bit n 0))
  | 0x34 => some (.saddi d a i)
  | 0x35 => some (.sldu d a i)
  | 0x36 => some (.sstu d a i)
  | _ => none

/-- Decoding of a LEN 00 word: the candidate, when its own word is this one, so that every bit the form
leaves unused is zero (R84, R98), and its operands are legal. -/
def decodeShort (w : Word) : Except DecodeErr Instr :=
  if 0x37 ≤ wordOpc w then .error .pairing
  else match shortCandidate w with
    | none => .error .field
    | some i => if encode i ≠ [w] then .error .reserved else if i.wf then .ok i else .error .operand

/-- Decoding of the LEN 01 form (R83, R86). -/
def decodeLit (w w1 w2 : Word) : Except DecodeErr Instr :=
  let n := w.toNat
  let d : BitVec 6 := BitVec.ofNat 6 (n / 2 ^ 16)
  let a : BitVec 6 := BitVec.ofNat 6 (n / 2 ^ 10)
  let l : BitVec 64 := BitVec.ofNat 64 (w1.toNat + w2.toNat * 2 ^ 32)
  let accept (i : Instr) : Except DecodeErr Instr := if encode i = [w, w1, w2] then .ok i else .error .reserved
  match wordOpc w with
  | 0x2B => accept (.sliLit d l)
  | 0x34 => accept (.saddiLit d a l)
  | 0x35 => accept (.slduLit d a l)
  | 0x36 => accept (.sstuLit d a l)
  | _ => .error .pairing

/-- The constructor of a form X opcode other than BRV (R97). -/
def xCons (opc : Nat) (x : XArgs) : Option Instr :=
  match opc with
  | 0x40 => some (.iadd x) | 0x41 => some (.isub x) | 0x42 => some (.imul x) | 0x43 => some (.imulhi x)
  | 0x44 => some (.imad x) | 0x45 => some (.idiv x) | 0x46 => some (.irem x) | 0x47 => some (.ineg x)
  | 0x48 => some (.iabs x) | 0x49 => some (.imin x) | 0x4A => some (.imax x) | 0x4B => some (.icmp x)
  | 0x4C => some (.shl x) | 0x4D => some (.shr x) | 0x4E => some (.sar x) | 0x4F => some (.rotl x)
  | 0x50 => some (.and x) | 0x51 => some (.or x) | 0x52 => some (.xor x) | 0x53 => some (.not x)
  | 0x54 => some (.andn x) | 0x55 => some (.popc x) | 0x56 => some (.clz x) | 0x57 => some (.brev x)
  | 0x58 => some (.bfe x) | 0x59 => some (.bfi x) | 0x5A => some (.sel x) | 0x5B => some (.mov x)
  | 0x5C => some (.movi x)
  | 0x60 => some (.fadd x) | 0x61 => some (.fsub x) | 0x62 => some (.fmul x) | 0x63 => some (.fma x)
  | 0x64 => some (.fmin x) | 0x65 => some (.fmax x) | 0x66 => some (.fcmp x) | 0x67 => some (.fabs x)
  | 0x68 => some (.fneg x) | 0x69 => some (.frcp x) | 0x6A => some (.frcpz x) | 0x6B => some (.frsq x)
  | 0x6C => some (.fsqrt x) | 0x6D => some (.fexp2 x) | 0x6E => some (.fexp x) | 0x6F => some (.flog2 x)
  | 0x70 => some (.fsin x) | 0x71 => some (.fcos x) | 0x72 => some (.fclass x) | 0x73 => some (.cvt x)
  | 0x74 => some (.pack x) | 0x75 => some (.unpk x)
  | 0x78 => some (.shfl x) | 0x79 => some (.ballot x) | 0x7A => some (.vote x) | 0x7B => some (.matchLanes x)
  | 0x7C => some (.redux x) | 0x7D => some (.scan x) | 0x7E => some (.prmb x) | 0x7F => some (.xpose x)
  | 0x81 => some (.plog x) | 0x82 => some (.pmov x) | 0x83 => some (.vget x) | 0x84 => some (.vput x)
  | 0x88 => some (.lds x) | 0x89 => some (.sts x) | 0x8A => some (.ats x) | 0x8B => some (.ldg x)
  | 0x8C => some (.stg x) | 0x8D => some (.atg x) | 0x8E => some (.pfg x) | 0x8F => some (.gset x)
  | 0x90 => some (.ldf x) | 0x91 => some (.stf x) | 0x92 => some (.atf x) | 0x93 => some (.ldk x)
  | 0x94 => some (.reqld x) | 0x95 => some (.reqst x)
  | 0xA0 => some (.cpy x) | 0xA1 => some (.gath x) | 0xA2 => some (.scat x) | 0xA3 => some (.coll x)
  | 0xA4 => some (.cpyf x) | 0xA5 => some (.cntrd x)
  | 0xB0 => some (.mma x) | 0xB1 => some (.mmas x) | 0xB2 => some (.mqk x) | 0xB3 => some (.msmx x)
  | 0xB4 => some (.mzero x) | 0xB5 => some (.mldt x) | 0xB6 => some (.mstt x) | 0xB7 => some (.tmask x)
  | 0xC0 => some (.plwadd x) | 0xC1 => some (.plwrd x) | 0xC2 => some (.rsmp x) | 0xC3 => some (.pmap x)
  | 0xC4 => some (.rngx x) | 0xC5 => some (.drawc x) | 0xC6 => some (.specv x) | 0xC8 => some (.sigrd x)
  | _ => none

/-- The fields of a form X instruction (R87 to R91). -/
def xFields (w0 w1 w2 : Word) (lit : Option (BitVec 64)) : Option XArgs :=
  let n0 := w0.toNat
  let n1 := w1.toNat
  let n2 := w2.toNat
  match dstOf (bit n0 17) (bits n0 16 9), tyOf (bits n0 8 5), srcOf (bits n2 31 30) (bits n1 31 22),
      srcOf (bits n2 29 28) (bits n1 21 12), srcOf (bits n2 27 26) (bits n1 11 2) with
  | some dst, some ty, some a, some b, some c =>
    some { pn := bit n0 21, pi := BitVec.ofNat 3 (bits n0 20 18), dst, ty, fn := BitVec.ofNat 5 n0, a, b, c,
           rm := rmOf (bits n2 25 24), xf := BitVec.ofNat 24 n2, lit }
  | _, _, _, _, _ => none

/-- Decoding of form X (R87 to R97). -/
def decodeX (w0 w1 w2 : Word) (lit : Option (BitVec 64)) : Except DecodeErr Instr :=
  let n0 := w0.toNat
  let n1 := w1.toNat
  let opc := wordOpc w0
  if opc < 0x40 || opc = 0xFF then .error .pairing
  else if bits n1 1 0 ≠ 0 then .error .reserved
  else if opc = 0x80 then
    (if lit.isSome || bits n0 17 0 ≠ 0 || n1 ≠ 0 || bits w2.toNat 31 24 ≠ 0 then .error .reserved
     else
      let i := Instr.brv (bit n0 21) (BitVec.ofNat 3 (bits n0 20 18)) (BitVec.ofNat 24 w2.toNat)
      if i.wf then .ok i else .error .field)
  else match xFields w0 w1 w2 lit with
    | none => .error .field
    | some x => match xCons opc x with
      | none => .error .opcode
      | some i => if xOk opc x then .ok i else .error .operand

/-- Decoding of the words at a PC: the instruction and the number of its words (R82, R98). -/
def decode (ws : List Word) : Except DecodeErr (Instr × Nat) :=
  match ws with
  | [] => .error .short
  | w :: rest =>
    let lit (a b : Word) : BitVec 64 := BitVec.ofNat 64 (a.toNat + b.toNat * 2 ^ 32)
    match wordLen w, rest with
    | 0, _ => (decodeShort w).map fun i => (i, 1)
    | 1, w1 :: w2 :: _ => (decodeLit w w1 w2).map fun i => (i, 3)
    | 2, w1 :: w2 :: _ => (decodeX w w1 w2 none).map fun i => (i, 3)
    | 3, w1 :: w2 :: w3 :: w4 :: _ => (decodeX w w1 w2 (some (lit w3 w4))).map fun i => (i, 5)
    | _, _ => .error .short

/-- The five words of an instruction whose bits are `w` as the opcode table numbers them, zero above `nbits`. -/
def tableWords (nbits w : Nat) : List Word :=
  let v := w % 2 ^ nbits
  (List.range 5).map fun k => BitVec.ofNat 32 (v / 2 ^ (32 * k))

/-- The instruction the decoder reads from an instruction whose bits are `w`. -/
def decodeTableWord (nbits w : Nat) : Option Instr :=
  match decode (tableWords nbits w) with
  | .ok (i, _) => some i
  | .error _ => none

end Sys2Proof
end

