-- ==== Sys2Proof/Machine/State.lean ====
section
/-! DEFINITION. The state of the module, of its contexts, requests, grids, teams and groups, as plain data;
what it is right after reset; and how a step can stop. INVENTORY.md lists every field with its rule. -/

namespace Sys2Proof.Machine

/-- A finite map from numbers, ascending in its keys. -/
abbrev Map (α : Type) := List (Nat × α)

/-! ### Groups -/

/-- What l0 or l1 of a slot names (R73, R74). -/
inductive LastRef
  | zero            -- reads zero until replaced (group start)
  | poison          -- reads poison until replaced
  | reg (n : Nat)
  deriving DecidableEq, Repr

/-- A page some access waits for: context, virtual page number of 64 KiB, the access, the address of its first
lane, and the lanes that wait for the page, none listed where that is not per lane (R199, R202, R260). -/
structure PageWant where
  ctx : Nat
  page : Nat
  va : Nat
  lanes : LaneMask := 0
  kind : Nat        -- 0 read, 1 write, 2 atomic, 3 fetch, 4 engine read, 5 engine write (R202)
  deriving DecidableEq, Repr

/-- What a PC slot waits for (R31). A slot whose wait ends issues its instruction again, or has it
finished by the event that ends the wait. -/
inductive Wait
  | ready
  | stores                               -- earlier accesses not yet performed (R173, R175, R176, R192)
  | loads                                -- data of a register-targeting load or of MSMX (R344, R218)
  | granule                              -- a full/empty state (R144)
  | engine                               -- an engine counter (R154, R155)
  | matrix                               -- a batch or a tile (R158, R159)
  | key                                  -- a place in a grant queue (R172)
  | acqr                                 -- slots of the register pool (R26)
  | bar (n : Nat) (d : BitVec 6)         -- arrived at barrier n; the status goes to sd (R192)
  | evTable                              -- an event-counter table entry (R33)
  | contSlot                             -- a continuation slot (R258)
  | page (ws : List PageWant)            -- parked (R199)
  | fabric                               -- replies of homes (R205)
  | resample                             -- a running resample (R237)
  | budget (cls : Nat)                   -- deferred (R66): 0 HBM, 1 fabric, 2 copy, 3 walks
  | others                               -- STEPCMT, for the step's other groups (R55)
  | twin                                 -- a lichen compare point (R251)
  | coll                                 -- an earlier COLL on the same record (R312)
  | order                                -- its place in an order of the two slots (R244, R251)
  deriving DecidableEq, Repr

/-- A PC slot (R67, R71, R73, R79). -/
structure Slot where
  live : Bool := false
  pc : BitVec 64 := 0
  mask : LaneMask := 0
  l0 : LastRef := .poison
  l1 : LastRef := .poison
  join : Bool := false                   -- waiting at the JOIN at pc
  wait : Wait := .ready
  unf : Option LaneMask := Option.none   -- unfinished lanes of the instruction at pc (R144, R199)
  dest : List Nat := []                  -- the vector registers that unfinished instruction still loads
  reps : List (Nat × FabRep) := []       -- replies that its fabric operations brought: index, reply
  sent : Bool := false                   -- its fabric operations were sent
  probing : Bool := false                -- those are the tests of its lanes at their homes (R198, R346)
  probed : Bool := false                 -- its lanes passed those tests
  fmts : List (Nat × Nat) := []          -- a typed store: FMT of the pages of the lanes performed (R149, R245)
  granted : Option (BitVec 64) := Option.none   -- the status a grant or the leading half left for it
  passed : Bool := false                 -- its compare point has passed (R251)
  fetched : Bool := false                -- the unit at pc was fetched, and charged (R65; log 53)
  oldest : Option Nat := Option.none     -- the batch whose completion an MBATCH waits for (R158)
  busy : Nat := 0                        -- not ready before this cycle: a swap, or a latency (R62; log 104)
  deriving DecidableEq, Repr

/-- A translation register (R145, R146). -/
structure GReg where
  base : BitVec 64 := 0
  frame : BitVec 64 := 0                 -- physical address of the base
  leaf : BitVec 64 := 0                  -- the page's entry: its W, COW, WATCH, FMT and GEOM
  level : Nat := 4                       -- the level of that entry
  limit : Nat := 0
  request : BitVec 64 := 0
  written : Bool := false
  stale : Bool := false                  -- to be translated again at its next use
  deriving DecidableEq, Repr

/-- A load whose data has not reached its registers (R344). Lane values are listed per register. -/
structure Load where
  id : Nat
  reg : Nat
  lanes : LaneMask
  vals : List Lanes
  dev : Bool := false                     -- of device memory, so that it may miss the memory-side cache (R62)
  miss : Bool := false                    -- it missed, or it is an LDF's (R62, R347; log 126)
  deriving DecidableEq, Repr

/-- What an engine operation does (R310 to R320, R335, R392). -/
inductive EngKind
  | cpy (dev : Bool)
  | gath (dev : Bool)
  | scat (dev : Bool)
  | cpyf (dir : Nat)                     -- 0 push, 1 pull to scratchpad, 2 pull to device memory
  | coll (op : Nat) (ty : Ty)
  deriving DecidableEq, Repr

/-- An engine operation in a queue (R154 to R157). -/
structure EngOp where
  id : Nat := 0
  kind : EngKind
  record : BitVec 2048                   -- the sealed copy of its record
  off : BitVec 64                        -- CPY, CPYF: the offset added to BASE
  other : BitVec 64                      -- destination (source of SCAT)
  runs : List Nat                        -- GATH, SCAT: run indices of the active lanes, ascending lanes
  comm : BitVec 64 := 0                  -- COLL: the communicator record
  cid : BitVec 64 := 0                   -- COLL: its CID, this rank, ROOT and the ranks' (CTXID, NODE)
  rank : Nat := 0
  root : Nat := 0
  peers : List (Nat × Nat) := []
  seqNo : Nat := 0                       -- COLL: q
  data : Option (List Byte) := Option.none   -- COLL: this rank's elements, once read
  done : Nat := 0                        -- elements finished
  stage : Nat := 0                       -- bytes of COLL's destination written; of another operation, its next destination unit
  fin : Bool := false
  err : Option (Nat × BitVec 64) := Option.none  -- trap code and address of an error
  parked : Option PageWant := Option.none
  reps : List (Nat × FabRep) := []
  fmtAt : Option (Nat × Nat) := Option.none  -- a typed SCAT: a 64 KiB page of another module, and the FMT that its home told
  deriving DecidableEq, Repr

/-- What a matrix operation does, with the operands it captured at issue (R159, R351). -/
inductive MatKind
  | mma (ty : Ty) (a b : List Lanes)
  | mmas (ty : Ty) (dense : Nat) (a b idx : List Lanes)      -- dense: N of 32
  | mqk (ty : Ty) (mode : Nat) (c : BitVec 64) (rows : List Nat) (a b : List Lanes)
  | msmx (part : Bool) (d : Nat) (lanes : LaneMask)
  | mzero
  | mldt (dev : Bool) (b : BitVec 64) (pitch : Nat) (vals : Option (List Nat)) (entry : Option Nat)
    -- a re-execution's values; the log entry its values are to fill (R243, R244)
  | mstt (dev : Bool) (b : BitVec 64) (pitch : Nat)
  deriving DecidableEq, Repr

/-- A matrix operation in flight; `tile` is the tile it names (R158). `batch` is its batch's number once
closed. -/
structure MatOp where
  id : Nat := 0
  kind : MatKind
  tile : Nat
  batch : Option Nat := Option.none
  units : Nat := 0                       -- MLDT, MSTT: 16-byte units done, 12 a row
  fin : Bool := false
  err : Option (Nat × BitVec 64) := Option.none
  parked : Option PageWant := Option.none
  reps : List (Nat × FabRep) := []
  deriving DecidableEq, Repr

/-- An error a matrix operation ended with, kept until an instruction reports it (R352). -/
structure MatErr where
  id : Nat
  tile : Nat
  batch : Option Nat
  code : Nat
  addr : BitVec 64
  deriving DecidableEq, Repr

/-- One entry of a load-value log, and which slot issued it (R243). At a handler entry it also tells the trap: the PC, the
code, INFO and FLANES, so that a re-execution takes it where the access that raised it is not made (R244; log 57). -/
structure LogEntry where
  slot : Bool
  vals : List Nat
  trap : Option (BitVec 64 × Nat × BitVec 64 × LaneMask) := Option.none
  deriving DecidableEq, Repr

/-- The audit state of a group (R242 to R244). -/
inductive Audit
  | off
  | selected (log : List LogEntry) (size : Nat)
  | skipped
  | replay (job : Nat) (log : List LogEntry) (stack : List (BitVec 128))
  deriving DecidableEq, Repr

/-- What a suspended group's registration keeps (R34, R240, R258). -/
structure SuspReg where
  counter : BitVec 64
  target : BitVec 64
  cont : BitVec 64
  slotNo : Nat                            -- continuation slot of the context
  slot : Bool := false                    -- the PC slot that executed SUSP
  nv : Nat                                -- 4n
  met : Bool := false
  look : Bool := false                    -- the budget of walks defers an evaluation of it (R66)
  deriving DecidableEq, Repr

/-- Whether a group is on a core (R26, R31, R34, R35, R253, R265). -/
inductive Life
  | resident
  | suspended (r : SuspReg)
  | retiring
  | retired
  | halted
  | ended
  | saved                                 -- pre-empted
  deriving DecidableEq, Repr

/-- The registers of a group that its slots share (R67). -/
structure Regs where
  v : Map Lanes := []                     -- unlisted registers read 0 in every lane
  vdead : BitVec 256 := 0
  t : Map (List Lanes) := []              -- tile registers 0 to 15 of each tile (R160)
  tdead : BitVec 16 := 0
  s : List (BitVec 64) := List.replicate 61 0
  p : List LaneMask := List.replicate 7 0
  g : List GReg := List.replicate 16 {}
  astat : BitVec 64 := 0
  mdef : BitVec 64 := 0
  dstkb : BitVec 64 := 0
  popid : BitVec 32 := 0xFFFFFFFF#32
  deriving DecidableEq, Repr

/-- A group (R17, R20). -/
structure Group where
  team : Nat                              -- the model's number of its team
  no : Nat                                -- GROUPID
  part : Nat                              -- partition it runs on
  regs : Regs := {}
  slot0 : Slot := {}
  slot1 : Slot := {}
  stacked : LaneMask := 0
  dormant : LaneMask := 0
  depth : Nat := 0                        -- divergence-stack entries
  full : Bool := false                    -- holds its full allotment
  bound : Nat := 0                        -- the boundary b, or P in the prologue allotment
  loads : List Load := []
  eng : List (List EngOp) := [[], [], [], []]
  engErr : List (Nat × Nat × BitVec 64) := []    -- class, trap code, address: reported and not yet trapped
  mat : List MatOp := []
  closed : Nat := 0                       -- last closed batch number
  matErr : List MatErr := []              -- in issue order
  sig : BitVec 64 := 0xFFFFFFFFFFFFFFFF#64
  interval : Nat := 0
  relScope : Scope := .group
  tier : Nat := 0                         -- the tier of the QUOTA it met: 0 HBM, 1 pool (R45)
  keys : List KeyId := []
  exKeys : List KeyId := []               -- those of them that it holds exclusively (R182)
  told : List Nat := []                   -- modules that it made checked writes at, whose tables keep it (R181)
  handler : Option (Bool × Nat × Nat) := Option.none   -- in a handler: its slot, continuation slot, stack depth at entry
  life : Life := .resident
  since : Nat := 0                        -- cycle it last became resident
  readySince : Option Nat := Option.none  -- the cycle since which it is ready and pending (R64)
  issuedAt : Nat := 0                     -- the cycle of its last issue (R37)
  audit : Audit := .off
  pair : Option (Nat × Bool) := Option.none    -- lichen twin's number, and whether this half leads
  order : List Bool := []                 -- lichen: slot order of the leader's recording instructions
  ownBwto : Option Nat := Option.none     -- a re-execution: what it wrote to BWTO (R244, R379)
  retires : Bool := false                 -- saved while it was retiring (R266)
  stopping : Bool := false                -- its team is being saved: it issues nothing more (R265)
  drained : Bool := true                  -- uses the spare where its partition switched one in (R254)
  deriving DecidableEq, Repr

/-! ### Teams, grids, contexts -/

/-- A phase of a barrier (R192, R300, R273). -/
structure Barrier where
  count : Nat := 0
  expect : Nat := 0
  arrived : List Nat := []                -- group numbers, one entry an arrival
  halted : Bool := false
  t0 : Nat := 0
  period : Nat := 0
  deriving DecidableEq, Repr

/-- A write that a lichen half holds and that does not go to this module's memory: to another module, to a
population, or to a request record (R250, R371, R385). `va` is an address, or a RID; `id` is its place in issue order. -/
structure AwayOp where
  gid : Nat
  id : Nat := 0
  node : Nat
  va : BitVec 64
  kind : FabKind
  record : Option Nat := Option.none      -- REQST: the byte offset in the record of RID va (R385)
  unit : Option Nat := Option.none        -- a unit of a matrix operation: its number (R352)
  atomic : Bool := false                  -- the write of an atomic
  fence : Option Scope := Option.none     -- performed at this scope before what the group issued after it (R175, R176)
  acc : Option FabAcc := Option.none      -- who made it, for the race detector of its home (R181)
  deriving DecidableEq, Repr

/-- Whether a team is on its core, saved by a pre-emption, or waits to be placed again (R265, R266). -/
inductive Placing
  | placed
  | saved
  | restoring
  deriving DecidableEq, Repr

/-- A team (R17, R24, R25). -/
structure Team where
  grid : Nat
  no : Nat
  core : Nat
  base : Nat                              -- partition of group 0
  groups : List Nat
  granted : Bool := false                 -- first full grant made (R25)
  spans : List (Nat × Nat) := []          -- where its scratchpad lies in its core's: first byte, bytes (log 108)
  stale : Nat := 0                        -- the free counter at that grant (R193)
  mine : List Nat := []                   -- offsets whose bytes its context wrote last before that grant (R193)
  sp : Map Byte := []                     -- scratchpad bytes written since the grant
  full : Map Unit := []                   -- FULL granules
  bars : Map Barrier := []
  twin : Option Nat := Option.none
  away : List AwayOp := []                -- held by the groups of a lichen half, in issue order
  placing : Placing := .placed
  retired : Bool := false
  deriving DecidableEq, Repr

/-- The kernel header's fields (R112). -/
structure Kernel where
  hdr : BitVec 64
  mdef0 : BitVec 64
  dstko : Nat
  dsb : Nat
  scrb : Nat
  pair : Bool
  audit : Bool
  maxn : Nat
  gpt : Nat
  tiles : Nat
  freg : Nat
  preg : Nat
  entry : Nat
  deriving DecidableEq, Repr

/-- A grid, from its acceptance to its retirement (R17 to R23, R36). -/
structure Grid where
  ctx : Nat
  id : BitVec 32
  lrec : BitVec 64
  args : BitVec 64
  prio : Nat
  teams : Nat
  deps : List (BitVec 64 × BitVec 64)     -- unmet dependences: counter, target
  counters : List (BitVec 64) := []       -- every counter that its launch names (R23)
  look : Bool := false                    -- the budget of walks defers an evaluation of it (R66)
  cctr : Option (BitVec 64)
  k : Kernel
  depth : Nat
  nest : Nat                              -- remaining nesting
  parent : Option Nat
  queued : Bool := false                  -- in its FIFO
  stat : Option (BitVec 64) := Option.none     -- STAT of its host launch, until it is written (R282)
  after : Option (Nat × Nat) := Option.none    -- the launching group, and the next store number at its LAUNCH (R178)
  placed : Nat := 0
  done : Nat := 0                         -- teams retired
  step : Option (Nat × Nat × Nat) := Option.none   -- step grid: VF, stream, m
  slots : List Nat := []                  -- step grid: occupied slots, ascending
  table : Map (BitVec 128) := []          -- step grid: the slot table's entries
  keys : Map Nat := []                    -- step grid: KEY of its requests, as of the snapshot (R238, R244)
  stepNo : Nat := 0
  commit : Bool := false                  -- the commit grid of its step
  committed : Bool := false               -- STEPCMT was executed
  deriving DecidableEq, Repr

/-- A request in a key's grant queue (R172). `who` is a group, or the place of a group of another module. -/
structure KeyReq where
  who : Nat
  slot : Bool
  ex : Bool
  bind : Bool                             -- BIND or UNBIND
  remote : Option FabReq := Option.none
  deriving DecidableEq, Repr

/-- The state of a key (R172, R180). -/
structure Key where
  holders : List (Nat × Bool) := []       -- group, or place of a group of another module; exclusive
  queue : List KeyReq := []
  abandoned : Bool := false
  deriving DecidableEq, Repr

/-- A context that runs on the module (R256). -/
structure Ctx where
  ccb : BitVec 64                         -- its address
  cgen : BitVec 32
  vf : Nat
  cst : Nat
  racet : Bool
  pairok : Bool
  privc : Bool
  afrac : Nat
  aseed : BitVec 32
  savea : BitVec 64
  trec : BitVec 64
  tvec : BitVec 64
  ptroot : BitVec 64
  conta : BitVec 64
  contn : Nat
  bwto : Nat := 0x1000000
  routes : BitVec 64 := 0                 -- root of the route table (log 14)
  seals : Map (BitVec 2048) := []         -- live entries
  sealGen : Map Nat := []                 -- generations, 0 where unlisted (log 13)
  binds : List (KeyId × Nat × Nat) := []  -- key, first 32-byte sector, sectors
  farBinds : List (KeyId × Nat × Nat) := []  -- those of keys that another module keeps, as it told them (R170; log 125)
  keys : List (KeyId × Key) := []
  contUsed : List Nat := []
  dets : Map Nat := []                    -- race-detector entries: index to group
  far : Map FabAcc := []                  -- groups of other modules in that table, as their latest access told them (R181)
  shadow : Map (Nat × Nat) := []          -- physical sector to WIDX, SEQ; (0xFFF, 0) where unlisted
  fifos : List (List Nat) := List.replicate 8 []
  stopped : List Nat := []                -- cores no team may be placed on (R265)
  restores : List (BitVec 64 × List Nat) := []   -- restores that are not complete, in their order: CMPL, and the teams (R263, R266)
  deriving DecidableEq, Repr

/-! ### Requests and virtual functions -/

/-- A request record and what Crozier and the Sporangium keep beside it (R41 to R59, R229 to R236). -/
structure Req where
  bits : BitVec 2048
  stream : Option (Nat × Nat × Nat) := Option.none    -- VF, stream, context of its latest submission
  order : Nat := 0                        -- submission order
  shadow : Option (BitVec 2048) := Option.none  -- H fields of the last consistent read
  copies : Nat × Nat × Nat × Nat := (0, 0, 0, 0)   -- step copies of CLEN, TLEN, ACCLEN, NTOKV
  inStep : Bool := false                  -- takes part in the step its stream runs
  held : Bool := false                    -- held for its audits (R55)
  heldBy : Nat := 0                       -- the audits it waits for: those of this step number
  verdict : Bool := false                 -- SPECV recorded one in this step
  admitted : Bool := false                -- admitted since its submission (R44)
  timer : Option Nat := Option.none       -- cycle of the round's first arrival (R236)
  late : Bool := false
  running : Bool := false                 -- the Sporangium runs
  startLen : Nat := 0                     -- TLEN when it started (R233)
  slotN : Nat := 0                        -- the slots that its admission gave it (R50)
  deriving DecidableEq, Repr

/-- What a stream does (R48). -/
inductive Phase
  | idle
  | writing                               -- the slot table is being written (R51, R53)
  | launching (next : Nat)                -- the next launch record
  | running (next : Nat) (grid : Nat)     -- a grid of the step program runs
  | committing
  | failed (idx reason : Nat)
  | killed                                -- its grid was terminated, and will not retire (R274; log 115)
  deriving DecidableEq, Repr

/-- A step stream (R48, R283). -/
structure Stream where
  desc : BitVec 512 := 0
  phase : Phase := .idle
  stepNo : Nat := 0
  entries : Map (BitVec 128) := []        -- the slot-table entries of the step, as of its snapshot
  table : List Byte := []                 -- the bytes of that table (R51, R58)
  parked : Option PageWant := Option.none -- a page that Crozier waits for (R53)
  unreadable : Bool := false              -- that page's fault ended in a failure reply
  aborted : Bool := false                 -- its step was discarded, to be run again at the restore (R268)
  deriving DecidableEq, Repr

/-- A host launch command that waits for its record or its header (R282). -/
structure HostLaunch where
  cmd : BitVec 256
  parked : Option PageWant := Option.none
  failed : Bool := false
  deriving DecidableEq, Repr

/-- A virtual function's registers and lists (R281; values at reset: log 8). -/
structure Vf where
  en : Bool := false
  qtrap : Bool := false
  stat : Nat := 0
  cores : BitVec 256 := 0
  recFirst : Nat := 0
  recCount : Nat := 0
  slots : Nat := 0
  evcn : Nat := 0
  bindn : Nat := 0
  ceng : Nat := 0
  ways : Nat := 0
  fshr : Nat := 0
  next : Nat × Nat × Nat := (0, 0, 0)     -- CENG, WAYS and FSHR of the next period (R269)
  hquota : Nat := 0
  hborrow : Nat := 0
  hused : Nat := 0
  pquota : Nat := 0
  pborrow : Nat := 0
  pused : Nat := 0
  budget : List (BitVec 64) := List.replicate 4 (-1)    -- BHBM, BFAB, BCPY, BWALK
  left : List (Option Int) := List.replicate 4 Option.none     -- what is left of the period; none: unlimited
  prqb : BitVec 64 := 0
  prqn : BitVec 64 := 0
  prqh : BitVec 64 := 0
  prqt : BitVec 64 := 0
  logb : BitVec 64 := 0
  logn : BitVec 64 := 0
  logh : BitVec 64 := 0
  mref : Nat := 0
  discw : Nat := 0
  askip : Nat := 0
  untrk : Nat := 0
  free : List (Nat × Nat) := []           -- frames released and the cycle of it, oldest first
  pfree : List ((Nat × Nat) × Nat) := []  -- the same of the pool tier: node and frame there (R208)
  streams : List Stream := List.replicate 8 {}
  subs : Nat := 0                         -- submissions made
  launches : List HostLaunch := []
  deriving DecidableEq, Repr

/-! ### Cores and memory -/

/-- A page-table leaf as a TLB holds it (R198). -/
structure Tlb where
  asid : Nat
  page : Nat                              -- first 64 KiB page it maps
  pages : Nat                             -- 1, 32 or 16,384
  entry : BitVec 64
  level : Nat
  deriving DecidableEq, Repr

/-- A partition (R10, R24, R26, R62, R252, R254). -/
structure Part where
  used : Nat := 0                         -- register slots taken
  active : List Nat := []
  pending : List Nat := []
  acqr : List (Nat × Bool) := []          -- waiting ACQR: group, slot
  second : Option (Nat × Bool) := Option.none   -- the slot that issues next, its group's other one having issued (R63)
  replay : List (Nat × Instr × List Lanes) := []   -- most recent vector instructions: group, instruction, operands and mask (R252)
  spare : Option Nat := Option.none       -- physical lane the spare replaces
  errs : Map Nat := []                    -- error counts of the physical lanes
  deriving DecidableEq, Repr

/-- A core (R8, R10, R24, R193, R248). -/
structure Core where
  parts : List Part := List.replicate 4 {}
  spUsed : Nat := 0                       -- scratchpad bytes reserved
  spLast : Map Nat := []                  -- scratchpad bytes written since reset: the context that wrote each last (R193)
  tlb : List Tlb := []
  score : Nat := 0
  quarantined : Bool := false
  diag : Bool := false
  diagStart : Nat := 0
  decayed : Nat := 0                      -- cycle of the last decay
  deriving DecidableEq, Repr

/-- A frame of 64 KiB (R197). -/
structure Frame where
  count : Nat := 0
  gen : Nat := 1
  owner : Option Nat := Option.none       -- VF
  deriving DecidableEq, Repr

/-- A store that is not yet performed everywhere (R166, R167). `sp` is the team of a scratchpad store;
a device-memory store names a physical address. -/
structure PStore where
  id : Nat
  gid : Nat
  team : Nat
  core : Nat
  sp : Option Nat
  addr : Nat
  bytes : List Byte
  level : Scope
  held : Bool                             -- by a lichen half (R250)
  va : Nat := 0                           -- the address that the store named
  atomic : Bool := false                  -- the write of an atomic (R175)
  fence : Option Scope := Option.none     -- held: performed at this scope before what the group issued after it (R175, R176)
  pinned : Bool := false                  -- held: an atomic fixed its place in the order (R167)
  unit : Option Nat := Option.none        -- a held unit of a matrix operation: its number (R352)
  grid : Nat := 0                         -- the model's number of its grid (R178)
  ctx : Option Nat := Option.none         -- its context, none for the module's own (R274)
  deriving DecidableEq, Repr

/-- A page request that waits for its reply (R202). -/
structure PageReq where
  want : PageWant
  vf : Nat
  tag : BitVec 32
  cgen : BitVec 32
  mal : Bool
  posted : Bool := false                  -- written to the ring
  frame : Option Nat := Option.none       -- the frame that a mapping by the host took for it (R203)
  pool : Option (Nat × Nat) := Option.none       -- or the pool frame: its node, and its number there
  deriving DecidableEq, Repr

/-- An addition to a counter that is to be performed (R416). -/
structure Signal where
  ctx : Nat
  addr : BitVec 64
  src : Nat                               -- GRIDID of a completion signal, RID of the others
  grid : Bool
  parked : Option PageWant := Option.none
  deriving DecidableEq, Repr

/-- A fabric operation this module sent and whose reply it awaits (R205, R206). -/
structure FabOut where
  id : Nat
  gid : Nat
  slot : Bool
  eng : Option (Nat × Nat) := Option.none -- an engine or matrix operation's number, and the part of it
  signal : Bool := false
  fence : Bool := false                   -- what its group issued after it waits for the answer (R175, R176)
  idx : Nat                               -- number of the operation in its instruction
  dest : Nat
  req : FabReq
  misses : Nat := 0                       -- "not home" replies in a row
  deriving DecidableEq, Repr

/-- Audits: queued, re-executing, waiting for a verdict (R244, R247). -/
structure AuditJob where
  gid : Nat
  ctx : Nat
  vf : Nat
  grid : Grid
  team : Nat
  gno : Nat
  regs : Regs
  core : Nat
  sigO : BitVec 64
  log : List LogEntry
  rid : Nat
  stepNo : Nat
  slotId : BitVec 32
  reCore : Nat := 0
  sigR : Option (BitVec 64) := Option.none
  thCore : Nat := 0
  sigT : Option (BitVec 64) := Option.none
  runner : Option Nat := Option.none      -- the group that re-executes
  deriving DecidableEq, Repr

/-- What the module tells hosts and drivers outside (R262, R247, R53 and others). -/
inductive HostMsg
  | audit (e : BitVec 512)
  | terminated (ctx : Nat)
  | halted (ctx : Nat) (grid : BitVec 32) (team group core : Nat)
  | dropped (ctx : Nat) (addr : BitVec 64) (src : Nat)
  | staleEntry (frame : Nat)
  | stepFailed (vf stream idx reason : Nat)
  | evcDropped (rid : Nat)
  | kvLeaf (rid : Nat) (addr : BitVec 64)
  | quarantined (core : Nat)
  | forwardLimit (ctx : Nat) (va : BitVec 64)
  | reclaim (vf shortfall : Nat)
  | sent (node : Nat) (req : FabReq)
  | reply (node id : Nat) (rep : FabRep)
  | notHome (node id : Nat)
  | moved (ctx page dest : Nat)
  deriving DecidableEq, Repr

/-- What arrives from another module. -/
inductive Arrival
  | request (r : FabReq)
  | reply (id : Nat) (rep : FabRep)
  | notHome (id : Nat)
  deriving DecidableEq, Repr

/-- What a rank brought to operation q of a communicator: FN, TY, E and its elements, or its withdrawal (R312, R314). -/
structure CollIn where
  cid : BitVec 64
  q : Nat
  rank : Nat
  node : Nat                              -- where the rank lies
  ctx : Nat
  out : Bool                              -- it withdrew
  taken : Bool := false                   -- a rank of this module: its own operation is over
  fn : Nat := 0
  ty : Nat := 0
  e : Nat := 0
  data : List Byte := []
  deriving DecidableEq, Repr

/-- A fabric port (R279). -/
structure Port where
  link : Nat := 0                         -- 0 down, 1 training, 2 up
  gen : Nat := 4
  g4 : Bool := true
  g3 : Bool := true
  deriving DecidableEq, Repr

/-- The module's device registers and counts that belong to no VF (R276, R284, R288, R289, R203). -/
structure Device where
  ready : Bool := false
  fillDone : Bool := false
  calErr : Bool := false
  memErr : Bool := false
  fwErr : Bool := false
  errc : BitVec 16 := 0
  filled : Nat := 0                       -- 1 GiB regions filled
  badStacks : List Nat := []
  badReplies : Nat := 0
  ports : List Port := List.replicate 32 {}
  budgets : List (BitVec 64) := List.replicate 4 (-1)    -- audit, scrubbing, migration, diagnosis
  left : List (Option Int) := List.replicate 4 Option.none
  power : Nat := 0
  powerMark : Nat := 0                    -- cycle of the last change of step
  fuseKey : BitVec 512 := Config.fusedKeyDigest      -- fuses: SHA-512 of the vendor's public key, and the least
  fuseVersion : Nat := Config.fusedMinVersion        -- security version of firmware (R285); a reset leaves them
  fwm : BitVec 512 := 0                   -- SHA-512 of the image that runs (R287; log 9)
  arErr : Bool := false
  arStore : Option Nat := Option.none     -- the report's store, while BUSY (R288)
  arDone : Nat := 0
  nonce : BitVec 512 := 0
  period : Nat := 0                       -- cycle the budget period began
  deriving DecidableEq, Repr

/-- The history of a page's moves (R207): times of the last four, newest first, and the end of rooting. -/
structure Moves where
  times : List Nat := []
  rooted : Option Nat := Option.none
  deriving DecidableEq, Repr

/-- A mapping by a VF's driver that waits for a frame: the context, its 64 KiB page, whether it is in the pool tier, and the bits of
the entry (R208, R275; log 106). -/
structure HostMapping where
  vf : Nat
  cid : Nat
  page : Nat
  pool : Bool
  value : BitVec 64
  deriving DecidableEq, Repr

/-- A save of a context's teams that is not over, since matrix operations of theirs are not complete: the completion word of its
command, the teams left, whether every core is covered, and whether the teams are placed again at once (R265, R269, R352). -/
structure SaveJob where
  vf : Nat
  cid : Nat
  cmpl : Option (BitVec 64)
  teams : List Nat
  all : Bool
  back : Bool
  deriving DecidableEq, Repr

/-- What the schedule asks for: an issue from a slot, a latency that keeps a slot from being ready, an event, or
time passing. The manual leaves these open (R81, R155, R345), so they are data of the state (logs 1, 104). -/
inductive Move
  | issue (gid : Nat) (slot : Bool)
  | miss (gid id : Nat)                           -- load id of a group misses the memory-side cache (R62; log 126)
  | stall (gid : Nat) (slot : Bool) (n : Nat)     -- the slot is not ready for n cycles
  | event (e : Instr)
  | tick (n : Nat)
  deriving DecidableEq, Repr

/-- An access of Crozier or of a launch unit to a page that has moved: its context, address and length, 0 for a write, and the
new home's answer (R53, R205, R282). -/
structure ModFab where
  ctx : Nat
  va : Nat
  len : Nat
  rep : Option FabRep := Option.none
  deriving DecidableEq, Repr

/-- A command of the invalidation queue; of the oldest one, once it has begun, the held stores it waits for (R210). -/
structure InvCmd where
  vf : Nat
  cmd : BitVec 256
  waits : Option (List Nat) := Option.none
  deriving DecidableEq, Repr

/-- The issue in progress: the group and slot, the address of the unit, its length in bytes, and the
prefix of an MPX (R94). -/
structure Cur where
  gid : Nat
  slot : Bool
  pc : BitVec 64
  len : Nat
  pfx : Option Prefix := Option.none
  next : Option Instr := Option.none      -- while an MPX executes: the instruction it prefixes, where it decodes
  deriving DecidableEq, Repr

/-- The machine. -/
structure State where
  node : Nat := 0
  cycle : Nat := 0
  mem : List Host.Cell := []
  pend : List PStore := []
  dev : Device := {}
  frames : Map Frame := []
  common : List (Nat × Nat) := []         -- common free list: first frame, frames (R208)
  poolCommon : List (Nat × Nat) := []     -- that of the pool tier: node and frame there (R208; log 106)
  poolHeld : List ((Nat × Nat) × Nat × Nat) := []   -- pool frames mapped: node and frame, context, 64 KiB page (R208)
  cores : Map Core := []
  tlb2 : List (List Tlb) := [[], []]
  hints : List (List (Nat × Nat × Nat)) := [[], []]   -- context, 64 KiB page, node
  pageReqs : List PageReq := []
  nextTag : Nat := 0
  signals : List Signal := []
  fabOut : List FabOut := []
  fabHeld : List FabReq := []             -- ingress operations that wait at this home
  portWait : List (Nat × HostMsg) := []   -- traffic that waits for a port that trains (R279)
  portIn : List (Nat × Arrival) := []     -- traffic that comes by such a port, until it is up (R279)
  egress : List (Nat × Nat × FabReq) := []   -- operations of the module for a VF that its fabric budget defers: VF, node (R16, R66)
  ending : List (Nat × List Nat) := []    -- contexts terminated, and the writes sent to other modules that the host's event waits for (R274)
  resetCtxs : List Nat := []              -- contexts that a VF reset removed, not started since (R270)
  modFab : List ModFab := []
  invq : List InvCmd := []
  scrub : List Nat := []                  -- frames of reset VFs that are still to be filled with zeros (R270)
  mapq : List HostMapping := []           -- mappings by hosts that wait for a frame (R208, R275)
  saves : List SaveJob := []              -- saves of teams that are not over (R265, R352)
  cmdq : List (Nat × BitVec 256) := []    -- context commands of VFs that wait for an earlier one (R263)
  collIn : List CollIn := []
  moves : List ((Nat × Nat) × Moves) := []
  rotation : Map Nat := []
  audits : List AuditJob := []
  vfs : Map Vf := []
  ctxs : Map Ctx := []
  reqs : Map Req := []
  grids : Map Grid := []
  teams : Map Team := []
  groups : Map Group := []
  sched : List Move := []
  cur : Option Cur := Option.none
  free : Nat := 0
  nextId : Nat := 1
  nextGrid : Nat := 1
  host : List HostMsg := []
  deriving DecidableEq, Repr

/-- Why a step stops the model. -/
inductive Fault
  /-- Raised by the meaning of an encoded instruction when no group is issuing: `exec` was called on a state
  that names no issuing slot. `step` never raises it. Safe: nothing is claimed of such a state. -/
  | noIssuer
  deriving DecidableEq, Repr

/-- Why the model has no meaning to give. -/
inductive Refusal
  /-- Raised by an arm of `exec` whose instruction has no meaning yet. Safe. -/
  | notModelled (mnemonic : String)
  deriving DecidableEq, Repr

/-- The module right after reset (R275 to R284): no context, no group, nothing filled; the values no rule
gives are those of logs 1 to 14. -/
def State.reset : State := {}

end Sys2Proof.Machine
end

