-- ==== Sys2Proof/Machine/Mem.lean ====
section
/-! DEFINITION. Maps, the parts of the state by number, and bytes of memory: what is stored where, which
stores an agent sees, and when a store is performed (R166 to R168, R142, R193). -/

/-- Whether a scope contains another (R166). -/
def Sys2Proof.Scope.covers (x y : Sys2Proof.Scope) : Bool := y.code ≤ x.code

namespace Sys2Proof.Machine

/-! ### Maps -/

/-- The value at a key. -/
def Map.get? {α : Type} : Map α → Nat → Option α
  | [], _ => none
  | (k, v) :: m, i => if k = i then some v else Map.get? m i

/-- A map with one key's value replaced or added, keys ascending. -/
def Map.set {α : Type} : Map α → Nat → α → Map α
  | [], i, x => [(i, x)]
  | (k, v) :: m, i, x =>
    if i < k then (i, x) :: (k, v) :: m else if i = k then (i, x) :: m else (k, v) :: Map.set m i x

/-- A map without a key. -/
def Map.del {α : Type} (m : Map α) (i : Nat) : Map α := m.filter fun p => p.1 ≠ i

/-- An element put before the first one with a greater key. -/
def insertBy {α : Type} (key : α → Nat) (a : α) : List α → List α
  | [] => [a]
  | b :: l => if key a < key b then a :: b :: l else b :: insertBy key a l

/-- A list in ascending keys, equal keys in their order. -/
def sortBy {α : Type} (key : α → Nat) (l : List α) : List α := l.foldl (fun acc a => insertBy key a acc) []

/-! ### Parts of the state -/

def State.vf (s : State) (v : Nat) : Vf := (Map.get? s.vfs v).getD {}
def State.setVf (s : State) (v : Nat) (x : Vf) : State := { s with vfs := Map.set s.vfs v x }
def State.core (s : State) (c : Nat) : Core := (Map.get? s.cores c).getD {}
def State.setCore (s : State) (c : Nat) (x : Core) : State := { s with cores := Map.set s.cores c x }
def State.frame (s : State) (f : Nat) : Frame := (Map.get? s.frames f).getD {}
def State.setFrame (s : State) (f : Nat) (x : Frame) : State := { s with frames := Map.set s.frames f x }
def State.ctx? (s : State) (c : Nat) : Option Ctx := Map.get? s.ctxs c
def State.setCtx (s : State) (c : Nat) (x : Ctx) : State := { s with ctxs := Map.set s.ctxs c x }
def State.grid? (s : State) (g : Nat) : Option Grid := Map.get? s.grids g
def State.setGrid (s : State) (g : Nat) (x : Grid) : State := { s with grids := Map.set s.grids g x }
def State.team? (s : State) (t : Nat) : Option Team := Map.get? s.teams t
def State.setTeam (s : State) (t : Nat) (x : Team) : State := { s with teams := Map.set s.teams t x }
def State.group? (s : State) (g : Nat) : Option Group := Map.get? s.groups g
def State.setGroup (s : State) (g : Nat) (x : Group) : State := { s with groups := Map.set s.groups g x }
/-- A request record. One that was never granted to a VF holds zero in every bit: R41 gives no value (DESIGN CHOICE, log 121). -/
def State.req (s : State) (r : Nat) : Req := (Map.get? s.reqs r).getD { bits := 0 }
def State.setReq (s : State) (r : Nat) (x : Req) : State := { s with reqs := Map.set s.reqs r x }

/-- A group changed in place. -/
def State.modGroup (s : State) (g : Nat) (f : Group → Group) : State :=
  match s.group? g with
  | some x => s.setGroup g (f x)
  | none => s
/-- A team changed in place. -/
def State.modTeam (s : State) (t : Nat) (f : Team → Team) : State :=
  match s.team? t with
  | some x => s.setTeam t (f x)
  | none => s
/-- A grid changed in place. -/
def State.modGrid (s : State) (g : Nat) (f : Grid → Grid) : State :=
  match s.grid? g with
  | some x => s.setGrid g (f x)
  | none => s
/-- A context changed in place. -/
def State.modCtx (s : State) (c : Nat) (f : Ctx → Ctx) : State :=
  match s.ctx? c with
  | some x => s.setCtx c (f x)
  | none => s
/-- A message to the hosts. -/
def State.tell (s : State) (m : HostMsg) : State := { s with host := s.host ++ [m] }
/-- Whether traffic by a port waits: the port is not up, or some of its traffic waits already (R279; logs 99, 107). -/
def State.portShut (s : State) (p : Nat) : Bool := (s.dev.ports.getD p {}).link ≠ 2 || s.portWait.any (·.1 = p)
/-- A message to another module. Traffic of a port that is not up waits, and none goes before what waits (R279; log 107). -/
def State.post (s : State) (node : Nat) (m : HostMsg) : State :=
  let p := Config.portOf node
  if s.portShut p then { s with portWait := s.portWait ++ [(p, m)] } else s.tell m
/-- A fabric operation to another module. -/
def State.sendTo (s : State) (node : Nat) (r : FabReq) : State := s.post node (.sent node r)
/-- A fabric operation sent whose reply is awaited; its number is the state's next one. -/
def State.sendOut (s : State) (o : FabOut) : State :=
  { s with nextId := s.nextId + 1, fabOut := s.fabOut ++ [o] }.sendTo o.dest o.req

/-- The slot by its number (R67). -/
def Group.slot (g : Group) (i : Bool) : Slot := if i then g.slot1 else g.slot0
/-- A group with a slot replaced. -/
def Group.setSlot (g : Group) (i : Bool) (x : Slot) : Group :=
  if i then { g with slot1 := x } else { g with slot0 := x }
/-- A slot changed in place. -/
def Group.modSlot (g : Group) (i : Bool) (f : Slot → Slot) : Group := g.setSlot i (f (g.slot i))

/-- The die of a core (R8). -/
def dieOf (core : Nat) : Nat := core / 128
/-- The cluster of a core, die included (R8). -/
def clusterOf (core : Nat) : Nat := core / 16

/-! ### Bytes -/

/-- A byte of physical memory that every agent sees; unlisted bytes read 0 (R275, log 4). -/
def memByte (m : List Host.Cell) (a : Nat) : Byte := (Map.get? m a).getD 0

/-- Physical memory with one byte written, in its one canonical form: addresses ascending, no zero listed. -/
def memSetByte (m : List Host.Cell) (a : Nat) (b : Byte) : List Host.Cell :=
  if b = 0 then Map.del m a else Map.set m a b

/-- Bytes written from an address on. -/
def memSetBytes (m : List Host.Cell) (a : Nat) : List Byte → List Host.Cell
  | [] => m
  | b :: bs => memSetBytes (memSetByte m a b) (a + 1) bs

/-- The canonical form: addresses strictly rising, no entry equal to what an unlisted address reads as. -/
def memWf : List Host.Cell → Bool
  | [] => true
  | [(_, b)] => b ≠ 0
  | (a, b) :: (a', b') :: m => b ≠ 0 && a < a' && memWf ((a', b') :: m)

/-- A scratchpad byte of a team as written; else a free value where its context wrote the byte last before the first full
grant, and 0 where another context did, or none (R193, log 15). -/
def Team.byte (t : Team) (a : Nat) : Byte :=
  match Map.get? t.sp a with
  | some b => b
  | none => if t.mine.contains a then Config.staleByte t.stale a else 0

/-- Scratchpad bytes written from an offset on. -/
def spSetBytes (m : Map Byte) (a : Nat) : List Byte → Map Byte
  | [] => m
  | b :: bs => spSetBytes (Map.set m a b) (a + 1) bs

/-- Granules of 16 bytes made FULL from the first to the last (R142). -/
def setFull (m : Map Unit) (first : Nat) : Nat → Map Unit
  | 0 => m
  | n + 1 => setFull (Map.set m first ()) (first + 1) n

/-- The granules that `n` bytes from `a` touch, made FULL (R142). -/
def Team.fill (t : Team) (a n : Nat) : Team :=
  if n = 0 then t else { t with full := setFull t.full (a / 16) ((a + n - 1) / 16 + 1 - a / 16) }

/-! ### Which stores an agent sees (R166, R167) -/

/-- An agent that reads: a group and the engines that act for it, the module's own units, or any agent of the pod. -/
inductive Viewer
  | group (gid team core : Nat)
  | module
  | pod
  deriving DecidableEq, Repr

/-- Whether an agent sees a store that has not been performed everywhere (R166, R168, R250). -/
def PStore.visible (p : PStore) : Viewer → Bool
  | .group gid team core =>
    p.gid = gid || (p.level.covers .team && p.team = team)
      || (!p.held && p.level.covers .die && dieOf p.core = dieOf core)
      || (!p.held && p.level.covers .device)
  | .module => !p.held && p.level.covers .device
  | .pod => !p.held && p.level.covers .pod

/-- Whether a store writes a byte of a space. -/
def PStore.hits (p : PStore) (sp : Option Nat) (a : Nat) : Bool :=
  p.sp = sp && p.addr ≤ a && a < p.addr + p.bytes.length

/-- Whether a store touches any of `n` bytes of a space. -/
def PStore.touches (p : PStore) (sp : Option Nat) (a n : Nat) : Bool :=
  p.sp = sp && p.addr < a + n && a < p.addr + p.bytes.length

/-- One byte as an agent reads it: the latest store in coherence order that it sees, else what is stored
(R167). `sp` is the team of a scratchpad offset; none is a physical address. -/
def State.byte (s : State) (v : Viewer) (sp : Option Nat) (a : Nat) : Byte :=
  let base := match sp with
    | none => memByte s.mem a
    | some t => match s.team? t with
      | some x => x.byte a
      | none => 0
  s.pend.foldl (fun acc p => if p.hits sp a && p.visible v then p.bytes.getD (a - p.addr) 0 else acc) base

/-- `n` bytes as an agent reads them. -/
def State.bytes (s : State) (v : Viewer) (sp : Option Nat) (a : Nat) : Nat → List Byte
  | 0 => []
  | n + 1 => s.byte v sp a :: s.bytes v sp (a + 1) n

/-- A little-endian number of `n` bytes as an agent reads it (R3). -/
def State.num (s : State) (v : Viewer) (sp : Option Nat) (a n : Nat) : Nat := leNat (s.bytes v sp a n)

/-- Whether a store is performed as widely as its space goes. -/
def PStore.settled (p : PStore) : Bool :=
  !p.held && (match p.sp with
    | none => p.level.covers .pod
    | some _ => p.level.covers .team)

/-- A store's bytes moved to where they are stored. -/
def State.commit (s : State) (p : PStore) : State :=
  match p.sp with
  | none => { s with mem := memSetBytes s.mem p.addr p.bytes }
  | some t => s.modTeam t fun x => { x with sp := spSetBytes x.sp p.addr p.bytes }

/-- The stores of a list moved to where they are stored, save those that are not settled or that follow a
store to the same bytes which stays. -/
def State.drainFrom (s : State) : List PStore → List PStore → State
  | [], kept => { s with pend := kept }
  | p :: ps, kept =>
    if p.settled && !kept.any (fun q => q.touches p.sp p.addr p.bytes.length) then
      (s.commit p).drainFrom ps kept
    else s.drainFrom ps (kept ++ [p])

/-- Every settled store moved to where it is stored (R167). -/
def State.drain (s : State) : State := s.drainFrom s.pend []

/-- A store's scope widened, never narrowed; a held store goes no further than its team (R250). -/
def PStore.widen (p : PStore) (x : Scope) : PStore :=
  let y := if p.held && x.covers .die then Scope.team else x
  if p.level.covers y then p else { p with level := y }

/-- The scratchpad granules of stores that a predicate picks, made FULL (R142). -/
def State.fillOf (s : State) (f : PStore → Bool) : List PStore → State
  | [] => s
  | p :: ps =>
    let s' := if f p then (match p.sp with
      | some t => s.modTeam t fun x => x.fill p.addr p.bytes.length
      | none => s) else s
    s'.fillOf f ps

/-- The stores that a predicate picks are performed at a scope (R166); scratchpad granules that this
completes turn FULL (R142). -/
def State.performAt (s : State) (x : Scope) (f : PStore → Bool) : State :=
  let s1 := if x.covers .team then s.fillOf (fun p => f p && !p.level.covers .team) s.pend else s
  ({ s1 with pend := s1.pend.map fun p => if f p then p.widen x else p }).drain

/-- Held stores of a list that enter the order after a store `p`: those of another team to bytes of `p`, and what that team
stored over them, save where an atomic fixed their place (R167, R250; log 127). -/
def PStore.goBehind (p : PStore) (l : List PStore) : List PStore :=
  l.foldl (fun acc q =>
    if q.held && !q.pinned && q.team ≠ p.team && (q.touches p.sp p.addr p.bytes.length
      || acc.any fun r => r.team = q.team && q.touches r.sp r.addr r.bytes.length) then acc ++ [q] else acc) []

/-- The stores of a list with those of a team that an atomic `p` of a half read, or that lie under them, fixed in the order: what
other agents store later is after them (R167, R250; log 127). -/
def PStore.pin (p : PStore) (l : List PStore) : List PStore :=
  (l.foldr (fun q (acc : List PStore × List PStore) =>
    if q.held && q.team = p.team && acc.2.any fun r => q.touches r.sp r.addr r.bytes.length then
      ({ q with pinned := true } :: acc.1, q :: acc.2) else (q :: acc.1, acc.2)) ([], [p])).1

/-- A store takes its place in the order: after every other store, but before those that another team still holds, which enter
the order when they are released (R167, R250). A held atomic fixes its own place and that of what it read. -/
def insertStore (p : PStore) (l : List PStore) : List PStore :=
  let later := p.goBehind l
  let first := l.filter fun q => !later.contains q
  if p.held && p.atomic then p.pin first ++ { p with pinned := true } :: later else first ++ p :: later

/-- Whether the leading half of another team holds an atomic, or what it read, on some bytes: an atomic there waits until the
half releases it (R167, R250; log 127). -/
def State.pinnedBy (s : State) (team : Nat) (sp : Option Nat) (a n : Nat) : Bool :=
  s.pend.any fun q => q.held && q.pinned && q.team ≠ team && q.touches sp a n &&
    ((s.group? q.gid).bind (·.pair)).any (·.2)

/-- A store enters the coherence order of its bytes (R167), seen so far at `level`. -/
def State.addStore (s : State) (gid team core : Nat) (sp : Option Nat) (a : Nat) (bs : List Byte)
    (level : Scope) (held : Bool) (va : Nat := 0) (atomic : Bool := false) (unit : Option Nat := none)
    (fence : Option Scope := none) : State :=
  if bs = [] then s else
  let gr := (s.team? team).map (·.grid)
  let p : PStore := { id := s.nextId, gid, team, core, sp, addr := a, bytes := bs, level, held, va, atomic, unit, fence
                      grid := gr.getD 0, ctx := (gr.bind s.grid?).map (·.ctx) }
  let s1 := match sp with
    | some t => if level.covers .team then s.modTeam t fun x => x.fill a bs.length else s
    | none => s
  ({ s1 with pend := insertStore p s1.pend, nextId := s1.nextId + 1 }).drain

/-- A write of the module's own to physical memory, seen by every agent. -/
def State.modWrite (s : State) (a : Nat) (bs : List Byte) : State := s.addStore 0 0 0 none a bs .pod false

/-- A number of `n` bytes written by the module. -/
def State.modWriteNum (s : State) (a n x : Nat) : State := s.modWrite a (leBytes n x)

/-- Stores to the named bytes are performed at a scope, so that an atomic reads what is latest in the coherence order (R167);
of those that lichen halves hold, the ones of a given team (R250). -/
def State.settleBytes (s : State) (sp : Option Nat) (a n : Nat) (x : Scope) (team : Nat := 0) : State :=
  s.performAt x fun p => (!p.held || p.team = team) && p.touches sp a n

/-- A group's own stores to the named bytes are performed as widely as their space goes, before it reads them: a store is
kept before a load of the same address (R184, R186, R187). -/
def State.settleOwn (s : State) (gid : Nat) (sp : Option Nat) (a n : Nat) : State :=
  if s.pend.any fun p => p.gid = gid && p.touches sp a n then
    s.performAt (if sp.isSome then .team else .pod) fun p => p.gid = gid && p.touches sp a n
  else s

/-- Whether a store of a group is still short of a scope that its space can reach. What a lichen half holds reaches no further
than its team before its release, which keeps the order that a fence or an ordered access asked for (R250, R251; log 128). A REL that
is no compare point leaves them held and waits for no more: R173 does not say whether it waits (DESIGN CHOICE, log 139). -/
def PStore.short (p : PStore) (x : Scope) : Bool :=
  match p.sp with
  | some _ => x.covers .team && !p.level.covers .team
  | none => !p.level.covers (if p.held && x.covers .die then .team else x)

/-- The wider of two scopes that an order asks for. -/
def widestScope (x : Option Scope) (y : Scope) : Option Scope :=
  match x with
  | some z => some (if z.covers y then z else y)
  | none => some y

/-- What a lichen half of a group holds is to be performed at a scope before what the group issues from now on: every write, or
its atomics alone (R175, R176, R250; log 128). -/
def State.fenceHeld (s : State) (gid : Nat) (x : Scope) (atomics : Bool := false) : State :=
  match s.group? gid with
  | none => s
  | some g =>
    let here (p : PStore) : PStore :=
      if p.held && p.gid = gid && (!atomics || p.atomic) then { p with fence := widestScope p.fence x } else p
    let away (o : AwayOp) : AwayOp :=
      if o.gid = gid && (!atomics || o.atomic) then { o with fence := widestScope o.fence x } else o
    if g.pair.isNone then s
    else { s with pend := s.pend.map here }.modTeam g.team fun t => { t with away := t.away.map away }

/-! ### Physical addresses in commands (R417) -/

/-- Whether a VF owns a frame: it counts in the VF's USED, or lies on its free list. -/
def State.ownsFrame (s : State) (vf f : Nat) : Bool :=
  ((s.frame f).owner = some vf && (s.frame f).count ≠ 0) || (s.vf vf).free.any fun p => p.1 = f

/-- Whether a completion word may be written: aligned, in a frame of the VF. -/
def State.wordOk (s : State) (vf : Nat) (a : BitVec 64) : Bool := a.toNat % 8 = 0 && s.ownsFrame vf (a.toNat / 65536)

/-- A discarded write counted (R42, R417). -/
def State.discard (s : State) (vf : Nat) : State :=
  let v := s.vf vf
  s.setVf vf { v with discw := v.discw + 1 }

/-- A completion counter increased (R210, R263). -/
def State.complete (s : State) (a : BitVec 64) (n : Nat) : State :=
  let v := (s.num .pod none a.toNat 8 + n) % 2 ^ 64
  (s.settleBytes none a.toNat 8 .pod).modWriteNum a.toNat 8 v

end Sys2Proof.Machine
end

