-- ==== Sys2Proof/Machine/Translate.lean ====
section
/-! DEFINITION. Page tables, TLBs, faults and page requests, and the route tables (R194 to R205, R209, R210). -/

namespace Sys2Proof.Machine

/-- The address-space identifier of a context (R194). -/
def asidOf (cid : Nat) : Nat := cid % 65536

/-! ### Entries -/

def leafV (e : BitVec 64) : Bool := e.getLsbD 0
def leafLeaf (e : BitVec 64) : Bool := e.getLsbD 1
def leafW (e : BitVec 64) : Bool := e.getLsbD 2
def leafX (e : BitVec 64) : Bool := e.getLsbD 3
def leafPriv (e : BitVec 64) : Bool := e.getLsbD 4
/-- FMT (R147, R196). -/
def leafFmt (e : BitVec 64) : Nat := bits e.toNat 7 5
/-- GEOM (R147, R196). -/
def leafGeom (e : BitVec 64) : Nat := bits e.toNat 11 8
def leafWatch (e : BitVec 64) : Bool := e.getLsbD 12
def leafGrow (e : BitVec 64) : Bool := e.getLsbD 13
def leafCow (e : BitVec 64) : Bool := e.getLsbD 14
def leafRoot (e : BitVec 64) : Bool := e.getLsbD 15
/-- The frame number, physical address bits [47:16] (R196). -/
def leafFrame (e : BitVec 64) : Nat := bits e.toNat 47 16
def leafFwd (e : BitVec 64) : Bool := e.getLsbD 48
/-- The reference-count tag (R197). -/
def leafRct (e : BitVec 64) : Nat := bits e.toNat 63 52

/-- 64 KiB pages that a leaf of a level maps (R194). -/
def levelPages : Nat → Nat
  | 2 => 16384
  | 3 => 32
  | _ => 1

/-- What a walk finds (R195, R196). -/
inductive Walk
  | leaf (e : BitVec 64) (level : Nat)
  | absent
  | malformed
  | grow (e : BitVec 64)
  | moved (node : Nat)
  deriving DecidableEq, Repr

/-- What one entry says at its level: where the walk ends, or the next table's address (R195, R196). -/
def readEntry (e : BitVec 64) (level : Nat) : Walk ⊕ Nat :=
  let n := e.toNat
  if !leafV e && !leafGrow e && !leafFwd e then .inl .absent
  else if !leafLeaf e then
    (if level = 4 || bits n 63 48 ≠ 0 || bits n 7 2 ≠ 0 then .inl .malformed
     else if !leafV e then .inl .absent
     else .inr (bits n 47 8 * 256))
  else if level < 2 || bits n 51 49 ≠ 0 || (leafFwd e && (leafV e || leafGrow e))
      || (leafGrow e && !leafV e && level < 4)
      || (leafV e && ((level = 3 && bits n 20 16 ≠ 0) || (level = 2 && bits n 29 16 ≠ 0))) then .inl .malformed
  else if leafV e then .inl (.leaf e level)
  else if leafFwd e then .inl (.moved (bits n 27 16))
  else .inl (.grow e)

/-- Index bits of a level (R194). -/
def levelIndex (va level : Nat) : Nat :=
  match level with
  | 0 => bits va 55 47
  | 1 => bits va 46 38
  | 2 => bits va 37 30
  | 3 => bits va 29 21
  | _ => bits va 20 16

/-- Bytes of the table of a level (R194). -/
def tableBytes : Nat → Nat
  | 2 => 2048
  | 4 => 256
  | _ => 4096

/-- A walk from the table of a level, with the address of the entry it ends at (R194, R198). -/
def State.walkFrom (s : State) (va table level : Nat) : Nat → Walk × Nat
  | 0 => (.absent, 0)
  | fuel + 1 =>
    let a := table / tableBytes level * tableBytes level + 8 * levelIndex va level
    match readEntry (BitVec.ofNat 64 (s.num .module none a 8)) level with
    | .inl w => (w, a)
    | .inr next => s.walkFrom va next (level + 1) fuel

/-- The walk of a virtual address in a context's tables, and the physical address of its last entry. -/
def State.walk (s : State) (c : Ctx) (va : Nat) : Walk × Nat := s.walkFrom va c.ptroot.toNat 0 5

/-! ### TLBs (R198) -/

/-- Whether a TLB entry maps a page of an address space. -/
def Tlb.holds (t : Tlb) (asid page : Nat) : Bool := t.asid = asid && t.page ≤ page && page < t.page + t.pages

/-- The entry of either TLB that maps a page. -/
def State.tlbFind (s : State) (core asid page : Nat) : Option Tlb :=
  match (s.core core).tlb.find? (·.holds asid page) with
  | some t => some t
  | none => (s.tlb2.getD (dieOf core) []).find? (·.holds asid page)

/-- A translation enters the core's and the die's TLB; the oldest leaves a full one (log 16). -/
def State.tlbFill (s : State) (core : Nat) (t : Tlb) : State :=
  let c := s.core core
  let s1 := s.setCore core { c with tlb := (t :: c.tlb).take 256 }
  { s1 with tlb2 := s1.tlb2.set (dieOf core) ((t :: s1.tlb2.getD (dieOf core) []).take 16384) }

/-- Every translation of an address space over pages lo to hi - 1 leaves the TLBs, and translation registers
over them are to be translated again (R146, R210). -/
def State.tlbDrop (s : State) (asid lo hi : Nat) : State :=
  let keep (t : Tlb) : Bool := !(t.asid = asid && t.page < hi && lo < t.page + t.pages)
  let covers (r : GReg) : Bool :=
    let first := r.base.toNat / 65536
    let last := (r.base.toNat + max 1 r.limit - 1) / 65536
    first < hi && lo ≤ last
  let grp (g : Group) : Group :=
    let mine : Bool := match s.team? g.team with
      | some t => (match s.grid? t.grid with
        | some gr => asidOf gr.ctx = asid
        | none => false)
      | none => false
    if mine then
      { g with regs := { g.regs with g := g.regs.g.map fun r => if covers r then { r with stale := true } else r } }
    else g
  { s with
    cores := s.cores.map fun (n, c) => (n, { c with tlb := c.tlb.filter keep })
    tlb2 := s.tlb2.map fun l => l.filter keep
    groups := s.groups.map fun (n, g) => (n, grp g) }

/-! ### Budgets (R65, R66) -/

/-- Whether a class of a VF's traffic is admitted now: its budget is above zero. -/
def State.admits (s : State) (vf cls : Nat) : Bool :=
  match (s.vf vf).left.getD cls none with
  | none => true
  | some x => 0 < x

/-- Units charged to a class of a VF's budget; an overdraft stays (R66). -/
def State.charge (s : State) (vf cls n : Nat) : State :=
  let v := s.vf vf
  match v.left.getD cls none with
  | none => s
  | some x => s.setVf vf { v with left := v.left.set cls (some (x - n)) }

/-- An operation that the module sends for a VF, charged to fabric egress: the budget defers it, and none goes before those
that wait (R16, R65, R66; log 53). -/
def State.sendFor (s : State) (vf node : Nat) (r : FabReq) : State :=
  if s.egress.any (·.1 = vf) || !s.admits vf 1 then { s with egress := s.egress ++ [(vf, node, r)] }
  else (s.charge vf 1 128).sendTo node r

/-- What the budget of fabric egress deferred goes on, in its order. -/
def State.flushEgress (s : State) : State :=
  s.egress.foldl (fun s x => s.sendFor x.1 x.2.1 x.2.2) { s with egress := [] }

/-! ### Translation -/

/-- What the translation of one address gives an access (R198 to R201, R205). -/
inductive Xl
  | ok (pa : Nat) (leaf : BitVec 64)
  | access
  | park (w : PageWant) (host mal : Bool)  -- whether a page request goes to the host (R202), and its MAL
  | remote (node : Nat)
  | deferred                               -- the walk waits for budget
  deriving DecidableEq, Repr

/-- Whether an access kind writes (R202). -/
def kindWrites (k : Nat) : Bool := k = 1 || k = 2 || k = 5

/-- Permissions of a leaf for an access, and the frame's address (R198, R201). -/
def useLeaf (privc : Bool) (cid va kind : Nat) (e : BitVec 64) (level : Nat) : Xl :=
  let w : PageWant := { ctx := cid, page := va / 65536, va, kind }
  let pa := leafFrame e * 65536 + va % (levelPages level * 65536)
  if leafPriv e && !privc then .access
  else if kind = 3 && !leafX e then .access
  else if kindWrites kind && leafCow e then .park w (level ≠ 4) false
  else if kindWrites kind && !leafW e then .access
  else .ok pa e

/-- What a walk gives an access. -/
def Walk.use (w : Walk) (c : Ctx) (cid va kind : Nat) : Xl :=
  let p : PageWant := { ctx := cid, page := va / 65536, va, kind }
  match w with
  | .leaf e level => useLeaf c.privc cid va kind e level
  | .absent => .park p true false
  | .malformed => .park p true true
  | .grow _ => .park p false false
  | .moved node => .remote node

/-- Translation of a virtual address for an access from a core (R198). -/
def State.translate (s : State) (cid : Nat) (c : Ctx) (core va kind : Nat) : Xl × State :=
  let page := va / 65536
  match s.tlbFind core (asidOf cid) page with
  | some t => (useLeaf c.privc cid va kind t.entry t.level, s)
  | none =>
    if !s.admits c.vf 3 then (.deferred, s)
    else
      let s1 := s.charge c.vf 3 1
      let w := (s.walk c va).1
      (w.use c cid va kind, match w with
        | .leaf e level =>
          let n := levelPages level
          s1.tlbFill core { asid := asidOf cid, page := page / n * n, pages := n, entry := e, level }
        | _ => s1)

/-- A walk of a unit's own, charged to the VF's budget (R65, R198). -/
def State.walkAt (s : State) (cid : Nat) (c : Ctx) (va kind : Nat) : Xl × State :=
  ((s.walk c va).1.use c cid va kind, s.charge c.vf 3 1)

/-- Translation as Crozier, the Sporangium or a fabric ingress unit makes it: a walk, which waits where the budget is spent
(R65, R66, R198). -/
def State.translateAt (s : State) (cid : Nat) (c : Ctx) (va kind : Nat) : Xl × State :=
  if !s.admits c.vf 3 then (.deferred, s) else s.walkAt cid c va kind

/-! ### Page requests (R202) -/

/-- The 32 bytes of a page request. -/
def pageRequestBits (node : Nat) (r : PageReq) : Nat :=
  packBits [(168, 12, node), (167, 1, r.mal.toNat), (164, 3, r.want.kind), (128, 32, r.tag.toNat),
    (96, 32, r.cgen.toNat), (80, 8, r.vf), (64, 16, asidOf r.want.ctx), (0, 64, r.want.page * 65536)]

/-- Requests not yet in their VF's ring go there while it has room. -/
def State.postRequests (s : State) : List PageReq → List PageReq → State
  | [], out => { s with pageReqs := out.reverse }
  | r :: rs, out =>
    let v := s.vf r.vf
    if r.posted || v.prqn = 0 || v.prqn ≤ v.prqh - v.prqt then s.postRequests rs (r :: out)
    else
      let a := v.prqb.toNat + 32 * (v.prqh.toNat % v.prqn.toNat)
      let s1 := (s.modWriteNum a 32 (pageRequestBits s.node r)).setVf r.vf { v with prqh := v.prqh + 1 }
      s1.postRequests rs ({ r with posted := true } :: out)

/-- A fault is recorded: a page request when the host must resolve it and none waits for the page (R200, R202). -/
def State.fault (s : State) (w : PageWant) (host mal : Bool) : State :=
  match s.ctx? w.ctx with
  | none => s
  | some c =>
    let known := s.pageReqs.any fun r => r.want.page = w.page && asidOf r.want.ctx = asidOf w.ctx && r.cgen = c.cgen
    if !host || known then s else
    let r : PageReq := { want := w, vf := c.vf, tag := BitVec.ofNat 32 s.nextTag, cgen := c.cgen, mal }
    let s1 := { s with nextTag := s.nextTag + 1 }
    s1.postRequests (s1.pageReqs ++ [r]) []

/-! ### Routes (R205) -/

/-- The node a context's route table names for an address; none where an entry is invalid or malformed. -/
def State.route (s : State) (c : Ctx) (va : Nat) : Option Nat :=
  let a := s.num .module none (c.routes.toNat + 8 * bits va 55 43) 8
  if !bit a 0 || a % 65536 ≠ 1 || a / 2 ^ 48 ≠ 0 then none
  else
    let b := s.num .module none (bits a 47 16 * 65536 + 8 * bits va 42 30) 8
    if !bit b 0 || b % 65536 ≠ 1 || b / 2 ^ 28 ≠ 0 then none else some (bits b 27 16)

/-- The node an access goes to: the die's hint for the page, else the route table (R205). -/
def State.destination (s : State) (cid : Nat) (c : Ctx) (core va : Nat) : Option Nat :=
  match (s.hints.getD (dieOf core) []).find? fun h => h.1 = asidOf cid && h.2.1 = va / 65536 with
  | some h => some h.2.2
  | none => s.route c va

/-- A route hint enters the die's cache of 4,096 (R205). -/
def State.addHint (s : State) (cid core page node : Nat) : State :=
  let d := dieOf core
  let l := (s.hints.getD d []).filter fun h => !(h.1 = asidOf cid && h.2.1 = page)
  { s with hints := s.hints.set d (((asidOf cid, page, node) :: l).take 4096) }

/-- A route hint is dropped (R205). -/
def State.dropHint (s : State) (cid page : Nat) : State :=
  { s with hints := s.hints.map fun l => l.filter fun h => !(h.1 = asidOf cid && h.2.1 = page) }

end Sys2Proof.Machine
end

