-- ==== Sys2Proof/Machine/Teams.lean ====
section
/-! DEFINITION. What groups, teams and grids hold and give back; barriers; halting; termination of a context
(R24 to R36, R62, R180, R192, R204, R253, R255, R262, R273, R274, R300). -/

namespace Sys2Proof.Machine

/-! ### Trap codes (R257) -/

/-- The traps. -/
inductive TrapCode
  | illop | priv | misalign | poison | divz | access | xlfail | ue | barto | race | quota | sealerr
  | dstkovf | depth | trapi | bkpti
  deriving DecidableEq, Repr

/-- The code of a trap (R257). -/
def TrapCode.num : TrapCode → Nat
  | .illop => 0x01 | .priv => 0x02 | .misalign => 0x03 | .poison => 0x04 | .divz => 0x05 | .access => 0x06
  | .xlfail => 0x07 | .ue => 0x08 | .barto => 0x09 | .race => 0x0A | .quota => 0x0B | .sealerr => 0x0C
  | .dstkovf => 0x0D | .depth => 0x0E | .trapi => 0x0F | .bkpti => 0x10

/-- The trap of a code. -/
def TrapCode.ofNum (n : Nat) : TrapCode :=
  ([.priv, .misalign, .poison, .divz, .access, .xlfail, .ue, .barto, .race, .quota, .sealerr, .dstkovf, .depth, .trapi,
    .bkpti].find? fun c => c.num = n).getD .illop

/-- The trap of an error code that an engine or matrix operation kept (R156, R352). -/
def TrapCode.ofErr : Nat → TrapCode
  | 0x07 => .xlfail
  | 0x0B => .quota
  | 0x03 => .misalign
  | _ => .access

/-! ### Allotments -/

/-- Slots of a full allotment, F = V + 16T (R25, R29). -/
def Kernel.fullSlots (k : Kernel) : Nat := k.freg + 16 * k.tiles
/-- Slots a group starts with (R24). -/
def Kernel.startSlots (k : Kernel) : Nat := if k.preg = k.freg then k.fullSlots else k.preg
/-- Slots a group holds. -/
def Group.held (g : Group) (k : Kernel) : Nat := if g.full then k.fullSlots else k.preg
/-- Whether a group re-executes for an audit (R244). -/
def Group.replays (g : Group) : Bool := match g.audit with
  | .replay _ _ _ => true
  | _ => false
/-- Slots that the partition gave it: a re-execution is placed with its full allotment (R244). -/
def Group.owned (g : Group) (k : Kernel) : Nat := match g.audit with
  | .replay _ _ _ => k.fullSlots
  | _ => g.held k
/-- The tile count from the boundary (R29). -/
def Group.tileCount (g : Group) (k : Kernel) : Nat :=
  if g.full then min 16 ((k.fullSlots - g.bound) / 16) else 0

/-- A partition changed in place. -/
def State.modPart (s : State) (core part : Nat) (f : Part → Part) : State :=
  let c := s.core core
  s.setCore core { c with parts := c.parts.set part (f (c.parts.getD part {})) }
/-- A partition. -/
def State.part (s : State) (core part : Nat) : Part := (s.core core).parts.getD part {}

/-- A group becomes resident: pending, or active when the active set has room (R62). -/
def Part.enter (p : Part) (gid : Nat) : Part :=
  if p.active.length < 8 then { p with active := p.active ++ [gid] } else { p with pending := p.pending ++ [gid] }

/-- A group leaves the resident sets. -/
def Part.remove (p : Part) (gid : Nat) : Part :=
  { p with active := p.active.filter (· ≠ gid), pending := p.pending.filter (· ≠ gid),
           acqr := p.acqr.filter fun q => q.1 ≠ gid, second := p.second.filter fun q => q.1 ≠ gid }

/-- Whether a group has its place and its slots on its core. -/
def Group.onCore (g : Group) : Bool := g.life = .resident || g.life = .retiring

/-- A group gives back its slots and its resident place. -/
def State.vacate (s : State) (gid : Nat) : State :=
  match s.group? gid with
  | none => s
  | some g => match s.team? g.team with
    | none => s
    | some t => if !g.onCore then s else match s.grid? t.grid with
      | none => s
      | some gr => s.modPart t.core g.part fun p => { p.remove gid with used := p.used - g.owned gr.k }

/-! ### Keys (R172, R173, R180) -/

/-- A context's keys with one changed; a key nobody holds, waits for or abandoned is not listed. -/
def setKey (l : List (KeyId × Key)) (k : KeyId) (x : Key) : List (KeyId × Key) :=
  let rest := l.filter fun p => p.1 ≠ k
  if x = {} then rest else rest ++ [(k, x)]

/-- The state of a key. -/
def Ctx.key (c : Ctx) (k : KeyId) : Key :=
  match c.keys.find? fun p => p.1 = k with
  | some p => p.2
  | none => {}

/-- A key without a holder; it is abandoned when the group that held it ends without REL (R180). -/
def Key.drop (x : Key) (who : Nat) (abandon : Bool) : Key :=
  { x with holders := x.holders.filter fun h => h.1 ≠ who
           abandoned := x.abandoned || (abandon && x.holders.any fun h => h.1 = who) }

/-- A context's key changed in place. -/
def Ctx.modKey (c : Ctx) (k : KeyId) (f : Key → Key) : Ctx := { c with keys := setKey c.keys k (f (c.key k)) }

/-- The message that gives up a key whose home is another module, or ends without REL (R173, R180). -/
def State.tellRelease (s : State) (cid : Nat) (c : Ctx) (gid : Nat) (abandon : Bool) (k : KeyId) : State :=
  if k.space ≠ 2 then s
  else match s.route c k.addr.toNat with
    | none => s
    | some n => if n = s.node then s else
      s.sendFor c.vf n { node := s.node, id := 0, ctxid := cid, va := k.addr, kind := .key 3 gid 0 abandon.toNat, hops := 0 }

/-- The requests of a group that wait in grant queues of other modules are withdrawn there: the home drops the request, or
the grant that has crossed it (R180, R265). -/
def State.withdrawKeys (s : State) (gid : Nat) : State :=
  let mine (o : FabOut) : Bool := o.gid = gid && (match o.req.kind with
    | .key r _ _ _ => r ≠ 3
    | _ => false)
  (s.fabOut.filter mine).foldl (fun s o => s.sendFor (((s.ctx? o.req.ctxid).map (·.vf)).getD 0) o.dest
    { o.req with id := 0, kind := .key 3 gid 0 0, hops := 0 })
    { s with fabOut := s.fabOut.filter fun o => !mine o }

/-- A group gives up every key, and leaves every grant queue (R180). -/
def State.dropKeys (s : State) (cid gid : Nat) (abandon : Bool) : State :=
  match s.group? gid, s.ctx? cid with
  | some g, some c =>
    let s1 := g.keys.foldl (fun s k => s.tellRelease cid c gid abandon k) s
    let s2 := s1.modCtx cid fun c => { c with
      keys := (c.keys.map fun (k, x) =>
        (k, { x.drop gid (abandon && g.keys.contains k) with queue := x.queue.filter fun q => q.who ≠ gid })).filter
          fun p => p.2 ≠ {} }
    s2.modGroup gid fun g => { g with keys := [], exKeys := [] }
  | _, _ => s

/-! ### Barriers (R192, R300) -/

/-- Whether a group is halted or ended, and so counts as arrived (R204, R253). -/
def Group.halts (g : Group) : Bool := g.life = .halted || g.life = .ended

/-- Halted groups of a team. -/
def State.haltedGroups (s : State) (t : Team) : List Nat :=
  t.groups.filterMap fun gid => match s.group? gid with
    | some g => if g.halts then some g.no else none
    | none => none

/-- Arrivals of a phase, halted groups that did not arrive included (R253, R300). -/
def State.arrivals (s : State) (t : Team) (b : Barrier) : Nat :=
  b.arrived.length + ((s.haltedGroups t).filter fun n => !b.arrived.contains n).length

/-- A waiting group's slots at barrier n have their status left for them, and issue again (R192). -/
def Group.leaveBar (g : Group) (n status : Nat) : Group :=
  let f (x : Slot) : Slot := match x.wait with
    | .bar m _ => if m = n then { x with wait := .ready, granted := some (BitVec.ofNat 64 status) } else x
    | _ => x
  { g with slot0 := f g.slot0, slot1 := f g.slot1 }

/-- A barrier completes when its phase has its expected arrivals, no later than its period allows (R192, R253, R273, R300). -/
def State.barCheck (s : State) (tid n : Nat) : State :=
  match s.team? tid with
  | none => s
  | some t => match Map.get? t.bars n with
    | none => s
    | some b =>
      if b.expect ≤ s.arrivals t b && b.arrived ≠ [] && s.cycle ≤ b.t0 + b.period then
        let status := if s.haltedGroups t = [] then 0 else 1
        let s1 := s.modTeam tid fun t => { t with bars := Map.del t.bars n }
        t.groups.foldl (fun s gid => s.modGroup gid fun g => g.leaveBar n status) s1
      else s

/-- Every barrier of a team is tried. -/
def State.barCheckAll (s : State) (tid : Nat) : State :=
  (List.range 16).foldl (fun s n => s.barCheck tid n) s

/-! ### Retirement (R35, R36) -/

/-- Whether a group of a team still counts against the team's retirement. -/
def Group.gone (g : Group) : Bool := g.life = .retired || g.halts

/-- Whether some grid that is not retired names this one as its parent. -/
def State.hasChildren (s : State) (gid : Nat) : Bool := s.grids.any fun p => p.2.parent = some gid

/-- Whether a fabric operation writes memory or a population (R178, R274). -/
def FabOut.writes (o : FabOut) : Bool :=
  match o.req.kind with
  | .write _ | .typedWrite _ _ | .atomic _ _ _ _ | .engWrite _ _ _ | .unit _ | .plwadd _ _ => true
  | _ => false

/-- Whether a write that a group of a grid sent to another module is not answered yet. -/
def State.gridSends (s : State) (grid : Nat) : Bool :=
  s.fabOut.any fun o => o.writes && (((s.group? o.gid).bind fun g => s.team? g.team).map (·.grid)) = some grid

/-- A grid retires when its teams and its descendants have; then it signals CCTR and its parent is tried
(R36, R416). What its groups stored is performed at device scope before CCTR changes, that of halted groups too (R178; log 63). -/
def State.gridTry (s : State) (grid : Nat) : Nat → State
  | 0 => s
  | fuel + 1 =>
    match s.grid? grid with
    | none => s
    | some gr =>
      if gr.done < gr.teams || s.hasChildren grid || s.gridSends grid then s
      else
        let s0 := s.performAt .device fun p => p.sp.isNone && p.grid = grid
        let s1 := { s0 with grids := Map.del s0.grids grid }
        let s2 := match gr.cctr with
          | some a => { s1 with signals := s1.signals ++ [{ ctx := gr.ctx, addr := a, src := gr.id.toNat, grid := true }] }
          | none => s1
        match gr.parent with
        | some p => s2.gridTry p fuel
        | none => s2

/-- Where byte a of stretches lies. -/
def spanSpot : List (Nat × Nat) → Nat → Nat
  | [], a => a
  | (b, n) :: rest, a => if a < n then b + a else spanSpot rest (a - n)

/-- Which byte of stretches lies at a place, if one does; `k` is the first one's number. -/
def spanOffset : List (Nat × Nat) → Nat → Nat → Option Nat
  | [], _, _ => none
  | (b, n) :: rest, x, k => if b ≤ x && x < b + n then some (k + (x - b)) else spanOffset rest x (k + n)

/-- The lowest n bytes from `at_` on that the stretches of an ascending list leave free. -/
def freeSpans : List (Nat × Nat) → Nat → Nat → List (Nat × Nat)
  | [], at_, n => if n = 0 then [] else [(at_, n)]
  | (b, k) :: rest, at_, n =>
    let m := min n (b - at_)
    if m = 0 then (if n = 0 then [] else freeSpans rest (max at_ (b + k)) n)
    else (at_, m) :: freeSpans rest (max at_ (b + k)) (n - m)

/-- Where a team's n bytes of scratchpad are put on a core: the lowest bytes that no placed team has (log 108). -/
def State.spansFor (s : State) (core n : Nat) : List (Nat × Nat) :=
  let used := (s.teams.map fun p => if p.2.core = core && p.2.placing = .placed && !p.2.retired then p.2.spans else []).flatten
  freeSpans (sortBy (·.1) used) 0 n

/-- A team's scratchpad reservation is given back, where the team is on its core (R36); its context is the last writer of
the bytes that it wrote (R193). -/
def State.freeScratch (s : State) (tid : Nat) : State :=
  match s.team? tid with
  | none => s
  | some t => if t.retired || t.placing ≠ .placed then s else match s.grid? t.grid with
    | none => s
    | some gr =>
      let c := s.core t.core
      (s.setCore t.core { c with
        spUsed := c.spUsed - gr.k.scrb, spLast := t.sp.foldl (fun m p => Map.set m (spanSpot t.spans p.1) gr.ctx) c.spLast }).setTeam tid
          { t with spans := [] }

/-- A team retires when all its groups have: its scratchpad is freed (R36). -/
def State.teamTry (s : State) (tid : Nat) : State :=
  match s.team? tid with
  | none => s
  | some t =>
    let finished := t.groups.all fun gid => match s.group? gid with
      | some g => g.gone
      | none => true
    if !finished || t.retired then s
    else
      let s2 := (s.freeScratch tid).modTeam tid fun t => { t with retired := true, bars := [] }
      let twinDone := match t.twin with
        | some w => match s2.team? w with
          | some x => x.retired
          | none => true
        | none => true
      if !twinDone then s2
      else (s2.modGrid t.grid fun g => { g with done := g.done + 1 }).gridTry t.grid 11

/-- The context a group belongs to. -/
def State.ctxOf (s : State) (g : Group) : Option Nat :=
  match s.team? g.team with
  | none => none
  | some t => match s.grid? t.grid with
    | none => none
    | some gr => some gr.ctx

/-- A group as the race detector of another module needs it (R181, R182). -/
def State.accOf (s : State) (gid : Nat) : Option FabAcc :=
  match s.group? gid with
  | none => none
  | some g => match s.team? g.team with
    | none => none
    | some t => (s.grid? t.grid).map fun gr =>
      { gid, grid := gr.id, team := t.no, group := g.no, interval := g.interval, scope := g.relScope, keys := g.exKeys }

/-- The modules whose detector tables keep a group are told how it stands, or that it has retired (R181; log 129). -/
def State.tellRacers (s : State) (gid : Nat) (retired : Bool) : State :=
  match s.group? gid with
  | none => s
  | some g => match s.ctxOf g with
    | none => s
    | some cid => match s.ctx? cid with
      | none => s
      | some c => g.told.foldl (fun s n => s.sendFor c.vf n
          { node := s.node, id := 0, ctxid := cid, va := 0, kind := .racer retired, hops := 0, acc := s.accOf gid }) s

/-- The detector entries of a group are freed, here and at other modules (R181). -/
def State.dropDetector (s : State) (cid gid : Nat) : State :=
  ((s.tellRacers gid true).modGroup gid fun g => { g with told := [] }).modCtx cid fun c =>
    { c with dets := c.dets.filter fun p => p.2 ≠ gid }

/-! ### Ends without retirement -/

/-- Whether another suspended group uses a continuation slot. -/
def State.contShared (s : State) (cid gid i : Nat) : Bool :=
  s.groups.any fun p => p.1 ≠ gid && s.ctxOf p.2 = some cid && (match p.2.life with
    | .suspended r => r.slotNo = i
    | _ => false)

/-- The continuation slots that a group uses: a handler's, or a suspended group's own. -/
def Group.contSlots (g : Group) : List Nat :=
  (match g.handler with
    | some (_, i, _) => [i]
    | none => []) ++ (match g.life with
    | .suspended r => [r.slotNo]
    | _ => [])

/-- The continuation slots of a group that ends are free again (R258). -/
def State.freeConts (s : State) (gid : Nat) : State :=
  match s.group? gid with
  | none => s
  | some g => match s.ctxOf g with
    | none => s
    | some cid =>
      if g.replays then s
      else s.modCtx cid fun c => { c with
        contUsed := c.contUsed.filter fun i => !(g.contSlots.contains i && !s.contShared cid gid i) }

/-- A rank of this module withdraws from operation q of a communicator, and the other modules are told (R314). -/
def State.withdraw (s : State) (ctx : Nat) (op : EngOp) : State :=
  let mine : CollIn := { cid := op.cid, q := op.seqNo, rank := op.rank, node := s.node, ctx, out := true, taken := true }
  let keep := s.collIn.filter fun x => !(x.cid = op.cid && x.q = op.seqNo && x.rank = op.rank && x.node = s.node && x.ctx = ctx)
  let away := ((op.peers.map (·.2)).filter (· ≠ s.node)).dedup
  away.foldl (fun s n => s.sendFor (((s.ctx? ctx).map (·.vf)).getD 0) n
    { node := s.node, id := 0, ctxid := ctx, va := 0, kind := .coll op.cid op.seqNo op.rank 0 0 0 none, hops := 0 })
    { s with collIn := keep ++ [mine] }

/-- The collectives of a group's queues that are not finished are withdrawn (R314). -/
def State.withdrawAll (s : State) (g : Group) : State :=
  (g.eng.getD 2 []).foldl (fun s op =>
    if op.fin then s else match s.team? g.team with
      | none => s
      | some t => match s.grid? t.grid with
        | none => s
        | some gr => s.withdraw gr.ctx op) s

/-- A group stops for good without performing what it still had to: `life` says how (R204, R253, R262).
Its unperformed stores are discarded, and its fabric operations forgotten, save the writes already sent (R274). -/
def State.stopGroup (s : State) (gid : Nat) (life : Life) : State :=
  match s.group? gid with
  | none => s
  | some g =>
    let s0 := (((s.withdrawAll g).withdrawKeys gid).freeConts gid).vacate gid
    let s1 := { s0 with
      pend := s0.pend.filter fun p => !(p.gid = gid && (p.held || p.level = Scope.group))
      fabOut := s0.fabOut.filter fun o => o.gid ≠ gid || o.writes }.drain
    let s2 := s1.modTeam g.team fun t => { t with away := t.away.filter fun o => o.gid ≠ gid }
    s2.modGroup gid fun g => { g with
      life, slot0 := { pc := g.slot0.pc, mask := g.slot0.mask }, slot1 := { pc := g.slot1.pc, mask := g.slot1.mask }
      loads := [], eng := [[], [], [], []], engErr := [], mat := [], matErr := [], handler := none }

/-- A fault field set where it is still 0 (R45). -/
def State.setFault (s : State) (rid code detail : Nat) : State :=
  let r := s.req rid
  if bits r.bits.toNat 191 160 ≠ 0 then s
  else s.setReq rid { r with bits := BitVec.ofNat 2048 (setBits r.bits.toNat 160 32 (code + (detail % 2 ^ 24) * 256)) }

/-- The step-grid slot, request and particle of a team: SLOTID, REQID and PARTID (R52, R224). -/
def State.place (_ : State) (gr : Grid) (t : Team) : BitVec 32 × BitVec 32 × BitVec 32 :=
  match gr.step with
  | none => (0xFFFFFFFF#32, 0xFFFFFFFF#32, 0xFFFFFFFF#32)
  | some (_, _, m) =>
    let slot := gr.slots.getD (t.no / m) 0
    let e := ((Map.get? gr.table slot).getD 0).toNat
    (BitVec.ofNat 32 slot, BitVec.ofNat 32 (bits e 15 0), BitVec.ofNat 32 (bits e 61 48))

/-- A group ends in a step grid, its request faulted (R204, R45), or halts outside one (R253). Barriers count it as halted. -/
def State.endGroup (s : State) (gid : Nat) (life : Life) (fault : Option (Nat × Nat)) : State :=
  match s.group? gid with
  | none => s
  | some g => match s.team? g.team with
    | none => s
    | some t => match s.grid? t.grid with
      | none => s
      | some gr =>
        let s1 := match fault, gr.step with
          | some (code, detail), some _ => s.setFault (s.place gr t).2.1.toNat code detail
          | _, _ => s
        let s2 := (s1.dropKeys gr.ctx gid true).stopGroup gid life
        ((s2.dropDetector gr.ctx gid).barCheckAll g.team).teamTry g.team

/-! ### Termination (R262, R274) -/

/-- What a termination record tells (R262). -/
structure TermInfo where
  cause : Nat
  code : Nat := 0
  trapr : Nat := 0                         -- trap record bits [447:192]
  trpc : BitVec 64 := 0
  tlenb : Nat := 0
  tslot : Bool := false
  core : Nat := 0
  grid : BitVec 32 := 0
  team : Nat := 0
  group : Nat := 0
  extra : List Byte := []                  -- the diagnostic of cause 0x04
  cyc : Option Nat := Option.none          -- CYCLE at the termination, where it is not the present one (R273)

/-- The first 64 bytes of a termination record (R262). -/
def TermInfo.bits512 (i : TermInfo) (cyc : Nat) (cgen : BitVec 32) : Nat :=
  packBits [(448, 64, cyc), (192, 256, i.trapr), (160, 32, i.grid.toNat), (136, 24, i.team), (132, 4, i.group),
    (128, 1, i.tslot.toNat), (96, 32, cgen.toNat), (88, 8, i.core), (80, 8, i.tlenb), (72, 8, i.cause),
    (64, 8, i.code), (0, 64, i.trpc.toNat)]

/-- Numbers of the groups of a context. -/
def State.groupsOf (s : State) (cid : Nat) : List Nat :=
  (s.groups.filter fun p => s.ctxOf p.2 = some cid).map (·.1)

/-- The step streams whose grid is a context's stop where they are: a grid that is terminated does not retire (R274; log 115). -/
def State.killSteps (s : State) (cid : Nat) : State :=
  { s with vfs := s.vfs.map fun (p : Nat × Vf) => (p.1, { p.2 with streams := p.2.streams.map fun (x : Stream) => match x.phase with
      | .running _ n => if ((s.grid? n).map (·.ctx)) = some cid then { x with phase := .killed, parked := none } else x
      | _ => x }) }

/-- The host is told of a terminated context once the writes that it had sent to other modules are answered (R274). -/
def State.tellEnded (s : State) : State :=
  let done (x : Nat × List Nat) : Bool := !x.2.any fun id => s.fabOut.any fun o => o.id = id
  (s.ending.filter done).foldl (fun s x => s.tell (.terminated x.1)) { s with ending := s.ending.filter fun x => !done x }

/-- Termination of a context (R262): nothing is saved, and its keys at other modules are given up (R180); every store of it
that is not discarded is performed at pod scope, those sent to other modules too, before the host's event (R274); the record is
written at TREC, then CST and CGEN of the CCB. -/
def State.terminateCtx (s : State) (cid : Nat) (i : TermInfo) : State :=
  match s.ctx? cid with
  | none => s
  | some c =>
    if c.cst = 3 then s else
    let gids := s.groupsOf cid
    let sent := (s.fabOut.filter fun o => o.writes && gids.contains o.gid).map (·.id)
    let s0 := gids.foldl (fun s gid => (s.dropKeys cid gid true).tellRacers gid true) (s.killSteps cid)
    let s1 := gids.foldl (fun s gid => s.stopGroup gid .ended) s0
    let tids := (s1.teams.filter fun p => match s1.grid? p.2.grid with
      | some gr => gr.ctx = cid
      | none => false).map (·.1)
    let s2 := tids.foldl (fun s tid => s.freeScratch tid) s1
    let s3 := s2.performAt .pod fun p => p.ctx = some cid
    let s4 := { s3 with
      groups := s3.groups.filter fun p => !gids.contains p.1
      audits := s3.audits.filter fun j => j.ctx ≠ cid
      teams := s3.teams.filter fun p => !tids.contains p.1
      grids := s3.grids.filter fun p => p.2.ctx ≠ cid }
    let s5 := s4.setCtx cid { c with
      cst := 3, cgen := c.cgen + 1, binds := [], farBinds := [], keys := [], contUsed := [], dets := [], far := [], fifos := List.replicate 8 []
      restores := [] }
    let s6 := s5.modWrite c.trec.toNat (leBytes 64 (i.bits512 (i.cyc.getD s.cycle) c.cgen) ++ i.extra)
    let s7 := s6.modWriteNum (c.ccb.toNat + 48) 4 (c.cgen + 1).toNat
    let old := s7.num .module none (c.ccb.toNat + 46) 1
    let s8 := s7.modWriteNum (c.ccb.toNat + 46) 1 (setBits old 4 4 3)
    -- a restore that still had teams to place has none left (R263; log 109)
    let s9 := c.restores.foldl (fun s a => s.complete a.1 1) s8
    { s9 with ending := s9.ending ++ [(cid, sent)] }.tellEnded

end Sys2Proof.Machine
end

