-- ==== Sys2Proof/Machine/Detector.lean ====
section
/-! DEFINITION. The race detector: who is checked, what conflicts, the shadow words and the log (R181, R182). -/

namespace Sys2Proof.Machine

/-- The bindings of a context that this module knows: of its own keys, and those that their homes told it (log 125). -/
def Ctx.allBinds (c : Ctx) : List (KeyId × Nat × Nat) := c.binds ++ c.farBinds

/-- The key a device or fabric sector is bound to: space, and a first sector and count in virtual addresses. -/
def Ctx.boundKey (c : Ctx) (sector : Nat) : Option KeyId :=
  (c.allBinds.find? fun b => b.1.space ≠ 1 && b.2.1 ≤ sector && sector < b.2.1 + b.2.2).map (·.1)

/-- The place of a group of another module in this module's tables. -/
def farPlace (node who : Nat) : Nat := 2 ^ 32 * (node + 1) + who

/-- A group whose access is checked, of this module or of another: its number or place, its context and VF, where it runs
(team and core; of another module, its node), its identity, its interval number, the scope of its latest release, and the keys
that it holds exclusively (R181, R182). -/
structure Racer where
  who : Nat
  cid : Nat
  vf : Nat
  spot : Nat × Nat ⊕ Nat
  grid : BitVec 32
  team : Nat
  group : Nat
  interval : Nat
  scope : Scope
  keys : List KeyId
  deriving DecidableEq, Repr

/-- A group of another module as one whose access is checked. -/
def FabReq.racer (r : FabReq) (c : Ctx) (a : FabAcc) : Racer :=
  { who := farPlace r.node a.gid, cid := r.ctxid, vf := c.vf, spot := .inr r.node, grid := a.grid, team := a.team, group := a.group
    interval := a.interval, scope := a.scope, keys := a.keys }

/-- The group of a detector entry: of this module as it stands, of another as it was told last (log 129). -/
def State.writerOf (s : State) (cid : Nat) (c : Ctx) (w : Nat) : Option Racer :=
  match Map.get? c.far w with
  | some a => some { who := w, cid, vf := c.vf, spot := .inr (w / 2 ^ 32 - 1), grid := a.grid, team := a.team, group := a.group
                     interval := a.interval, scope := a.scope, keys := a.keys }
  | none => match s.group? w with
    | none => none
    | some g => match s.team? g.team with
      | none => none
      | some t => (s.grid? t.grid).map fun gr =>
        { who := w, cid, vf := c.vf, spot := .inl (g.team, t.core), grid := gr.id, team := t.no, group := g.no
          interval := g.interval, scope := g.relScope, keys := g.exKeys }

/-- Whether a scope of a writer contains another group (R166). -/
def Racer.reaches (w r : Racer) : Bool :=
  match w.scope, w.spot, r.spot with
  | .pod, _, _ => true
  | .device, .inl _, .inl _ => true
  | .device, .inr m, .inr n => m = n
  | .die, .inl (_, a), .inl (_, b) => dieOf a = dieOf b
  | .team, .inl (a, _), .inl (b, _) => a = b
  | _, _, _ => false

/-- A sector's shadow word: WIDX and SEQ; 0xFFF before any write. -/
def Ctx.shadowOf (c : Ctx) (sector : Nat) : Nat × Nat := (Map.get? c.shadow sector).getD (0xFFF, 0)

/-- The KIND of a conflict of an access to one sector, if any (R182). A writer whose entry was freed conflicts
with no one (log 31). -/
def State.raceKind (s : State) (r : Racer) (c : Ctx) (write : Bool) (vsector psector : Nat) : Option Nat :=
  match c.boundKey vsector with
  | some k =>
    if write && !(r.keys.contains k || (c.key k).holders.contains (r.who, true)) then some 1 else none
  | none =>
    let (widx, seq) := c.shadowOf psector
    match (Map.get? c.dets widx).bind (s.writerOf r.cid c) with
    | none => none
    | some w =>
      if w.who = r.who then none
      else if w.interval % 16 = seq then some 2
      else if w.reaches r then none else some 3

/-- The sectors that n bytes touch. -/
def sectorsOf (a n : Nat) : List Nat := (List.range ((a + n - 1) / 32 + 1 - a / 32)).map (a / 32 + ·)

/-- The conflict of a lane's access, as KIND and shadow word: of several sectors that conflict, that of the lowest, which alone
is reported (DESIGN CHOICE, log 130). -/
def State.raceOf (s : State) (r : Racer) (write : Bool) (va pa n : Nat) : Option (Nat × Nat × Nat) :=
  match s.ctx? r.cid with
  | none => none
  | some c =>
    (List.zip (sectorsOf va n) (sectorsOf pa n)).findSome? fun (v, p) =>
      (s.raceKind r c write v p).map fun k => (k, c.shadowOf p)

/-- The 32 bytes of a race record (R182). -/
def State.raceRecord (s : State) (r : Racer) (va kind widx seq : Nat) : Nat :=
  let w := (s.ctx? r.cid).bind fun c => (Map.get? c.dets widx).bind (s.writerOf r.cid c)
  packBits [(200, 8, seq), (196, 4, (w.map (·.group)).getD 0), (172, 24, (w.map (·.team)).getD 0),
    (140, 32, (w.map (·.grid.toNat)).getD 0), (128, 12, widx), (124, 4, kind),
    (120, 4, r.group), (96, 24, r.team), (64, 32, r.grid.toNat), (0, 64, va)]

/-- A record appended to the VF's race log, which wraps; a log of no entries takes none (log 31). -/
def State.raceLog (s : State) (vf : Nat) (r : Nat) : State :=
  let v := s.vf vf
  if v.logn = 0 then s
  else (s.modWriteNum (v.logb.toNat + 32 * (v.logh.toNat % v.logn.toNat)) 32 r).setVf vf { v with logh := v.logh + 1 }

/-- What the table keeps of a group of another module. -/
def Racer.far (r : Racer) : Option FabAcc :=
  match r.spot with
  | .inl _ => none
  | .inr _ => some { gid := r.who % 2 ^ 32, grid := r.grid, team := r.team, group := r.group, interval := r.interval, scope := r.scope, keys := r.keys }

/-- The group's entry in the detector table, the lowest free one at its first write; none when none is free (R181). -/
def State.detector (s : State) (r : Racer) : Nat × State :=
  match s.ctx? r.cid with
  | none => (0xFFF, s)
  | some c =>
    match c.dets.find? fun p => p.2 = r.who with
    | some p => (p.1, s)
    | none =>
      match (List.range (min 4095 (c.dets.length + 1))).find? fun i => (Map.get? c.dets i).isNone with
      | some i => (i, s.setCtx r.cid { c with dets := Map.set c.dets i r.who })
      | none =>
        let v := s.vf r.vf
        (0xFFF, s.setVf r.vf { v with untrk := v.untrk + 1 })

/-- A performed write sets WIDX and SEQ of its sectors. -/
def State.markWriter (s : State) (r : Racer) (pa n : Nat) : State :=
  let (i, s1) := s.detector r
  s1.modCtx r.cid fun c => { c with
    far := match r.far with
      | some a => Map.set c.far r.who a
      | none => c.far
    shadow := (sectorsOf pa n).foldl (fun m p => Map.set m p (i, r.interval % 16)) c.shadow }

/-- One performed access checked and recorded: a conflict is logged, and what was written marks its sectors. An atomic is
checked as a write, and marks them where it wrote (R182, R297). -/
def State.watch (s : State) (r : Racer) (write wrote : Bool) (n va pa : Nat) (leaf : BitVec 64) : State :=
  if !leafWatch leaf then s
  else
    let s1 := match s.raceOf r write va pa n with
      | some (k, widx, seq) => s.raceLog r.vf (s.raceRecord r va k widx seq)
      | none => s
    if write && wrote then s1.markWriter r pa n else s1

/-- What the tables keep of a group of another module as it is told now; an end frees its entry (R181; log 129). -/
def State.heard (s : State) (cid : Nat) (r : Racer) (retired : Bool) : State :=
  s.modCtx cid fun c =>
    if retired then { c with dets := c.dets.filter (fun p => p.2 ≠ r.who), far := Map.del c.far r.who }
    else match r.far with
      | some a => if c.dets.any (fun p => p.2 = r.who) then { c with far := Map.set c.far r.who a } else c
      | none => c

end Sys2Proof.Machine
end

