-- ==== Sys2Proof/Machine/Ops.lean ====
section
/-! DEFINITION. The operations that meanings share: the issuing slot, registers, memory of a group, the
signature, the load-value log, taking an exception and returning from one. -/

namespace Sys2Proof.Machine

/-! ### The issuing slot -/

/-- What an instruction sees at its issue: the slot, its unit, and copies of its group, team, grid and context. -/
structure Env where
  gid : Nat
  slot : Bool
  pc : BitVec 64
  len : Nat
  pfx : Option Prefix
  next : Option Instr
  g : Group
  t : Team
  gr : Grid
  c : Ctx
  hbm : Bool          -- its VF's HBM budget was above zero at the issue, which is one transfer (R66)

/-- What an instruction comes to: done, a trap (with the sticky flags already in the state), or a wait, after
which it issues again. -/
inductive Res
  | ok (s : State)
  | trap (code : TrapCode) (info : BitVec 64) (lanes : LaneMask) (s : State)
  | wait (w : Wait) (s : State)

/-- The view of a slot of a group. -/
def State.envOf (s : State) (u : Cur) : Option Env :=
  match s.group? u.gid with
  | none => none
  | some g => match s.team? g.team with
    | none => none
    | some t => match s.grid? t.grid with
      | none => none
      | some gr => match s.ctx? gr.ctx with
        | none => none
        | some c => some { gid := u.gid, slot := u.slot, pc := u.pc, len := u.len, pfx := u.pfx, next := u.next, g, t, gr, c, hbm := s.admits c.vf 0 }

/-- The view of the issuing slot, where one issues. -/
def State.env? (s : State) : Option Env :=
  match s.cur with
  | none => none
  | some u => s.envOf u

/-- lanes(slot) (R6, R71). -/
def Env.lanes (e : Env) : LaneMask := (e.g.slot e.slot).mask
/-- The executing slot as it stands at issue. -/
def Env.sl (e : Env) : Slot := e.g.slot e.slot
/-- The context's number. -/
def Env.cid (e : Env) : Nat := e.gr.ctx
/-- The group as an agent that reads memory (R166). -/
def Env.viewer (e : Env) : Viewer := .group e.gid e.g.team e.t.core
/-- In a step grid (R52). -/
def Env.inStep (e : Env) : Bool := e.gr.step.isSome
/-- A trap that is not per lane: FLANES is all of lanes(slot), INFO 0 (R260). -/
def Env.trap (e : Env) (code : TrapCode) (s : State) : Res := .trap code 0 e.lanes s
/-- The other PC slot is live. -/
def Env.otherLive (e : Env) : Bool := (e.g.slot (!e.slot)).live
/-- Whether this group re-executes for an audit (R244). -/
def Env.replaying (e : Env) : Bool := match e.g.audit with
  | .replay _ _ _ => true
  | _ => false
/-- The kernel's address of the code window: the header's, or TVEC inside a handler (R100, R259). -/
def Env.window (e : Env) : BitVec 64 := if e.g.handler.isSome then e.c.tvec else e.gr.k.hdr
/-- Whether an address lies in the code window, the 4 GiB from its base (R100). -/
def Env.inWindow (e : Env) (a : BitVec 64) : Bool := (a - e.window).toNat < 2 ^ 32
/-- SLOTID, REQID and PARTID (R52, R224). -/
def Env.place (e : Env) (s : State) : BitVec 32 × BitVec 32 × BitVec 32 := s.place e.gr e.t

/-- The issuing group as one whose access is checked (R182). -/
def Env.racer (e : Env) (s : State) : Racer :=
  let g := (s.group? e.gid).getD e.g
  { who := e.gid, cid := e.cid, vf := e.c.vf, spot := .inl (e.g.team, e.t.core), grid := e.gr.id, team := e.t.no, group := e.g.no
    interval := g.interval, scope := g.relScope, keys := g.exKeys }

/-- The issuing group changed in place. -/
def State.upd (s : State) (e : Env) (f : Group → Group) : State := s.modGroup e.gid f
/-- The issuing group's shared registers changed in place. -/
def State.updRegs (s : State) (e : Env) (f : Regs → Regs) : State :=
  s.modGroup e.gid fun g => { g with regs := f g.regs }
/-- The issuing slot changed in place. -/
def State.updSlot (s : State) (e : Env) (f : Slot → Slot) : State :=
  s.modGroup e.gid fun g => g.modSlot e.slot f

/-- A slot whose instruction is over: nothing of it is kept. -/
def Slot.clear (x : Slot) : Slot :=
  { x with wait := .ready, unf := none, dest := [], reps := [], sent := false, probing := false, probed := false, fmts := [],
           granted := none, passed := false, fetched := false, oldest := none }

/-- The unit is done: the slot's PC passes it (R82, R94). -/
def State.advance (s : State) (e : Env) : State :=
  s.updSlot e fun x => { x.clear with pc := e.pc + BitVec.ofNat 64 e.len }

/-- The slot goes on at another address (R85). -/
def State.jump (s : State) (e : Env) (target : BitVec 64) : State :=
  s.updSlot e fun x => { x.clear with pc := target }

/-! ### Registers (R67 to R76) -/

/-- A scalar source: s61 to s63 are the executing slot's mask (R71). -/
def Env.s (e : Env) (n : BitVec 6) : BitVec 64 :=
  if n.toNat < 61 then e.g.regs.s.getD n.toNat 0
  else BitVec.ofNat 64 (bits (e.lanes.toNat >>> (32 * (n.toNat - 61))) 31 0)

/-- A scalar s0 to s60 written. -/
def Regs.setS (r : Regs) (n : Nat) (x : BitVec 64) : Regs := { r with s := r.s.set n x }

/-- A predicate; p7 reads all-true (R5, R67). -/
def Regs.pred (r : Regs) (n : Nat) : LaneMask := if n < 7 then r.p.getD n 0 else -1

/-- A vector register that reads as it stands: dead registers read poison in every lane (R76). -/
def Regs.vec (r : Regs) (n : Nat) : Lanes :=
  if r.vdead.getLsbD n then List.replicate 96 poison
  else match Map.get? r.v n with
    | some x => x
    | none => List.replicate 96 0

/-- The lanes of a mask written with new values, the others kept. -/
def mergeLanes (m : LaneMask) (new old : Lanes) : Lanes :=
  mkLanes fun l => if m.getLsbD l then lane new l else lane old l

/-- A vector register written in the lanes of a mask. A dead one becomes live, and the lanes not written take
0x7FBA_DBAD (R68, R76). With no lane nothing is written (log 28). -/
def Regs.setVec (r : Regs) (n : Nat) (m : LaneMask) (new : Lanes) : Regs :=
  if m = 0 then r else
  { r with v := Map.set r.v n (mergeLanes m new (r.vec n))
           vdead := r.vdead &&& ~~~(1#256 <<< n) }

/-- A predicate written in the lanes of a mask (R68). -/
def Regs.setPred (r : Regs) (n : Nat) (m new : LaneMask) : Regs :=
  { r with p := r.p.set n ((r.p.getD n 0 &&& ~~~m) ||| (new &&& m)) }

/-- A tile's elements, register by register: poison where it is dead (R76, R160). -/
def Regs.tile (r : Regs) (n : Nat) : List Lanes :=
  if r.tdead.getLsbD n then List.replicate 16 (List.replicate 96 poison)
  else match Map.get? r.t n with
    | some x => x
    | none => List.replicate 16 (List.replicate 96 0)

/-- A tile written whole; it is live. -/
def Regs.setTile (r : Regs) (n : Nat) (x : List Lanes) : Regs :=
  { r with t := Map.set r.t n x, tdead := r.tdead &&& ~~~(1#16 <<< n) }

/-- Vector registers marked dead (R76). -/
def Regs.kill (r : Regs) (ns : List Nat) : Regs :=
  { r with vdead := ns.foldl (fun d n => d ||| (1#256 <<< n)) r.vdead }

/-- The last-result file after writing n registers from D on (R73). -/
def Slot.wrote (x : Slot) (d n : Nat) : Slot :=
  if n = 0 then x
  else if n = 1 then { x with l1 := x.l0, l0 := .reg d }
  else { x with l0 := .reg (d + n - 1), l1 := .reg (d + n - 2) }

/-! ### Flags (R70) -/

/-- Flags of ASTAT, bits [3:0]: POISON, DIVZ, OVF, INEXACT. -/
structure Flags where
  poison : Bool := false
  divz : Bool := false
  ovf : Bool := false
  inexact : Bool := false
  deriving DecidableEq, Repr

/-- Flags of two parts of one instruction. -/
def Flags.or (a b : Flags) : Flags :=
  { poison := a.poison || b.poison, divz := a.divz || b.divz, ovf := a.ovf || b.ovf, inexact := a.inexact || b.inexact }

/-- The flags as ASTAT bits. -/
def Flags.bits (f : Flags) : BitVec 64 :=
  BitVec.ofNat 64 (f.poison.toNat + 2 * f.divz.toNat + 4 * f.ovf.toNat + 8 * f.inexact.toNat)

/-- The sticky flags set in ASTAT. -/
def State.setFlags (s : State) (e : Env) (f : Flags) : State :=
  s.updRegs e fun r => { r with astat := r.astat ||| f.bits }

/-- The trap that flags being set raise under the enables of ASTAT: POISON before DIVZ (R70). -/
def flagTrap (astat : BitVec 64) (f : Flags) : Option TrapCode :=
  if f.poison && astat.getLsbD 8 then some .poison
  else if (f.divz && astat.getLsbD 9) || (f.ovf && astat.getLsbD 10) then some .divz
  else none

/-! ### Memory of a group -/

/-- The stores of a lichen half are held (R250). -/
def Env.holds (e : Env) : Bool := e.g.pair.isSome

/-- A store of the group to a physical address, seen by the group (R168). -/
def State.store (s : State) (e : Env) (va pa : Nat) (bs : List Byte) (level : Scope) (atomic : Bool := false) : State :=
  if e.replaying then s
  else s.addStore e.gid e.g.team e.t.core none pa bs (if e.holds then .group else level) e.holds va atomic none
    (if e.holds && level ≠ .group then some level else none)

/-- A store of the group to its team's scratchpad. -/
def State.storeSp (s : State) (e : Env) (a : Nat) (bs : List Byte) (level : Scope) (atomic : Bool := false) : State :=
  if e.replaying then s
  else s.addStore e.gid e.g.team e.t.core (some e.g.team) a bs level e.holds a atomic

/-- A number that the group reads, after its own stores to the bytes (R168, R186). -/
def State.readOwn (s : State) (e : Env) (sp : Option Nat) (a n : Nat) : Nat × State :=
  let s1 := s.settleOwn e.gid sp a n
  (s1.num e.viewer sp a n, s1)

/-- 64-byte units of HBM that n bytes touch, in bytes (R65). -/
def unitBytes (a n : Nat) : Nat := if n = 0 then 0 else 64 * ((a + n - 1) / 64 + 1 - a / 64)

/-- Translation of an address of the group (R198). -/
def State.xlate (s : State) (e : Env) (va kind : Nat) : Xl × State :=
  if va / 2 ^ 56 ≠ 0 then (.access, s) else s.translate e.cid e.c e.t.core va kind

/-- The wait of a fault or a deferred walk, with its page request raised (R199, R202). -/
def State.parkRes (s : State) (w : PageWant) (host mal : Bool) : Res := .wait (.page [w]) (s.fault w host mal)

/-- The trap that a home's answer is, if it is one. -/
def repTrap : FabRep → Option TrapCode
  | .access | .element => some .access
  | .misalign => some .misalign
  | .xlfail => some .xlfail
  | .quota _ => some .quota
  | .race => some .race
  | .hint _ r => repTrap r
  | .data _ => none

/-- The place of a home's answer among the exceptions of a memory instruction (R346, R405). -/
def repRank : FabRep → Nat
  | .access => 0
  | .xlfail | .quota _ => 1
  | .misalign => 2
  | .element => 3
  | .race => 4
  | .hint _ r => repRank r
  | .data _ => 5

/-- The tier of a home's QUOTA answer (R45). -/
def repTier : FabRep → Nat
  | .quota n => n
  | .hint _ r => repTier r
  | _ => 0

/-- The bytes a home answered. -/
def repBytes : FabRep → List Byte
  | .data b => b
  | .hint _ r => repBytes r
  | _ => []

/-- The bytes of a 64 KiB page of another module that a lichen half holds, by their places in it, in issue order: its groups'
reads there carry them, so that they see their half's stores, and no other agent does (R250; log 37). -/
def State.ownBytes (s : State) (team va : Nat) : List (Nat × Byte) :=
  (((s.team? team).map (·.away)).getD []).flatMap fun o => match o.record, o.kind with
    | none, .write bs => (bs.zipIdx.filter fun p => (o.va.toNat + p.2) / 65536 = va / 65536).map fun p =>
      ((o.va.toNat + p.2) % 65536, p.1)
    | _, _ => []

/-- What a read by the group at another module carries (R250). -/
def Env.own (e : Env) (s : State) (va : Nat) : List (Nat × Byte) := if e.holds then s.ownBytes e.g.team va else []

/-- A write to another module, to a population or to a request record that a lichen half holds (R250, R385). -/
def State.holdAway (s : State) (e : Env) (node : Nat) (va : BitVec 64) (kind : FabKind) (record : Option Nat := none)
    (atomic : Bool := false) (fence : Option Scope := none) (acc : Option FabAcc := none) : State :=
  let o : AwayOp := { gid := e.gid, id := s.nextId, node, va, kind, record, atomic, fence, acc }
  { s with nextId := s.nextId + 1 }.modTeam e.g.team fun t => { t with away := t.away ++ [o] }

/-- Whether an earlier fabric operation of a group to a page is under way: none of it to that page is sent before (R206). -/
def State.pageBusy (s : State) (gid va : Nat) : Bool := s.fabOut.any fun o => o.gid = gid && o.req.va.toNat / 65536 = va / 65536

/-- An access of the group, not one of a lane, to a page that has moved to another module (R205): sent once to its home,
and then what the home answered. Its number is none that a lane has. -/
def Env.carry (e : Env) (s : State) (node va : Nat) (write rx : Bool) (kind : FabKind) (k : List Byte → State → Res) : Res :=
  let idx := 128 + 2 * va + write.toNat
  match e.sl.reps.find? fun r => r.1 = idx with
  | some (_, r) => match repTrap r with
    | some c => .trap c (BitVec.ofNat 64 va) e.lanes (s.upd e fun g => { g with tier := repTier r })
    | none => k (repBytes r) s
  | none =>
    if s.pageBusy e.gid va then .wait .fabric s
    else if !s.admits e.c.vf 1 then .wait (.budget 1) s
    else
      let acc := if rx then none else s.accOf e.gid
      let r : FabReq := { node := s.node, id := s.nextId, ctxid := e.cid, va := BitVec.ofNat 64 va, kind, hops := 0, acc }
      let o : FabOut := { id := s.nextId, gid := e.gid, slot := e.slot, idx, dest := node, req := r }
      let s1 := { s.charge e.c.vf 1 128 with nextId := s.nextId + 1, fabOut := s.fabOut ++ [o] }
      .wait .fabric (s1.sendTo node r)

/-- The race detector before an access of the group that is not one of a lane: a conflict traps where the context has it so, and
is logged otherwise (R22, R182). An access of an engine instruction is not checked. -/
def Env.raced (e : Env) (s : State) (rx write : Bool) (va pa n : Nat) (leaf : BitVec 64) (k : State → Res) : Res :=
  if rx || e.replaying then k s
  else if e.c.racet && leafWatch leaf && (s.raceOf (e.racer s) write va pa n).isSome then .trap .race (BitVec.ofNat 64 va) e.lanes s
  else k (s.watch (e.racer s) write true n va pa leaf)

/-- One aligned number of a group's device memory read through translation, as a load of the group: an address that is not
the group's to read traps ACCESS with `info` the address, and a page that moved is read at its new home (R22, R205). -/
def State.loadNum (s : State) (e : Env) (va n : Nat) (k : Nat → State → Res) (rx : Bool := false) : Res :=
  match s.xlate e va 0 with
  | (.ok pa leaf, s1) =>
    if !e.hbm then .wait (.budget 0) s1
    else e.raced s1 rx false va pa n leaf fun s1 =>
      let (v, s2) := (s1.charge e.c.vf 0 (unitBytes pa n)).readOwn e none pa n
      k v s2
  | (.access, s1) => .trap .access (BitVec.ofNat 64 va) e.lanes s1
  | (.park w h m, s1) => s1.parkRes w h m
  | (.remote node, s1) => e.carry s1 node va false rx (.read n (e.own s1 va)) fun bs s2 => k (leNat bs) s2
  | (.deferred, s1) => .wait (.budget 3) s1

/-- Bytes stored to a group's device memory through translation, as an access of a kind of R202, and performed
at a scope at once; to a page that moved, at its new home (R205). -/
def State.storeVaAt (s : State) (e : Env) (kind : Nat) (level : Scope) (va : Nat) (bs : List Byte) (rx : Bool)
    (k : State → Res) : Res :=
  match s.xlate e va kind with
  | (.ok pa leaf, s1) =>
    if !e.hbm then .wait (.budget 0) s1
    else e.raced s1 rx true va pa bs.length leaf fun s1 =>
      k ((s1.charge e.c.vf 0 (unitBytes pa bs.length)).store e va pa bs level)
  | (.access, s1) => .trap .access (BitVec.ofNat 64 va) e.lanes s1
  | (.park w h m, s1) => s1.parkRes w h m
  | (.remote node, s1) =>
    if e.holds then k (s1.holdAway e node (BitVec.ofNat 64 va) (.write bs) none false none (if rx then none else s1.accOf e.gid))
    else e.carry s1 node va true rx (.write bs) fun _ s2 => k s2
  | (.deferred, s1) => .wait (.budget 3) s1

/-- Bytes stored to a group's device memory through translation. -/
def State.storeVa (s : State) (e : Env) (va : Nat) (bs : List Byte) (k : State → Res) : Res :=
  s.storeVaAt e 1 .group va bs false k

/-! ### Signature and load-value log (R243 to R245) -/

/-- The CRC polynomial of the signature (R245). -/
def crcPoly : BitVec 64 := 0x42F0E1EBA9EA3693#64

/-- Eight shifts of the CRC. -/
def crcShift (sig : BitVec 64) : Nat → BitVec 64
  | 0 => sig
  | n + 1 => crcShift (if sig.getLsbD 63 then (sig <<< 1) ^^^ crcPoly else sig <<< 1) n

/-- One record byte fed (R245). -/
def crcFeed (sig : BitVec 64) (b : Byte) : BitVec 64 := crcShift (sig ^^^ (b.zeroExtend 64 <<< 56)) 8

/-- Bytes fed in order. -/
def crcFeeds (sig : BitVec 64) : List Byte → BitVec 64
  | [] => sig
  | b :: bs => crcFeeds (crcFeed sig b) bs

/-- An entry joins the log of a selected group, or it is skipped when it does not fit (R243). Bytes: `size`. -/
def State.loggedEntry (s : State) (e : Env) (size : Nat) (x : LogEntry) : State :=
  match s.group? e.gid with
  | none => s
  | some g => match g.audit with
    | .selected log n =>
      if 65536 < n + size then
        let v := s.vf e.c.vf
        (s.setVf e.c.vf { v with askip := v.askip + 1 }).setGroup e.gid { g with audit := .skipped }
      else s.setGroup e.gid { g with audit := .selected (log ++ [x]) (n + size) }
    | _ => s

/-- Values enter the log of a selected group (R243). -/
def State.logged (s : State) (e : Env) (size : Nat) (vals : List Nat) : State :=
  s.loggedEntry e size { slot := e.slot, vals }

/-- The next values of the log of a re-execution, and the state without them (R244). -/
def State.fromLog (s : State) (e : Env) : List Nat × State :=
  match s.group? e.gid with
  | none => ([], s)
  | some g => match g.audit with
    | .replay job (x :: log) st => (x.vals, s.setGroup e.gid { g with audit := .replay job log st })
    | _ => ([], s)

/-- A record fed into the group's signature: ADDR, CODE, DATA (R245). While both slots are live, the order of the
slots is kept: for the audit in the log, for a pair in the leading half (R243, R251). -/
def State.record (s : State) (e : Env) (addr : BitVec 64) (space sz : Nat) (data : List Byte) : State :=
  let s1 := s.upd e fun g => { g with sig := crcFeeds g.sig (leBytes 8 addr.toNat ++ [BitVec.ofNat 8 (space * 16 + sz)] ++ data) }
  if !e.otherLive then s1
  else match e.g.pair with
    | some (_, true) => s1.upd e fun g => { g with order := g.order ++ [e.slot] }
    | some (leader, false) => s1.modGroup leader fun g => { g with order := g.order.drop 1 }
    | none => if e.replaying then (s1.fromLog e).2 else s1.logged e 0 []

/-- One value taken from outside the registers: from the log in a re-execution, else `v`, which is logged. -/
def State.outside (s : State) (e : Env) (size : Nat) (v : Nat) : Nat × State :=
  if e.replaying then
    let (vals, s1) := s.fromLog e
    (vals.headD 0, s1)
  else (v, s.logged e size [v])

/-- A selected group is skipped from here on (R243). -/
def State.skipAudit (s : State) (e : Env) : State :=
  match s.group? e.gid with
  | none => s
  | some g => match g.audit with
    | .selected _ _ =>
      let v := s.vf e.c.vf
      (s.setVf e.c.vf { v with askip := v.askip + 1 }).setGroup e.gid { g with audit := .skipped }
    | _ => s

/-! ### Taking an exception (R257 to R262) -/

/-- The 512 bits of a trap record (R260). -/
def trapRecord (e : Env) (code : TrapCode) (info : BitVec 64) (flanes : LaneMask) : Nat :=
  packBits [(448, 64, (e.g.regs.s.getD 60 0).toNat), (384, 64, info.toNat), (288, 96, flanes.toNat),
    (192, 96, e.lanes.toNat), (128, 64, e.pc.toNat), (64, 8, e.len), (8, 1, e.slot.toNat), (0, 8, code.num)]

/-- Whether a trap can enter a handler (R257). -/
def TrapCode.entersHandler : TrapCode → Bool
  | .ue | .barto => false
  | _ => true

/-- The lowest free continuation slot of a context (R258). -/
def Ctx.freeCont (c : Ctx) : Option Nat :=
  -- among n + 1 slots some one is free when n are used
  ((List.range (c.contUsed.length + 1)).find? fun i => !c.contUsed.contains i).filter (· < c.contn)

/-- The address of a continuation slot (R258). -/
def Ctx.contAddr (c : Ctx) (i : Nat) : Nat := c.conta.toNat + 24576 * i

/-- An unhandled trap: in a step grid the group ends with its request faulted (R204, R45, R259); outside one
the context is terminated (R262). -/
def State.unhandled (s : State) (e : Env) (cause : Nat) (code : TrapCode) (info : BitVec 64)
    (flanes : LaneMask) : State :=
  if e.replaying then s.stopGroup e.gid .ended
  else if e.inStep then
    let fault := match code with
      | .xlfail => (0x01, bits info.toNat 39 16)
      | .quota => (0x05, ((s.group? e.gid).map (·.tier)).getD 0)
      | c => (0x06, c.num)
    s.endGroup e.gid .ended (some fault)
  else
    s.terminateCtx e.cid
      { cause, code := code.num, trapr := trapRecord e code info flanes / 2 ^ 192 % 2 ^ 256, trpc := e.pc
        tlenb := e.len, tslot := e.slot, core := e.t.core, grid := e.gr.id, team := e.t.no, group := e.g.no }

/-- The handler is entered: the record is at `a`, lk := a, the last-result file reads poison, the other slot
issues nothing, and the slot goes on at TVEC with its lanes (R259). -/
def State.enterHandler (s : State) (e : Env) (i a : Nat) : State :=
  let s1 := if e.replaying then s else s.modCtx e.cid fun c => { c with contUsed := c.contUsed ++ [i] }
  let s2 := s1.upd e fun g => { g with
    handler := some (e.slot, i, g.depth)
    regs := g.regs.setS 60 (BitVec.ofNat 64 a) }
  s2.updSlot e fun x => { x.clear with pc := e.c.tvec, l0 := .poison, l1 := .poison }

/-- A trap that is not taken yet leaves the errors that it reports where they were, for the instruction to report again
(R156, R258, R352). -/
def State.keepErrs (s : State) (e : Env) : State := s.upd e fun g => { g with engErr := e.g.engErr, matErr := e.g.matErr }

/-- Taking a trap (R259). A fault on the continuation slot parks the group, and the instruction then traps
again (R258). XLFAIL and QUOTA of a step grid are not delivered (R204). -/
def State.takeTrap (s : State) (e : Env) (code : TrapCode) (info : BitVec 64) (flanes : LaneMask) : State :=
  let inHandler := e.g.handler.isSome
  if e.inStep && (code = .xlfail || code = .quota) then s.unhandled e 1 code info flanes
  else if !code.entersHandler || e.c.tvec = 0 then s.unhandled e (if inHandler then 2 else 1) code info flanes
  else if inHandler then s.unhandled e 2 code info flanes
  else if e.replaying then
    let (vals, s1) := s.fromLog e
    s1.enterHandler e 0 (vals.headD 0)
  else match e.c.freeCont with
    | none => s.unhandled e 3 code info flanes
    | some i =>
      let a := e.c.contAddr i
      match s.xlate e a 1 with
      | (.ok pa _, s1) =>
        if !e.hbm then (s1.keepErrs e).updSlot e fun x => { x with wait := .budget 0 }
        else
        let s2 := (s1.charge e.c.vf 0 64).store e a pa (leBytes 64 (trapRecord e code info flanes)) .group
        (s2.loggedEntry e 8 { slot := e.slot, vals := [a], trap := some (e.pc, code.num, info, flanes) }).enterHandler e i a
      | (.park w h m, s1) => ((s1.fault w h m).keepErrs e).updSlot e fun x => { x with wait := .page [w] }
      | (.deferred, s1) => (s1.keepErrs e).updSlot e fun x => { x with wait := .budget 3 }
      | (.remote _, s1) =>
        -- a slot on a page that moved away faults, as a page without an entry does (R199, R258)
        let w : PageWant := { ctx := e.cid, page := a / 65536, va := a, kind := 1 }
        ((s1.fault w true false).keepErrs e).updSlot e fun x => { x with wait := .page [w] }
      | (_, s1) => s1.unhandled e 1 code info flanes

/-- The return from an exception (R261): the record is read from memory now, as a load of the group after its
earlier stores; PC and lk come from it, the slot is freed and the other PC slot resumes issue. -/
def State.returnTrap (s : State) (e : Env) (skip : Bool) : Res :=
  match e.g.handler with
  | none => e.trap .illop s
  | some (_, i, depth) =>
    if depth < e.g.depth then e.trap .illop s
    else
      let back (r : Nat) (s : State) : Res :=
        let target : BitVec 64 := BitVec.ofNat 64 (bits r 191 128 + (if skip then bits r 71 64 else 0))
        if 2 ^ 32 ≤ (target - e.gr.k.hdr).toNat then e.trap .illop s
        else
          let s1 := if e.replaying then s else s.modCtx e.cid fun c => { c with contUsed := c.contUsed.filter (· ≠ i) }
          let s2 := s1.upd e fun g => { g with handler := none, regs := g.regs.setS 60 (BitVec.ofNat 64 (bits r 511 448)) }
          .ok (s2.jump e target)
      if e.replaying then
        let (r, s1) := s.fromLog e
        back (r.headD 0) s1
      else
        s.loadNum e (e.g.regs.s.getD 60 0).toNat 64 fun r s1 => back r (s1.logged e 64 [r])

/-! ### The end of an issue -/

/-- A state with nothing kept of an attempt but the traces of its fault: page requests, translations and the
log of the request ring (R199: the instruction is replayed whole). -/
def State.undo (s sw : State) : State :=
  { s with pageReqs := sw.pageReqs, nextTag := sw.nextTag, mem := sw.mem, pend := sw.pend, vfs := sw.vfs
           nextId := sw.nextId, cores := sw.cores, tlb2 := sw.tlb2, fabOut := sw.fabOut, host := sw.host, portWait := sw.portWait
           egress := sw.egress }

/-- An instruction that, when it parks or traps, leaves the state as it was before it. -/
def Res.orUndo (s : State) : Res → Res
  | .wait w sw => .wait w (s.undo sw)
  | .trap code info lanes _ => .trap code info lanes s
  | .ok s' => .ok s'

/-- A result made a state: a trap is taken, a wait leaves the slot at its instruction (R31, R94). -/
def Res.settle (e : Env) : Res → State
  | .ok s => s
  | .trap code info lanes s => s.takeTrap e code info lanes
  | .wait w s => s.updSlot e fun x => { x with wait := w }

/-- A meaning run for the issuing slot. -/
def State.issue (s : State) (k : Env → State → Res) : Host.Outcome State Fault Refusal :=
  match s.env? with
  | none => .fault .noIssuer
  | some e => .next ((k e s).settle e)

/-- An instruction that only passes (R366). -/
def passOn (e : Env) (s : State) : Res := .ok (s.advance e)

/-! ### Schedule support -/

/-- A fresh value of the counter that free values are applied to (log 2). -/
def State.takeFree (s : State) : Nat × State := (s.free, { s with free := s.free + 1 })

end Sys2Proof.Machine
end

