-- ==== Sys2Proof/Machine/PopBlock.lean ====
section
/-! DEFINITION. Request-record fields and the population block (R43, R134, R225, R227, R228). -/

namespace Sys2Proof.Machine

/-! ### Record fields (R43) -/

def Req.n (r : Req) : Nat := r.bits.toNat
/-- A field replaced. -/
def Req.put (r : Req) (lo w v : Nat) : Req := { r with bits := BitVec.ofNat 2048 (setBits r.n lo w v) }

def recGen (b : Nat) : Nat := bits b 31 0
def recState (b : Nat) : Nat := bits b 50 48
def recAgate (b : Nat) : Bool := bit b 56
def recHstop (b : Nat) : Bool := bit b 57
def recHsusp (b : Nat) : Bool := bit b 58
def recClen (b : Nat) : Nat := bits b 95 64
def recTlen (b : Nat) : Nat := bits b 127 96
def recStepc (b : Nat) : Nat := bits b 159 128
def recFault (b : Nat) : Nat := bits b 191 160
def recPopb (b : Nat) : Nat := bits b 255 192
def recNpart (b : Nat) : Nat := bits b 271 256
def recNlive (b : Nat) : Nat := bits b 287 272
def recApp (b : Nat) : Nat := bits b 295 288
def recRpol (b : Nat) : Nat := bits b 303 296
def recDeadl (b : Nat) : Nat := bits b 351 320
def recDraw (b : Nat) : Nat := bits b 383 352
def recKvb (b : Nat) : Nat := bits b 447 384
def recKvpg (b : Nat) : Nat := bits b 479 448
def recKvmap (b : Nat) : Nat := bits b 511 480
def recStop (b i : Nat) : Nat := bits b (543 + 32 * i) (512 + 32 * i)
def recMaxlen (b : Nat) : Nat := bits b 671 640
def recPrio (b : Nat) : Nat := bits b 679 672
def recEvr (b : Nat) : Nat := bits b 703 688
def recAdmit (b : Nat) : Nat := bits b 767 704
def recKey (b : Nat) : Nat := bits b 895 768
def recEvc (b : Nat) : Nat := bits b 959 896
def recSlot (b : Nat) : Nat := bits b 1023 1008
def recNtokv (b : Nat) : Nat := bits b 1087 1056
def recDlen (b : Nat) : Nat := bits b 1119 1088
def recQtok (b : Nat) : Nat := bits b 1151 1120

/-- The context a record belongs to: that of its latest submission (R41). -/
def Req.ctx (r : Req) : Option Nat := r.stream.map fun s => s.2.2
/-- The H fields that decisions of the step use: the shadow copy (R47). -/
def Req.h (r : Req) : Nat := (r.shadow.getD r.bits).toNat

/-! ### The block (R225) -/

/-- The physical address of a byte of a block, whatever its page's PRIV; none where no valid entry maps it. -/
def State.blockAt (s : State) (cid va : Nat) : Option Nat :=
  match s.ctx? cid with
  | none => none
  | some c => match (s.walk c va).1 with
    | .leaf e level => some (leafFrame e * 65536 + va % (levelPages level * 65536))
    | _ => none

/-- Bytes of a particle's place in the block. -/
def popEntryVa (popb i : Nat) : Nat := popb + 64 + 32 * i

/-- The header's and an entry's physical addresses. -/
def State.popHeader (s : State) (r : Req) : Option Nat := (r.ctx).bind fun c => s.blockAt c (recPopb r.h)
def State.popEntry (s : State) (r : Req) (i : Nat) : Option Nat :=
  (r.ctx).bind fun c => s.blockAt c (popEntryVa (recPopb r.h) i)

/-- The virtual function of a record's latest submission. -/
def Req.vf (r : Req) : Nat := (r.stream.map (·.1)).getD 0

/-- Whether a VF's budgets admit an access to a population block: a walk, and a transfer of HBM (R65, R66). -/
def State.blockReady (s : State) (vf : Nat) : Bool := s.admits vf 0 && s.admits vf 3

/-- What an instruction waits for where they do not. -/
def State.blockWait (s : State) (vf : Nat) : Wait := .budget (if s.admits vf 3 then 0 else 3)

/-- The header's bits, and an entry's, with every store to them performed (R225). The walk and the transfer are charged to the
request's VF (R65, R198; log 53). -/
def State.blockNum (s : State) (vf pa n : Nat) : Nat × State :=
  let s1 := ((s.charge vf 3 1).charge vf 0 (unitBytes pa n)).settleBytes none pa n .pod
  (s1.num .pod none pa n, s1)

/-- A header or an entry written, charged to the request's VF (R65). -/
def State.blockWrite (s : State) (vf pa n x : Nat) : State := (s.charge vf 0 (unitBytes pa n)).modWriteNum pa n x

def hdrRst (h : Nat) : Nat := bits h 1 0
def hdrNarr (h : Nat) : Nat := bits h 63 32
def hdrRstep (h : Nat) : Nat := bits h 127 64
def hdrRounds (h : Nat) : Nat := bits h 159 128
def entSum (e : Nat) : Int := sextInt (bits e 127 0) 128
def entArr (e : Nat) : Nat := bits e 135 128
def entNinf (e : Nat) : Bool := bit e 136
def entParent (e : Nat) : Nat := bits e 207 192

/-- Crozier or the Sporangium meets an entry of a request's block that is not valid (R225). -/
def State.popFault (s : State) (rid : Nat) : State := s.setFault rid 0x04 192

/-- What a population instruction finds at its home: the entry's address and bits, a running resample, or no entry. -/
inductive PopAt
  | entry (hdr pa h e : Nat)
  | running
  | bad
  deriving DecidableEq, Repr

/-- The header and the entry of a particle, unless a resample runs (R225, R237). -/
def State.popAt (s : State) (rid i : Nat) : PopAt × State :=
  let r := s.req rid
  match s.popHeader r with
  | none => (.bad, s)
  | some hp =>
    let (h, s1) := s.blockNum r.vf hp 64
    if hdrRst h = 2 then (.running, s1)
    else match s1.popEntry r i with
      | none => (.bad, s1)
      | some ep =>
        let (x, s2) := s1.blockNum r.vf ep 32
        (.entry hp ep h x, s2)

/-- An entry after an increment (R227). -/
def addWeight (e : Nat) (x : Word) : Nat :=
  match weightStep x.toNat with
  | none => setBits e 136 1 1
  | some d => setBits e 0 128 (wrap (entSum e + d) 128)

/-- What PLWRD reads of an entry (R227). -/
def readWeight (e : Nat) : Nat := wrap (weightRead (entSum e) (entNinf e)) 64

/-- One increment performed at the home; false where it has to wait, none where no entry maps the particle. -/
def State.popAdd (s : State) (rid i : Nat) (x : Word) : Option Bool × State :=
  match s.popAt rid i with
  | (.entry _ pa _ e, s1) => (some true, s1.blockWrite (s.req rid).vf pa 32 (addWeight e x))
  | (.running, s1) => (some false, s1)
  | (.bad, s1) => (none, s1)

end Sys2Proof.Machine
end

