-- ==== Sys2Proof/Machine/Pages.lean ====
section
/-! DEFINITION. Frames: allocation, quotas, sharing and release, and the pages of KV ranges (R197, R200, R201, R208,
R211 to R213). -/

namespace Sys2Proof.Machine

/-! ### Frames (R197, R208) -/

/-- The next generation of a frame: 12 bits, 0 skipped. -/
def nextGen (g : Nat) : Nat := if (g + 1) % 4096 = 0 then 1 else (g + 1) % 4096

/-- Page requests note a frame no more: it has gone back, so a late reply does not give it back again (R203). -/
def State.forgetFrame (s : State) (f : Nat) : State :=
  { s with pageReqs := s.pageReqs.map fun r => if r.frame = some f then { r with frame := none } else r }

/-- A frame whose count reached 0 goes back to its VF's free list (R197). -/
def State.freeFrame (s : State) (vf f : Nat) : State :=
  let x := s.frame f
  let owner := x.owner.getD vf
  let v := s.vf owner
  ((s.setFrame f { x with count := 0, gen := nextGen x.gen, owner := some owner }).setVf owner
    { v with free := v.free ++ [(f, s.cycle)], hused := v.hused - 1 }).forgetFrame f

/-- The count of the frame of an entry: 1 where the entry is its only reference. -/
def State.countOf (s : State) (e : BitVec 64) : Nat := if leafRct e = 0 then 1 else (s.frame (leafFrame e)).count

/-- A valid entry gives up its frame (R197). -/
def State.releaseEntry (s : State) (vf : Nat) (e : BitVec 64) : State :=
  let f := leafFrame e
  let x := s.frame f
  if leafRct e = 0 then s.freeFrame vf f
  else if leafRct e ≠ x.gen then s.tell (.staleEntry f)
  else if x.count ≤ 1 then s.freeFrame vf f
  else s.setFrame f { x with count := x.count - 1 }

/-- The other VF whose free list holds the frame released first. -/
def State.oldestOther (s : State) (vf : Nat) : Option (Nat × Nat × Nat) :=
  (s.vfs.filterMap fun (n, v) => if n = vf then none else (v.free.head?).map fun p => (n, p.1, p.2)).foldl
    (fun acc p => match acc with
      | none => some p
      | some q => if p.2.2 < q.2.2 then some p else some q) none

/-- A free frame taken: the VF's own list, then the common list, then the oldest of the other VFs' lists (R208). -/
def State.takeFrame (s : State) (vf : Nat) : Option (Nat × State) :=
  let v := s.vf vf
  match v.free, s.common with
  | (f, _) :: rest, _ => some (f, s.setVf vf { v with free := rest })
  | [], (f, n) :: rest => some (f, { s with common := if n ≤ 1 then rest else (f + 1, n - 1) :: rest })
  | [], [] => match s.oldestOther vf with
    | none => none
    | some (w, f, _) =>
      let o := s.vf w
      some (f, s.setVf w { o with free := o.free.drop 1 })

/-- A frame filled with zeros; nothing written to it before is performed later (R208). -/
def State.zeroFrame (s : State) (f : Nat) : State :=
  { s with mem := s.mem.filter fun c => c.1 / 65536 ≠ f
           pend := s.pend.filter fun p => !(p.touches none (f * 65536) 65536) }

/-- A frame's bytes copied over a frame of zeros. -/
def State.copyFrame (s : State) (src dst : Nat) : State :=
  let s1 := s.performAt .pod fun p => !p.held && p.touches none (src * 65536) 65536
  let cells := (s1.mem.filter fun c => c.1 / 65536 = src).map fun c => (c.1 - src * 65536 + dst * 65536, c.2)
  { s1 with mem := (s1.mem.filter fun c => c.1 < dst * 65536) ++ cells ++ s1.mem.filter fun c => dst * 65536 + 65536 ≤ c.1 }

/-- What an allocation comes to (R208). -/
inductive Alloc
  | got (f : Nat)
  | reclaim
  | host
  | quota
  deriving DecidableEq, Repr

/-- VFs that hold more than their quota. -/
def State.borrowers (s : State) : List Nat := (s.vfs.filter fun p => p.2.hquota < p.2.hused).map (·.1)

/-- An allocation in the HBM tier (R208). -/
def State.allocate (s : State) (vf : Nat) : Alloc × State :=
  let v := s.vf vf
  if v.hquota + v.hborrow ≤ v.hused then (.quota, s)
  else match s.takeFrame vf with
    | some (f, s1) =>
      let w := s1.vf vf
      let x := s1.frame f
      (.got f, ((s1.setVf vf { w with hused := w.hused + 1 }).setFrame f { x with count := 1, owner := some vf }).zeroFrame f)
    | none =>
      if v.hused < v.hquota then
        (.reclaim, s.borrowers.foldl (fun s b => s.tell (.reclaim b 1)) s)
      else (.host, s)

/-! ### Frames of a larger page (R207, R208; log 120) -/

/-- The first aligned run of n frames in a list of runs, and the list without it. -/
def takeRunOf (n : Nat) : List (Nat × Nat) → Option (Nat × List (Nat × Nat))
  | [] => none
  | (f, k) :: rest =>
    let a := (f + n - 1) / n * n
    if a + n ≤ f + k then
      some (a, (if a = f then [] else [(f, a - f)]) ++ (if a + n = f + k then [] else [(a + n, f + k - (a + n))]) ++ rest)
    else (takeRunOf n rest).map fun x => (x.1, (f, k) :: x.2)

/-- The frames of a page of n frames allocated together, the first of them; none where the common list has no such run, or the
VF's quota is spent. -/
def State.allocateRun (s : State) (vf n : Nat) : Option (Nat × State) :=
  if n = 1 then match s.allocate vf with
    | (.got f, s1) => some (f, s1)
    | _ => none
  else
    let v := s.vf vf
    if v.hquota + v.hborrow < v.hused + n then none
    else (takeRunOf n s.common).map fun x =>
      (x.1, (List.range n).foldl (fun s i => (s.setFrame (x.1 + i) { s.frame (x.1 + i) with count := 1, owner := some vf }).zeroFrame
        (x.1 + i)) ({ s with common := x.2 }.setVf vf { v with hused := v.hused + n }))

/-! ### The pool tier (R208; log 106) -/

/-- The other VF whose list of pool frames holds the one released first. -/
def State.oldestPool (s : State) (vf : Nat) : Option (Nat × (Nat × Nat) × Nat) :=
  (s.vfs.filterMap fun (n, v) => if n = vf then none else (v.pfree.head?).map fun p => (n, p.1, p.2)).foldl
    (fun acc p => match acc with
      | none => some p
      | some q => if p.2.2 < q.2.2 then some p else some q) none

/-- A free pool frame taken, in the order of the HBM tier: its node, and its number there. -/
def State.takePool (s : State) (vf : Nat) : Option ((Nat × Nat) × State) :=
  let v := s.vf vf
  match v.pfree, s.poolCommon with
  | (f, _) :: rest, _ => some (f, s.setVf vf { v with pfree := rest })
  | [], f :: rest => some (f, { s with poolCommon := rest })
  | [], [] => match s.oldestPool vf with
    | none => none
    | some (w, f, _) =>
      let o := s.vf w
      some (f, s.setVf w { o with pfree := o.pfree.drop 1 })

/-- What an allocation in the pool tier comes to; the pool node fills the frame with zeros. -/
inductive PoolAlloc
  | got (f : Nat × Nat)
  | none (r : Alloc)
  deriving DecidableEq, Repr

/-- An allocation in the pool tier for a page of a context. -/
def State.allocatePool (s : State) (vf cid page : Nat) : PoolAlloc × State :=
  let v := s.vf vf
  if v.pquota + v.pborrow ≤ v.pused then (.none .quota, s)
  else match s.takePool vf with
    | some (f, s1) =>
      let w := s1.vf vf
      (.got f, { s1.setVf vf { w with pused := w.pused + 1 } with poolHeld := s1.poolHeld ++ [(f, cid, page)] })
    | none =>
      if v.pused < v.pquota then
        (.none .reclaim, (s.vfs.filter fun p => p.2.pquota < p.2.pused).foldl (fun s p => s.tell (.reclaim p.1 1)) s)
      else (.none .host, s)

/-- A pool frame goes back to its VF's list. -/
def State.freePool (s : State) (vf : Nat) (f : Nat × Nat) : State :=
  if s.poolHeld.any fun x => x.1 = f then
    let v := s.vf vf
    { s.setVf vf { v with pfree := v.pfree ++ [(f, s.cycle)], pused := v.pused - 1 } with
      poolHeld := s.poolHeld.filter fun x => x.1 ≠ f
      pageReqs := s.pageReqs.map fun r => if r.pool = some f then { r with pool := none } else r }
  else s

/-- The pool frame of a page of a context, given up where the page has one. -/
def State.leavePool (s : State) (vf cid page : Nat) : State :=
  match s.poolHeld.find? fun x => asidOf x.2.1 = asidOf cid && x.2.2 = page with
  | some x => s.freePool vf x.1
  | none => s

/-! ### Larger pages -/

/-- A valid entry of a level gives up every frame it maps (R197, R207). -/
def State.releaseLeaf (s : State) (vf : Nat) (e : BitVec 64) (level : Nat) : State :=
  (List.range (levelPages level)).foldl (fun s i =>
    s.releaseEntry vf (BitVec.ofNat 64 (setBits e.toNat 16 32 (leafFrame e + i)))) s

/-- The level of the entry that a walk ends at (R194, R198). -/
def State.entryLevel (s : State) (va table level : Nat) : Nat → Nat
  | 0 => level
  | fuel + 1 =>
    let a := table / tableBytes level * tableBytes level + 8 * levelIndex va level
    match readEntry (BitVec.ofNat 64 (s.num .module none a 8)) level with
    | .inl _ => level
    | .inr next => s.entryLevel va next (level + 1) fuel

/-- The level at which the walk of an address in a context's tables ends. -/
def State.walkLevel (s : State) (c : Ctx) (va : Nat) : Nat := s.entryLevel va c.ptroot.toNat 0 5

/-! ### KV ranges (R211 to R213) -/

/-- A page of particle p's KV range. -/
def kvVa (h p i : Nat) : Nat := recKvb h + (p * recKvpg h + i) * 65536

/-- The request whose KV ranges cover an address of a context, if one does. -/
def State.kvOwner (s : State) (cid va : Nat) : Option Nat :=
  (s.reqs.find? fun p => p.2.ctx = some cid && recState p.2.n ≠ 5 && recKvb p.2.h ≤ va
    && va < recKvb p.2.h + recNpart p.2.h * recKvpg p.2.h * 65536).map (·.1)

/-- KVMAP changed by a number of pages (R212). -/
def State.kvCount (s : State) (rid : Nat) (d : Int) : State :=
  let r := s.req rid
  s.setReq rid (r.put 480 32 ((recKvmap r.n : Int) + d).toNat)

/-- The grow placeholder that takes a released entry's place (R213). -/
def placeholder (e : BitVec 64) : Nat :=
  packBits [(13, 1, 1), (12, 1, (leafWatch e).toNat), (8, 4, leafGeom e), (5, 3, leafFmt e),
    (2, 1, (leafW e || leafCow e).toNat), (1, 1, 1)]

/-- One page of a KV range released (R213). A leaf of level 2 or 3 stays (R211). The module's walk is charged (R198). An entry that
forwards to another home stays as it is: R213 does not say what its release does (DESIGN CHOICE, log 131). -/
def State.releaseKv (s : State) (rid cid va : Nat) : State :=
  match s.ctx? cid with
  | none => s
  | some c =>
    let s := s.charge c.vf 3 1
    match s.walk c va with
    | (.leaf e 4, pa) =>
      let s1 := (s.tlbDrop (asidOf cid) (va / 65536) (va / 65536 + 1)).modWriteNum pa 8 (placeholder e)
      (s1.releaseEntry c.vf e).kvCount rid (-1)
    | (.leaf _ _, _) => s.tell (.kvLeaf rid (BitVec.ofNat 64 va))
    | _ => s

/-- Pages of a request's KV ranges with V = 1 (R212). -/
def State.kvMapped (s : State) (c : Ctx) (h : Nat) : Nat :=
  (List.range (recNpart h)).foldl (fun n p => (List.range (recKvpg h)).foldl (fun n i =>
    match (s.walk c (kvVa h p i)).1 with
    | .leaf _ 4 => n + 1
    | _ => n) n) 0

/-- KVMAP counted afresh, each walk charged (R198, R212). -/
def State.kvMap (s : State) (rid : Nat) (c : Ctx) : State :=
  let r := s.req rid
  (s.setReq rid (r.put 480 32 (s.kvMapped c r.h))).charge c.vf 3 (recNpart r.h * recKvpg r.h)

/-- Pages from index `first` on of every KV range of a request released, and KVMAP what V = 1 then counts, a leaf of
level 2 or 3 not among it (R211 to R213). -/
def State.releaseKvFrom (s : State) (rid cid first : Nat) : State :=
  let h := (s.req rid).h
  let s1 := (List.range (recNpart h)).foldl (fun s p =>
    (List.range (recKvpg h - first)).foldl (fun s i => s.releaseKv rid cid (kvVa h p (first + i))) s) s
  match s1.ctx? cid with
  | none => s1
  | some c => s1.kvMap rid c

/-- KVMAP of the request whose KV ranges cover a page, counted again after the host mapped a page there (R212). -/
def State.kvRecount (s : State) (cid page : Nat) : State :=
  match s.kvOwner cid (page * 65536), s.ctx? cid with
  | some rid, some c => s.kvMap rid c
  | _, _ => s

end Sys2Proof.Machine
end

