-- ==== Sys2Proof/Machine/Flow.lean ====
section
/-! DEFINITION. The divergence stack, reconvergence, freeing a slot, and writes of scalars, which may change a
slot's mask (R35, R71, R72, R74, R77 to R79). -/

namespace Sys2Proof.Machine

/-! ### The divergence stack (R78) -/

/-- An entry's 128 bits. -/
def stackEntry (hdr pc : BitVec 64) (w : Bool) (m : LaneMask) : Nat :=
  packBits [(98, 30, (pc - hdr).toNat / 4), (96, 1, w.toNat), (0, 96, m.toNat)]

/-- Capacity of a group's stack (R78, R112). -/
def Env.stackCap (e : Env) : Nat := e.gr.k.dsb / 16

/-- An entry read from the stack. In a re-execution the stack is a private area of the audit buffer (R244). -/
def State.readEntry (s : State) (e : Env) (i : Nat) (k : Nat → State → Res) : Res :=
  match s.group? e.gid with
  | none => .ok s
  | some g => match g.audit with
    | .replay _ _ st => k (st.getD i 0).toNat s
    | _ => s.loadNum e ((g.regs.dstkb.toNat + 16 * i) % 2 ^ 64) 16 k

/-- An entry written to the stack. -/
def State.writeEntry (s : State) (e : Env) (i x : Nat) (k : State → Res) : Res :=
  match s.group? e.gid with
  | none => .ok s
  | some g => match g.audit with
    | .replay job log st =>
      k (s.setGroup e.gid { g with audit := .replay job log (st.take i ++ [BitVec.ofNat 128 x]) })
    | _ => s.storeVa e ((g.regs.dstkb.toNat + 16 * i) % 2 ^ 64) (leBytes 16 x) k

/-- Whether the word at an address of the code window is a JOIN, where it can be fetched now (R79, R100; log 66). -/
def State.atJoin (s : State) (e : Env) (pc : BitVec 64) : Bool :=
  e.inWindow pc && (match (s.xlate e pc.toNat 3).1 with
    | .ok pa _ => s.num .module none pa 4 = 0x01C00000
    | _ => false)

/-- The address an entry's path goes on at. -/
def entryPc (hdr : BitVec 64) (x : Nat) : BitVec 64 := hdr + BitVec.ofNat 64 (bits x 127 98 * 4)

/-- A slot as a popped entry makes it, the last-result file reading poison (R74); `join` says that it waits at a JOIN. -/
def slotOfEntry (hdr : BitVec 64) (x : Nat) (join : Bool) : Slot :=
  { live := true, pc := entryPc hdr x, mask := BitVec.ofNat 96 x, join }

/-- The slot of a popped or swapped-in entry: it waits at its JOIN where W is set, or where its PC is a JOIN's address (R79). -/
def State.popped (s : State) (e : Env) (x : Nat) : Slot :=
  slotOfEntry e.gr.k.hdr x (bit x 96 || s.atJoin e (entryPc e.gr.k.hdr x))

/-- Whether a popped entry is malformed: bit 97 set, or a lane that is not stacked (R78). -/
def badEntry (g : Group) (x : Nat) : Bool := bit x 97 || (BitVec.ofNat 96 x &&& ~~~g.stacked) ≠ 0

/-- The top entry popped into a free slot (R35, R79). -/
def State.popInto (s : State) (e : Env) (g : Group) (i : Bool) (k : State → Res) : Res :=
  s.readEntry e (g.depth - 1) fun x s1 =>
    if badEntry g x then e.trap .illop s1
    else k (s1.upd e fun g => { g.setSlot i (s1.popped e x) with
      depth := g.depth - 1, stacked := g.stacked &&& ~~~(BitVec.ofNat 96 x) })

/-! ### Reconvergence (R79) -/

/-- A slot passes its JOIN. -/
def Slot.passJoin (x : Slot) : Slot := { x.clear with pc := x.pc + 4, join := false }

/-- The first case of R79 that holds is applied until none changes anything. -/
def State.joinRules (s : State) (e : Env) : Nat → Res
  | 0 => .ok s
  | fuel + 1 =>
    match s.group? e.gid with
    | none => .ok s
    | some g =>
      let w0 := g.slot0.live && g.slot0.join
      let w1 := g.slot1.live && g.slot1.join
      if w0 && w1 then
        if g.slot0.pc = g.slot1.pc then
          let merged : Slot := { g.slot0.passJoin with mask := g.slot0.mask ||| g.slot1.mask, l0 := .poison, l1 := .poison }
          let s1 := s.setGroup e.gid { g with slot0 := merged, slot1 := {} }
          if g.depth = 0 then .ok s1
          else s1.popInto e { g with slot0 := merged, slot1 := {} } true fun s2 => s2.joinRules e fuel
        else
          let hi : Bool := g.slot0.pc.toNat < g.slot1.pc.toNat    -- the slot at the higher address
          let pass (s : State) : Res := .ok (s.upd e fun g => g.modSlot (!hi) Slot.passJoin)
          if g.depth = 0 then pass s
          else s.readEntry e (g.depth - 1) fun x s1 =>
            if bit x 96 then pass s1
            else if badEntry g x then e.trap .illop s1
            else
              let up := g.slot hi
              s1.writeEntry e (g.depth - 1) (stackEntry e.gr.k.hdr up.pc true up.mask) fun s2 =>
                (s2.upd e fun g => { g.setSlot hi (s2.popped e x) with
                  stacked := (g.stacked &&& ~~~(BitVec.ofNat 96 x)) ||| up.mask }).joinRules e fuel
      else if w0 || w1 then
        let i : Bool := w1
        if (g.slot (!i)).live then .ok s
        else if g.depth = 0 then .ok (s.upd e fun g => g.modSlot i Slot.passJoin)
        else s.popInto e g (!i) fun s1 => s1.joinRules e fuel
      else .ok s

/-- Rounds of R79 that a group's stack can need: each entry is popped once, and swapped in once. -/
def joinFuel (g : Group) : Nat := 4 * g.depth + 4

/-- The executing slot has no lanes left: it is freed, an entry is popped into it, and a group with nothing
left to run retires (R35, R72). -/
def State.freeSlot (s : State) (e : Env) : Res :=
  match s.group? e.gid with
  | none => .ok s
  | some g =>
    let g1 := g.setSlot e.slot {}
    let s1 := s.setGroup e.gid g1
    if 0 < g.depth then s1.popInto e g1 e.slot fun s2 => s2.joinRules e (joinFuel g)
    else if (g.slot (!e.slot)).live then s1.joinRules e (joinFuel g)
    else .ok (s1.setGroup e.gid { g1 with life := .retiring, dormant := 0 })

/-! ### Scalar destinations (R68, R71, R72) -/

/-- The lanes that a write of em k leaves in the slot, and those that are dormant then (R72). -/
def emWrite (lanes dormant : LaneMask) (k : Nat) (x : BitVec 64) : LaneMask × LaneMask :=
  let cover : LaneMask := BitVec.ofNat 96 (0xFFFFFFFF * 2 ^ (32 * k))
  let want : LaneMask := BitVec.ofNat 96 (x.toNat % 2 ^ 32 * 2 ^ (32 * k))
  let leave := lanes &&& cover &&& ~~~want
  let enter := dormant &&& want
  ((lanes &&& ~~~leave) ||| enter, (dormant ||| leave) &&& ~~~enter)

/-- An instruction whose scalar destination is sD is done: sD := x and PC passes it. A write of em0 to em2
moves lanes, and frees the slot when none is left (R72). -/
def State.putS (s : State) (e : Env) (d : BitVec 6) (x : BitVec 64) : Res :=
  let s1 := s.advance e
  if d.toNat < 61 then .ok (s1.updRegs e fun r => r.setS d.toNat x)
  else match s.group? e.gid with
    | none => .ok s1
    | some g =>
      let (m, dm) := emWrite e.lanes g.dormant (d.toNat - 61) x
      let s2 := (s1.upd e fun g => { g with dormant := dm }).updSlot e fun sl => { sl with mask := m }
      if m = 0 then
        s2.freeSlot e |>.orUndo s
      else .ok s2

end Sys2Proof.Machine
end

