-- ==== Sys2Proof/Machine/Pair.lean ====
section
/-! DEFINITION. Suspicion scores; lichen pairs at their compare points; the instructions that skip an audit
(R243, R248, R250, R251). -/

namespace Sys2Proof.Machine

/-! ### Scores (R248) -/

/-- A core's score set, with what its height starts: lane diagnosis on reaching 32, quarantine on reaching 64. -/
def State.setScore (s : State) (core n : Nat) : State :=
  let c := s.core core
  let n := min 255 n
  let starts : Bool := c.score < 32 && 32 ≤ n && !c.diag
  let quarantines : Bool := c.score < 64 && 64 ≤ n && !c.quarantined
  let s1 := s.setCore core { c with
    score := n, diag := c.diag || starts, diagStart := if starts then s.cycle else c.diagStart
    quarantined := c.quarantined || quarantines, decayed := if c.score = 0 then s.cycle else c.decayed }
  if quarantines then s1.tell (.quarantined core) else s1

/-- Points added to a core's score (R247, R251, R252). -/
def State.addPoints (s : State) (core n : Nat) : State := s.setScore core ((s.core core).score + n)

/-! ### Compare points (R251) -/

/-- Bytes that a held write counts for. -/
def AwayOp.size (o : AwayOp) : Nat :=
  match o.kind with
  | .write bs => bs.length
  | .typedWrite vals _ => 4 * vals.length
  | _ => 8

/-- Held writes of a group that go elsewhere than to this module's memory. -/
def State.awayOf (s : State) (gid : Nat) : List AwayOp :=
  match s.group? gid with
  | none => []
  | some g => match s.team? g.team with
    | none => []
    | some t => t.away.filter fun o => o.gid = gid

/-- Bytes that a matrix operation has still to store: an MSTT's 6,144 but for its units done. -/
def MatOp.toStore (o : MatOp) : Nat :=
  match o.kind with
  | .mstt _ _ _ => 6144 - 16 * o.units
  | _ => 0

/-- Bytes of held stores of a group, with those that its MSTTs are still to make (R250). -/
def State.heldBytes (s : State) (gid : Nat) : Nat :=
  (((s.group? gid).map (·.mat)).getD []).foldl (fun n o => n + o.toStore) 0 +
  (s.pend.filter fun p => p.held && p.gid = gid).foldl (fun n p => n + p.bytes.length) 0
    + (s.awayOf gid).foldl (fun n o => n + o.size) 0

/-- A group's held writes that go elsewhere are forgotten, those of matrix operations in `keep` aside. -/
def State.dropAway (s : State) (gid : Nat) (keep : List Nat) : State :=
  match s.group? gid with
  | none => s
  | some g => s.modTeam g.team fun t => { t with away := t.away.filter fun o => o.gid ≠ gid || o.unit.any keep.contains }

/-- The matrix operations of a group that are not complete: the units they have stored stay held past a compare point (R352). -/
def State.running (s : State) (gid : Nat) : List Nat := ((s.group? gid).map fun g => g.mat.map (·.id)).getD []

/-- Bytes of a record replaced. -/
def Req.putBytes (r : Req) (off : Nat) (bs : List Byte) : Req := r.put (8 * off) (8 * bs.length) (leNat bs)

/-- The number of an operation whose answer no slot takes. -/
def noTaker : Nat := 2 ^ 64
/-- The number of an operation that a unit of the module sent for itself (R53, R282). -/
def modTaker : Nat := noTaker + 1

/-- A held write performed: bytes of a request record, an increment of a population here, or an operation sent to its home and
charged to fabric egress (R65, R224). No slot takes the answer (log 37). -/
def State.performAway (s : State) (cid vf : Nat) (slot : Bool) (o : AwayOp) : State :=
  match o.record, o.kind, decide (o.node = s.node) with
  | some off, .write bs, _ => s.setReq o.va.toNat ((s.req o.va.toNat).putBytes off bs)
  | _, .plwadd i x, true => (s.popAdd o.va.toNat i x).2
  | _, _, _ =>
    let req : FabReq := { node := s.node, id := s.nextId, ctxid := cid, va := o.va, kind := o.kind, hops := 0, acc := o.acc }
    let f : FabOut := { id := s.nextId, gid := o.gid, slot, fence := o.fence.isSome, idx := noTaker, dest := o.node, req }
    ({ s.charge vf 1 128 with nextId := s.nextId + 1, fabOut := s.fabOut ++ [f] }).sendTo o.node req

/-- What a held write waits for, if for anything: an increment for a running resample and for the budgets of its block (R66,
R237), one for another module for an earlier operation of the group to its page and for the budget of fabric egress (R66, R206). -/
def State.awayWait (s : State) (vf : Nat) (o : AwayOp) : Option Wait :=
  match o.record, o.kind, decide (o.node = s.node) with
  | some _, _, _ => none
  | none, .plwadd i _, true =>
    if !s.blockReady (s.req o.va.toNat).vf then some (s.blockWait (s.req o.va.toNat).vf)
    else if (s.popAt o.va.toNat i).1 = .running then some .resample else none
  | none, _, _ =>
    if s.pageBusy o.gid o.va.toNat then some .fabric else if !s.admits vf 1 then some (.budget 1) else none

/-- A write that a lichen half holds: a store to this module's memory or its team's scratchpad, or one that goes elsewhere. -/
inductive HeldOp
  | here (p : PStore)
  | away (o : AwayOp)

/-- Its number, in issue order. -/
def HeldOp.id : HeldOp → Nat
  | .here p => p.id
  | .away o => o.id

/-- Held writes of a group, in issue order, without those of matrix operations in `keep` (R352). -/
def State.heldOps (s : State) (gid : Nat) (keep : List Nat) : List HeldOp :=
  sortBy HeldOp.id
    (((s.pend.filter fun p => p.held && p.gid = gid && !p.unit.any keep.contains).map HeldOp.here)
      ++ ((s.awayOf gid).filter fun o => !o.unit.any keep.contains).map HeldOp.away)

/-- Released stores of a group that an order wants performed at a scope before what follows are performed there (R175, R176). -/
def State.keepFences (s : State) (gid : Nat) : State :=
  [Scope.team, .die, .device, .pod].foldl (fun s x => s.performAt x fun p => !p.held && p.gid = gid && p.fence = some x) s

/-- Whether a released write that an order wants performed before what follows awaits its home's answer. -/
def State.fenceOut (s : State) (gid : Nat) : Bool := s.fabOut.any fun o => o.gid = gid && o.fence

/-- Held writes of a group released in issue order, as far as none has to wait, and what is waited for (R251). The orders that
fences and ordered accesses asked for are kept (R175, R176; log 128). -/
def State.releaseOps (s : State) (cid vf : Nat) (slot : Bool) (gid : Nat) : List HeldOp → State × Option Wait
  | [] =>
    let s1 := s.keepFences gid
    (s1, if s1.fenceOut gid then some .fabric else none)
  | o :: rest =>
    let s1 := s.keepFences gid
    if s1.fenceOut gid then (s1, some .fabric)
    else match o with
      | .here p =>
        ({ s1 with pend := s1.pend.map fun (q : PStore) => if q.id = p.id then { q with held := false } else q }.drain).releaseOps cid vf slot gid rest
      | .away o => match s1.awayWait vf o with
        | some w => (s1, some w)
        | none =>
          let s2 := s1.modTeam (((s1.group? gid).map (·.team)).getD 0) fun t => { t with away := t.away.filter fun x => x.id ≠ o.id }
          (s2.performAway cid vf slot o).releaseOps cid vf slot gid rest

/-- The halves agree: the leading half's held writes are released in issue order, and what is waited for meanwhile; then the
trailing half's are dropped, but those to its own scratchpad, which no other agent sees (R251). Units of an MSTT that is not
complete wait for a later compare point (R352). -/
def State.releaseHeld (s : State) (e : Env) (leader trailer : Nat) : State × Option Wait :=
  match s.releaseOps e.cid e.c.vf e.slot leader (s.heldOps leader (s.running leader)) with
  | (s1, some w) => (s1, some w)
  | (s1, none) =>
    let busy := s1.running trailer
    let own (p : PStore) : Bool := p.held && p.gid = trailer && !p.unit.any busy.contains
    let pend := (s1.pend.filter fun p => !(own p && p.sp.isNone)).map fun (p : PStore) => if own p then { p with held := false } else p
    (({ s1 with pend }.drain).dropAway trailer busy, none)

/-- The halves differ: held stores are discarded, both teams end, and each core gains 8 points. -/
def State.mismatch (s : State) (e : Env) (twin : Nat) (leads : Bool) : State :=
  let tw := (s.group? twin).map (·.team)
  let twinCore := ((tw.bind s.team?).map (·.core)).getD e.t.core
  let leadCore := if leads then e.t.core else twinCore
  let s1 := { s with pend := s.pend.filter fun p => !(p.held && (p.gid = e.gid || p.gid = twin)) }
  let s2 := (((s1.dropAway e.gid []).dropAway twin []).addPoints e.t.core 8).addPoints twinCore 8
  if e.inStep then
    let s3 := s2.setFault (e.place s2).2.1.toNat 0x03 leadCore
    let gids := e.t.groups ++ ((tw.bind s3.team?).map (·.groups)).getD []
    gids.foldl (fun s gid => s.endGroup gid .ended none) s3
  else
    s2.terminateCtx e.cid
      { cause := 5, core := leadCore, grid := e.gr.id, team := e.t.no, group := e.g.no }

/-- A compare point: the group waits for its twin, and then both go on, or both end. What the leading half holds is released
before they go on, and a write of it that has to wait is waited for (R251). -/
def Env.compare (e : Env) (s : State) (k : State → Res) : Res :=
  match e.g.pair with
  | none => k s
  | some (twin, leads) =>
    if e.sl.passed then k s
    else match s.group? twin with
      | none => .wait .twin s
      | some t =>
        let x := t.slot e.slot
        if x.wait ≠ .twin || x.passed then .wait .twin s
        else if t.sig ≠ e.g.sig then .ok (s.mismatch e twin leads)
        else match (if leads then s.releaseHeld e e.gid twin else s.releaseHeld e twin e.gid) with
        | (s1, some w) => .wait (if leads then w else .twin) s1
        | (s1, none) =>
          let s2 := s1.modGroup twin fun g => g.modSlot e.slot fun x => { x with wait := .ready, passed := true }
          k (s2.updSlot e fun x => { x with passed := true })

/-- The twin's view, at the instruction its slot waits at. -/
def Env.twinEnv (e : Env) (s : State) (twin : Nat) : Option Env :=
  match s.group? twin with
  | none => none
  | some t => s.envOf { gid := twin, slot := e.slot, pc := (t.slot e.slot).pc, len := e.len, pfx := e.pfx, next := e.next }

/-- An instruction that R243 names as causing a skip. Of a pair, the leading half performs it once, and the
trailing half receives the same result: `mirror` says what that half does with it (R251). -/
def Env.skipList (e : Env) (s : State) (mirror : Env → State → State) (run : Env → State → Res) : Res :=
  e.compare s fun s1 =>
    match e.g.pair with
    | none => match run e s1 with
      | .ok s2 => .ok (s2.skipAudit e)
      | r => r
    | some (_, false) => .wait .twin s1
    | some (twin, true) =>
      match run e s1 with
      | .wait w s2 => .wait w s2
      | .ok s2 => match e.twinEnv s2 twin with
        | some t => .ok (mirror t s2)
        | none => .ok s2
      | .trap code info lanes s2 => match e.twinEnv s2 twin with
        | some t => .trap code info lanes (s2.takeTrap t code info t.lanes)
        | none => .trap code info lanes s2

/-- The trailing half's part of an instruction whose result is sD: the leading half's value. -/
def mirrorS (d : BitVec 6) (leader : Nat) (t : Env) (s : State) : State :=
  match s.group? leader with
  | none => s
  | some g =>
    let k := d.toNat - 61
    let em := bits (g.slot t.slot).mask.toNat (32 * k + 31) (32 * k)
    (s.putS t d (if d.toNat < 61 then g.regs.s.getD d.toNat 0 else BitVec.ofNat 64 em)).settle t

/-- The trailing half's part of an instruction that writes no register. -/
def mirrorNone (t : Env) (s : State) : State := s.advance t

end Sys2Proof.Machine
end

