-- ==== Sys2Proof/Machine/Control.lean ====
section
/-! DEFINITION. Branches, EXIT, JOIN, traps, the return from a trap, NOP and MPX (R35, R79, R85, R93 to R95,
R261, R304, R306, R327, R366, R386, R409). -/

namespace Sys2Proof.Machine

/-- NOP (R366). -/
def execNop (s : State) : Host.Outcome State Fault Refusal := s.issue passOn

/-- A transfer of control: the target must be in the code window (R85, R100). -/
def Env.branch (e : Env) (s : State) (target : BitVec 64) : Res :=
  if e.inWindow target then .ok (s.jump e target) else e.trap .illop s

/-- BR (R306). -/
def execBr (off : BitVec 22) (s : State) : Host.Outcome State Fault Refusal :=
  s.issue fun e s => e.branch s (e.pc + off.signExtend 64 * 4)

/-- The conditions of BRC (R306). -/
def brcTaken (cc : BitVec 2) (c : BitVec 64) : Bool :=
  match cc.toNat with
  | 0 => c = 0
  | 1 => c ≠ 0
  | 2 => c.toInt < 0
  | _ => 0 ≤ c.toInt

/-- BRC (R306). -/
def execBrc (sr : BitVec 6) (cc : BitVec 2) (off : BitVec 14) (s : State) : Host.Outcome State Fault Refusal :=
  s.issue fun e s =>
    if brcTaken cc (e.s sr) then e.branch s (e.pc + off.signExtend 64 * 4) else passOn e s

/-- CALL: lk := PC + 4 (R306). -/
def execCall (off : BitVec 22) (s : State) : Host.Outcome State Fault Refusal :=
  s.issue fun e s =>
    let target := e.pc + off.signExtend 64 * 4
    if e.inWindow target then .ok ((s.updRegs e fun r => r.setS 60 (e.pc + 4)).jump e target) else e.trap .illop s

/-- A branch to an address in a register: its alignment is tested first; INFO is the address (R306, R386, log 19). -/
def Env.branchTo (e : Env) (s : State) (target : BitVec 64) : Res :=
  if target.toNat % 4 ≠ 0 then .trap .misalign target e.lanes s else e.branch s target

/-- RET (R386). -/
def execRet (s : State) : Host.Outcome State Fault Refusal := s.issue fun e s => e.branchTo s (e.s 60)

/-- BRX (R306). -/
def execBrx (a : BitVec 6) (s : State) : Host.Outcome State Fault Refusal := s.issue fun e s => e.branchTo s (e.s a)

/-! ### Errors that engine and matrix operations left (R156, R327, R352) -/

/-- The first engine error: class order, then issue order. -/
def Group.firstEngErr (g : Group) : Option (Nat × Nat × BitVec 64) :=
  ((List.range 4).filterMap fun c => g.engErr.find? fun r => r.1 = c).head?

/-- An engine error of the group traps, and is then consumed. -/
def Env.engTrap (e : Env) (s : State) (r : Nat × Nat × BitVec 64) : Res :=
  .trap (.ofErr r.2.1) r.2.2 e.lanes (s.upd e fun g => { g with engErr := g.engErr.erase r })

/-- A matrix error of the group traps, and is then consumed. -/
def Env.matTrap (e : Env) (s : State) (r : MatErr) : Res :=
  .trap (.ofErr r.code) r.addr e.lanes (s.upd e fun g => { g with matErr := g.matErr.erase r })

/-- Engine operations, then matrix operations, are waited for; their errors trap, one a time, and are then
consumed. A re-execution waits for nothing (R244). -/
def Env.drainUnits (e : Env) (s : State) (k : State → Res) : Res :=
  if e.replaying then k s
  else if e.g.eng.any (!·.isEmpty) then .wait .engine s
  else if e.g.mat ≠ [] then .wait .matrix s
  else match e.g.firstEngErr, e.g.matErr with
    | some r, _ => e.engTrap s r
    | none, r :: _ => e.matTrap s r
    | none, [] => k s

/-- EXIT: the slot's lanes retire and the slot is freed (R35, R327). A lichen half's units are over before it is compared, so that
what its MSTTs stored is released too (R251). -/
def execExit (s : State) : Host.Outcome State Fault Refusal :=
  s.issue fun e s =>
    if e.otherLive || e.g.depth ≠ 0 then (s.freeSlot e).orUndo s
    else e.drainUnits s fun s1 => e.compare s1 fun s2 => (s2.freeSlot e).orUndo s2

/-- JOIN: the slot waits at its address, and R79's cases are applied (R341). -/
def execJoin (s : State) : Host.Outcome State Fault Refusal :=
  s.issue fun e s =>
    ((s.updSlot e fun x => { x.clear with pc := e.pc, join := true }).joinRules e (joinFuel e.g)).orUndo s

/-- TRAP: TRAPI with INFO n (R261, R409). -/
def execTrap (n : BitVec 10) (s : State) : Host.Outcome State Fault Refusal :=
  s.issue fun e s => .trap .trapi (n.setWidth 64) e.lanes s

/-- BKPT: BKPTI with INFO n (R261, R304). -/
def execBkpt (n : BitVec 10) (s : State) : Host.Outcome State Fault Refusal :=
  s.issue fun e s => .trap .bkpti (n.setWidth 64) e.lanes s

/-- ERET (R261, R325). -/
def execEret (s : State) : Host.Outcome State Fault Refusal := s.issue fun e s => s.returnTrap e false

/-- ERET.skip (R261, R325). -/
def execEretSkip (s : State) : Host.Outcome State Fault Refusal := s.issue fun e s => s.returnTrap e true

/-! ### The memory prefix (R93 to R95, R137) -/

/-- What a memory instruction does, for the pairing rules. -/
inductive MemKind
  | load
  | store
  | atomic
  | engine
  deriving DecidableEq, Repr

/-- The kind of an instruction that takes a prefix, and the widest scope of its space (R93, R137). GSET and PFG
count as loads (log 30). -/
def Instr.memKind : Instr → Option (MemKind × Scope)
  | .sldu _ _ _ | .slduLit _ _ _ => some (.load, .pod)
  | .sstu _ _ _ | .sstuLit _ _ _ => some (.store, .pod)
  | .lds _ => some (.load, .team)
  | .sts _ => some (.store, .team)
  | .ats _ => some (.atomic, .team)
  | .ldg _ | .ldf _ | .ldk _ | .pfg _ | .gset _ => some (.load, .pod)
  | .stg _ | .stf _ => some (.store, .pod)
  | .atg _ | .atf _ => some (.atomic, .pod)
  | .reqld _ => some (.load, .device)
  | .reqst _ => some (.store, .device)
  | .cpy _ | .gath _ | .scat _ | .coll _ | .cpyf _ => some (.engine, .pod)
  | _ => none

/-- Whether an order acquires, or releases: acquire-release does both (R93, R346). -/
def acquires (o : Sys2Proof.Ord) : Bool := o = .acq || o = .ar
def releases (o : Sys2Proof.Ord) : Bool := o = .rel || o = .ar

/-- Whether an explicit prefix may stand before an instruction (R93, R137). -/
def pairOk (p : Prefix) (i : Instr) : Bool :=
  match Instr.memKind i with
  | none => false
  | some (k, widest) =>
    widest.covers p.scope && (match k with
      | .load => !releases p.ord
      | .store => !acquires p.ord
      | .atomic => true
      | .engine => p.ord = .rlx && !p.rx)

/-- MDEF's fields fitted to an instruction (R95). -/
def fitPrefix (m : BitVec 64) (k : MemKind) (widest : Scope) : Prefix :=
  match prefixOf (bits m.toNat 21 12) with
  | none => { ord := .rlx, scope := .group, cache := 0, nt := false, rx := false }
  | some p =>
    let ord : Sys2Proof.Ord := match k with
      | .load => if acquires p.ord then .acq else .rlx
      | .store => if releases p.ord then .rel else .rlx
      | .atomic => p.ord
      | .engine => .rlx
    { p with ord, scope := if widest.covers p.scope then p.scope else widest, rx := p.rx && k ≠ .engine }

/-- The prefix in force: the explicit one, else MDEF's (R93, R95). -/
def Env.pfxOf (e : Env) (k : MemKind) (widest : Scope) : Prefix :=
  match e.pfx with
  | some p => p
  | none => fitPrefix e.g.regs.mdef k widest

/-- MPX: a legal pairing stages its fields for the instruction it prefixes, with which it forms one unit; any
other traps ILLOP at the MPX (R93, R94). -/
def execMpx (p : Prefix) (s : State) : Host.Outcome State Fault Refusal :=
  match s.env? with
  | none => .fault .noIssuer
  | some e =>
    match e.next with
    | some i =>
      if pairOk p i then .next { s with cur := s.cur.map fun u => { u with pfx := some p } }
      else .next ((e.trap .illop s).settle e)
    | none => .next ((e.trap .illop s).settle e)

end Sys2Proof.Machine
end

