-- ==== Sys2Proof/Machine/Operands.lean ====
section
/-! DEFINITION. Operand forms: which lanes an instruction acts on, how its sources read, and what its
destinations do (R68, R69, R73 to R76, R88 to R91, R290, R323, R344, R351). -/

namespace Sys2Proof.Machine

/-! ### Lanes -/

/-- lanes(slot) under a predicate, inverted when PN is set (R69). -/
def Env.under (e : Env) (pn : Bool) (pi : BitVec 3) : LaneMask :=
  let p := e.g.regs.pred pi.toNat
  e.lanes &&& (if pn then ~~~p else p)

/-- active(slot) (R69). -/
def Env.active (e : Env) (x : XArgs) : LaneMask := e.under x.pn x.pi

/-! ### Values -/

/-- A source's value: one a lane (with the high halves of a pair), or one for all. -/
inductive Val
  | lanes (lo hi : Lanes)
  | uni (v : BitVec 64)
  deriving DecidableEq, Repr

/-- Bits [31:0] of a lane. -/
def Val.at (v : Val) (l : Nat) : Nat :=
  match v with
  | .lanes lo _ => (lane lo l).toNat
  | .uni x => x.toNat % 2 ^ 32

/-- All 64 bits of a lane. -/
def Val.at64 (v : Val) (l : Nat) : Nat :=
  match v with
  | .lanes lo hi => (lane lo l).toNat + 2 ^ 32 * (lane hi l).toNat
  | .uni x => x.toNat

/-- The value of an immediate (R89), as 64 bits: a sign-extended integer, a b64 literal, or float bits. -/
def immOf (x : XArgs) (k : ImmKind) (t : Ty) : BitVec 64 :=
  match x.lit, k with
  | none, _ => x.xf.signExtend 64
  | some l, .int => (l.setWidth 32).signExtend 64
  | some l, .wide => l
  | some l, .float => BitVec.ofNat 64 (floatImm t l.toNat)

/-- sext(XF, 24) (R92). -/
def dispOf (x : XArgs) : BitVec 64 := x.xf.signExtend 64

/-- The register that l0 or l1 names (R73). -/
def Env.lastRef (e : Env) (second : Bool) : LastRef := if second then e.sl.l1 else e.sl.l0

/-- The first register a vector source names; none for l0 and l1 that name none (R73, R74). -/
def Env.srcReg (e : Env) : Src → Option Nat
  | .vec n _ _ => some n.toNat
  | .last i => match e.lastRef i with
    | .reg n => some n
    | _ => none
  | _ => none

/-- A vector register of a source, `j` registers on: as l0 and l1 read when they name none (R74). -/
def Env.srcVec (e : Env) (a : Src) (j : Nat) : Lanes :=
  match e.srcReg a with
  | some n => e.g.regs.vec (n + j)
  | none => match a with
    | .last i => if e.lastRef i = .zero then List.replicate 96 0 else List.replicate 96 poison
    | _ => List.replicate 96 0

/-- A source's value; `k` and `t` say what an immediate is (R88, R89). -/
def Env.val (e : Env) (x : XArgs) (k : ImmKind) (t : Ty) (a : Src) : Val :=
  match a with
  | .vec _ _ _ | .last _ => .lanes (e.srcVec a 0) (e.srcVec a 1)
  | .scal n => .uni (e.s n)
  | .imm => .uni (immOf x k t)
  | .pred _ | .tile _ | .greg _ => .uni 0

/-! ### Readiness (R28, R76, R91, R344) -/

/-- Registers and tiles an instruction names: sources with the number of consecutive registers each reads,
and how many a vector destination has. -/
structure Use where
  srcs : List (Src × Nat) := []
  dst : Option Dst := none
  n : Nat := 1

/-- Vector registers a source reads. -/
def Env.srcRegs (e : Env) (u : Src × Nat) : List Nat :=
  match e.srcReg u.1 with
  | some r => (List.range u.2).map (r + ·)
  | none => []

/-- Vector registers the destination has. -/
def Use.dstRegs (u : Use) : List Nat :=
  match u.dst with
  | some (.vec d) => (List.range u.n).map (d.toNat + ·)
  | _ => []

/-- Every vector register read or written. -/
def Env.useRegs (e : Env) (u : Use) : List Nat := (u.srcs.map e.srcRegs).flatten ++ u.dstRegs

/-- Tiles an instruction names. -/
def Use.tiles (u : Use) : List Nat :=
  (u.srcs.filterMap fun a => match a.1 with
    | .tile n => some n.toNat
    | _ => none) ++ (match u.dst with
    | some (.tile n) => [n.toNat]
    | _ => [])

/-- What the first register of a run of n must be a multiple of: n, or 4 for the 12 of a B fragment (R91, R92, R160). -/
def runAlign (n : Nat) : Nat := if n = 12 then 4 else n

/-- Every register and tile named exists, and a pair that l0 or l1 names starts even (R28, R73, R91). -/
def Env.exists? (e : Env) (u : Use) : Bool :=
  (e.useRegs u).all (· < e.g.bound)
    && u.tiles.all (· < e.g.tileCount e.gr.k)
    && u.srcs.all fun a => match a.1, e.srcReg a.1 with
      | .last _, some r => r % runAlign a.2 == 0
      | _, _ => true

/-- Registers that data is still to come to: of outstanding loads, of a load of the other slot, and of MSMX
in flight (R344, R218). -/
def Env.awaited (e : Env) : List Nat :=
  (e.g.loads.map fun l => (List.range l.vals.length).map (l.reg + ·)).flatten ++ (e.g.slot (!e.slot)).dest
    ++ (e.g.mat.filterMap fun o => match o.kind with
      | .msmx _ d _ => if o.fin then none else some [d, d + 1, d + 2]
      | _ => none).flatten

/-- A source reads a dead register (R76). -/
def Env.deadSrc (e : Env) (u : Src × Nat) : Bool :=
  match e.srcReg u.1 with
  | some r => (List.range u.2).any fun j => e.g.regs.vdead.getLsbD (r + j)
  | none => match u.1 with
    | .last i => e.lastRef i = .poison
    | .tile n => e.g.regs.tdead.getLsbD n.toNat
    | _ => false

/-- Z marks: the registers that are dead after this read (R75, R76). -/
def Use.marks (u : Use) : List Nat :=
  (u.srcs.filterMap fun a => match a.1 with
    | .vec n _ z => if z then some ((List.range a.2).map (n.toNat + ·)) else none
    | _ => none).flatten

/-- The checks before an instruction reads its registers: ILLOP for what does not exist, a wait for what is
still to come; then the flag of dead sources. -/
def Env.using (e : Env) (s : State) (u : Use) (k : Flags → Res) : Res :=
  if !e.exists? u then e.trap .illop s
  else if (e.useRegs u).any e.awaited.contains then .wait .loads s
  else k { poison := u.srcs.any e.deadSrc }

/-! ### Destinations -/

/-- What an instruction writes. -/
inductive Out
  | vec (rs : List Lanes)      -- consecutive registers, in the lanes of the mask
  | scal (v : BitVec 64)
  | pred (m : LaneMask)
  | none

/-- Flags set, and the trap that an enabled one raises: POISON over lanes(slot), DIVZ over the lanes given (R70, R260). -/
def Env.flagged (e : Env) (s : State) (fl : Flags) (lanes : LaneMask) (k : State → Res) : Res :=
  let s1 := s.setFlags e fl
  match flagTrap e.g.regs.astat fl with
  | some .poison => .trap .poison 0 e.lanes s1
  | some c => .trap c 0 lanes s1
  | Option.none => k s1

/-- Consecutive registers written in the lanes of a mask. -/
def Regs.setVecs (r : Regs) (d : Nat) (m : LaneMask) : List Lanes → Regs
  | [] => r
  | v :: vs => (r.setVec d m v).setVecs (d + 1) m vs

/-- A vector destination written: registers, last-result file and PC. -/
def State.putVec (s : State) (e : Env) (d : Nat) (m : LaneMask) (rs : List Lanes) : State :=
  ((s.advance e).updRegs e fun r => r.setVecs d m rs).updSlot e fun x => x.wrote d rs.length

/-- An instruction's result delivered: Z marks first, then the destination (R68, R73, R76, R90). -/
def Env.deliver (e : Env) (s : State) (dst : Dst) (marks : List Nat) (m : LaneMask) (o : Out) : Res :=
  let s1 := s.updRegs e fun r => r.kill marks
  match dst, o with
  | .vec d, .vec rs => .ok (s1.putVec e d.toNat m rs)
  | .scal d, .scal v => (s1.putS e d v).orUndo s
  | .pred d, .pred v => .ok ((s1.advance e).updRegs e fun r => r.setPred d.toNat m v)
  | _, _ => .ok (s1.advance e)

/-- Flags, then the result. `lanes` are those that met a DIVZ condition. -/
def Env.finish (e : Env) (s : State) (x : XArgs) (u : Use) (fl : Flags) (lanes : LaneMask) (o : Out) : Res :=
  e.flagged s fl lanes fun s1 => e.deliver s1 x.dst u.marks (e.active x) o

/-! ### The element-wise mould -/

/-- What one lane computes: a result of 32 or 64 bits, and flags. -/
structure Lane where
  val : Nat
  fl : Flags := {}

/-- The union of lanes' flags. -/
def laneFlags (ls : List Lane) : Flags := ls.foldl (fun a r => a.or r.fl) {}

/-- The lanes whose flags include DIVZ or OVF under its enable (R129). -/
def divLanes (astat : BitVec 64) (ls : List Lane) : LaneMask :=
  mkMask fun l => match ls[l]? with
    | some r => (r.fl.divz && astat.getLsbD 9) || (r.fl.ovf && astat.getLsbD 10)
    | none => false

/-- An instruction that computes every active lane alone, or once for a scalar destination (R68, R323). `f`
takes the three sources of a lane as 64-bit numbers; `wide` says that results and sources are b64. -/
def Env.elementwise (e : Env) (s : State) (x : XArgs) (n : Nat) (wide : Bool) (k : ImmKind) (t : Ty)
    (f : Nat → Nat → Nat → Nat → Lane) : Res :=
  let w := if wide then 2 else 1
  let srcs := [x.a, x.b, x.c].take n
  let u : Use := { srcs := srcs.map fun a => (a, w), dst := some x.dst, n := w }
  e.using s u fun poisonFlag =>
    let a := e.val x k t x.a
    let b := e.val x k t x.b
    let c := e.val x k t x.c
    let get (v : Val) (l : Nat) : Nat := if wide then v.at64 l else v.at l
    let at_ (l : Nat) : Lane := f l (get a l) (get b l) (get c l)
    match x.dst with
    | .scal _ =>
      let r := at_ 0
      e.finish s x u (poisonFlag.or r.fl) e.lanes
        (.scal (BitVec.ofNat 64 (if wide then r.val else r.val % 2 ^ 32)))
    | _ =>
      let m := e.active x
      -- lanes outside active(slot) compute nothing and set no flag
      let ls : List Lane := (List.range 96).map fun l => if m.getLsbD l then at_ l else { val := 0 }
      let part (sh : Nat) : Lanes := ls.map fun r => BitVec.ofNat 32 (r.val / 2 ^ sh)
      e.finish s x u (poisonFlag.or (laneFlags ls)) (divLanes e.g.regs.astat ls) (match x.dst with
        | .vec _ => .vec (if wide then [part 0, part 32] else [part 0])
        | .pred _ => .pred (mkMask fun l => match ls[l]? with
          | some r => r.val % 2 == 1
          | none => false)
        | _ => .none)

end Sys2Proof.Machine
end

