-- ==== Sys2Proof/Machine/Flags.lean ====
section
/-! DEFINITION. Flag computations: what a division and a rounding set (R70, R123, R128, R129). -/

namespace Sys2Proof.Machine

/-- A lane whose result was rounded, or not (R123). -/
def Lane.rounded (r : Nat × Bool) : Lane := { val := r.1, fl := { inexact := r.2 } }

/-- Quotient and flags of a division of w-bit numbers (R128). -/
def Lane.quotient (w : Nat) (isSigned : Bool) (x y : Nat) : Lane :=
  let r := divide w isSigned x y
  { val := r.1, fl := { divz := r.2.2.1, ovf := r.2.2.2 } }

/-- Remainder and flags of a division of w-bit numbers (R128). -/
def Lane.remainder (w : Nat) (isSigned : Bool) (x y : Nat) : Lane :=
  let r := divide w isSigned x y
  { val := r.2.1, fl := { divz := r.2.2.1, ovf := r.2.2.2 } }

/-- A lane that sets no flag. -/
def Lane.plain (v : Nat) : Lane := { val := v }

/-- A condition as a lane's result. -/
def Lane.cond (b : Bool) : Lane := { val := b.toNat }

end Sys2Proof.Machine
end

