-- ==== Sys2Proof/Machine/Typed.lean ====
section
/-! DEFINITION. Page formats: elements of typed accesses and of engine reads (R147 to R150). -/

namespace Sys2Proof.Machine

/-- A page's element format and geometry (R147). -/
structure Format where
  fmt : Nat
  geom : Nat
  deriving DecidableEq, Repr

/-- The format of a leaf (R196). -/
def formatOf (leaf : BitVec 64) : Format := { fmt := leafFmt leaf, geom := leafGeom leaf }

/-- GEOM must be 0 unless the format is grouped (R147). -/
def Format.legal (f : Format) : Bool := 6 ≤ f.fmt || f.geom = 0
/-- 4-bit formats with scales. -/
def Format.grouped (f : Format) : Bool := 6 ≤ f.fmt
/-- Size of an element in 4-bit nibbles. -/
def Format.nibbles (f : Format) : Nat :=
  match f.fmt with
  | 0 | 1 => 8
  | 2 | 3 => 4
  | 4 | 5 => 2
  | _ => 1
/-- What a typed address must be a multiple of, in bytes (R150). -/
def Format.align (f : Format) : Nat := max 1 (f.nibbles / 2)
/-- Elements of a scale group: 32, 64, 128 or 256. -/
def Format.group (f : Format) : Nat := 32 * 2 ^ bits f.geom 3 2
/-- Bytes of a scale. -/
def Format.scaleBytes (f : Format) : Nat := if bit f.geom 1 then 4 else 2
/-- Scales stand apart from the data. -/
def Format.separate (f : Format) : Bool := bit f.geom 0
/-- Bytes of an interleaved block (R148). -/
def Format.block (f : Format) : Nat := 16 * f.scaleBytes + 8 * f.group
/-- Groups of a unit with separate scales (R148). -/
def Format.groups (f : Format) : Nat := 65536 / (f.group / 2 + f.scaleBytes)

/-- Where the scale of the data byte d of a unit lies; none for a scale region or an undecodable part (R148). -/
def Format.scaleAt (f : Format) (d : Nat) : Option Nat :=
  if f.separate then
    let g := d / (f.group / 2)
    if g < f.groups then some (65536 - f.groups * f.scaleBytes + f.scaleBytes * g) else none
  else
    let b := d / f.block
    let w := d % f.block
    if 65536 / f.block ≤ b || w < 16 * f.scaleBytes then none
    else some (b * f.block + f.scaleBytes * ((w - 16 * f.scaleBytes) / (f.group / 2)))

/-- Whether n elements from unit offset u lie in one unit and in data alone (R150). -/
def Format.runOk (f : Format) (u n : Nat) : Bool :=
  if f.grouped then
    u + (n + 1) / 2 ≤ 65536 && (List.range ((n + 1) / 2)).all fun i => (f.scaleAt (u + i)).isSome
  else 2 * u + n * f.nibbles ≤ 131072

/-- The exact product of an element and its scale, rounded to f32 (R149). -/
def scaled (elem scale : FVal) : Nat := (f32.ofV .rne (mulV elem scale)).1

/-- Element i of a run from unit offset u, as a typed load yields it (R149); `rd` reads a little-endian number of
n bytes at a unit offset. -/
def Format.load (f : Format) (rd : Nat → Nat → Nat) (u i : Nat) : Nat :=
  match f.fmt with
  | 0 | 1 => rd (u + 4 * i) 4
  | 2 => (convert .bf16 .f32 .rne (rd (u + 2 * i) 2)).1
  | 3 => (convert .f16 .f32 .rne (rd (u + 2 * i) 2)).1
  | 4 => (convert .dl8 .f32 .rne (rd (u + i) 1)).1
  | 5 => wrap (sextInt (rd (u + i) 1) 8) 32
  | _ =>
    let d := u + i / 2
    let nib := rd d 1 / 16 ^ (i % 2) % 16
    let x := rd ((f.scaleAt d).getD 0) f.scaleBytes
    scaled (tyValue (if f.fmt = 6 then .i4 else .n4) nib) (if f.scaleBytes = 4 then f32.decode x else bf16.decode x)

/-- The bytes that a typed store writes for one register (R149); grouped formats take none. -/
def Format.store (f : Format) (rm : Rm) (x : Nat) : List Byte :=
  match f.fmt with
  | 0 | 1 => leBytes 4 x
  | 2 => leBytes 2 (convert .f32 .bf16 rm x).1
  | 3 => leBytes 2 (convert .f32 .f16 rm x).1
  | 4 => leBytes 1 (convert .f32 .dl8 rm x).1
  | 5 => leBytes 1 (convert .i32 .i8 rm x).1
  | _ => []

/-- Whether the value that a typed store writes differs from the register's (R123, R149). -/
def Format.inexact (f : Format) (rm : Rm) (x : Nat) : Bool :=
  match f.fmt with
  | 2 => (convert .f32 .bf16 rm x).2
  | 3 => (convert .f32 .f16 rm x).2
  | 4 => (convert .f32 .dl8 rm x).2
  | 5 => (convert .i32 .i8 rm x).2
  | _ => false

/-- What a typed access of n elements meets at a physical address: nothing, MISALIGN or ACCESS (R150, R346, R405). -/
inductive TypedCheck
  | ok
  | misalign
  | access
  deriving DecidableEq, Repr

/-- The checks of one lane's typed access (R150): a store to a 4-bit format is ACCESS (R149). -/
def typedCheck (f : Format) (isStore : Bool) (u n : Nat) : TypedCheck :=
  if u % f.align ≠ 0 then .misalign
  else if !f.legal || (isStore && f.grouped) || !f.runOk u n then .access
  else .ok

end Sys2Proof.Machine
end

