-- ==== Sys2Proof/Machine/Memory.lean ====
section
/-! DEFINITION. What memory instructions share: lane addresses, translation of the lanes, parking and resuming,
fabric operations, ordering, the race detector, and the end of a memory instruction (R92, R138, R145, R146,
R166 to R168, R176, R181, R182, R199, R205, R206, R344 to R346, R404, R405). -/

namespace Sys2Proof.Machine

/-! ### Lane addresses (R138) -/

/-- One lane's access: its address, and its offset where a translation register is the base. -/
structure Acc where
  lane : Nat
  va : BitVec 64
  off : BitVec 64
  deriving DecidableEq, Repr

/-- The offset of a lane: sext of a 32-bit vector offset, or the 64-bit scalar or immediate, plus sext(XF, 24). -/
def Env.offset (e : Env) (x : XArgs) (l : Nat) : BitVec 64 :=
  let v := e.val x .int .b64 x.b
  let o : BitVec 64 := if x.b.isVec then (BitVec.ofNat 32 (v.at l)).signExtend 64 else BitVec.ofNat 64 (v.at64 l)
  o + dispOf x

/-- The translation register a source names. -/
def Env.greg (e : Env) : Src → GReg
  | .greg n => e.g.regs.g.getD n.toNat {}
  | _ => {}

/-- The lanes still to do: those a park left, else active(slot) (R144, R199). -/
def Env.todo (e : Env) (x : XArgs) : LaneMask := e.sl.unf.getD (e.active x)

/-- The accesses of the lanes of a mask from a base. -/
def Env.accs (e : Env) (x : XArgs) (base : BitVec 64) (m : LaneMask) : List Acc :=
  m.toList.map fun l => { lane := l, va := base + e.offset x l, off := e.offset x l }

/-- The lanes of a list. -/
def lanesOf (l : List Nat) : LaneMask := mkMask fun i => l.contains i

/-! ### Translation of lanes -/

/-- Through a translation register's frame, or the TLB beyond its limit (R146). A stale register's lanes all
translate afresh. -/
def State.xlGreg (s : State) (e : Env) (r : GReg) (kind : Nat) (a : Acc) : Xl × State :=
  if a.va.toNat / 2 ^ 56 ≠ 0 then (.access, s)
  else if !r.stale && a.off.toNat < r.limit then (useLeaf e.c.privc e.cid a.va.toNat kind r.leaf r.level, s)
  else s.xlate e a.va.toNat kind

/-- Through the routes: the sender's own table, or another module (R205). -/
def State.xlFab (s : State) (e : Env) (kind : Nat) (a : Acc) : Xl × State :=
  if a.va.toNat / 2 ^ 56 ≠ 0 then (.access, s)
  else match s.destination e.cid e.c e.t.core a.va.toNat with
    | none => (.access, s)
    | some n => if n = s.node then s.xlate e a.va.toNat kind else (.remote n, s)

/-- Every lane translated, in order. -/
def State.xlLanes (s : State) (f : State → Acc → Xl × State) : List Acc → List (Acc × Xl) × State
  | [] => ([], s)
  | a :: as =>
    let (r, s1) := f s a
    let (rs, s2) := s1.xlLanes f as
    ((a, r) :: rs, s2)

/-! ### Releases (R176, R181) -/

/-- Whether every earlier access of a group is performed at a scope. -/
def State.settledAt (s : State) (gid : Nat) (x : Scope) : Bool :=
  !(s.pend.any fun p => p.gid = gid && p.short x) && !(s.fabOut.any fun o => o.gid = gid && o.eng.isNone && !o.signal)

/-- What an instruction waits for while earlier accesses of its group are not performed: answers of homes where there are any, at
which the group is swapped out (R62). -/
def State.behind (s : State) (gid : Nat) : Wait :=
  if s.fabOut.any fun o => o.gid = gid && o.eng.isNone && !o.signal then .fabric else .stores

/-- A release of a group: its interval number rises, its latest release has this scope, and the modules whose detector tables keep
the group are told (R181). -/
def State.release (s : State) (gid : Nat) (x : Scope) : State :=
  (s.modGroup gid fun g => { g with interval := g.interval + 1, relScope := x }).tellRacers gid false

/-- Whether every earlier access of a group to some addresses is performed at a scope: those of this module's memory and
of a scratchpad that `f` picks, and those at other modules that `g` picks. -/
def State.settledIn (s : State) (gid : Nat) (x : Scope) (f : PStore → Bool) (g : FabOut → Bool) : Bool :=
  !(s.pend.any fun p => p.gid = gid && f p && p.short x) && !(s.fabOut.any fun o => o.gid = gid && o.eng.isNone && !o.signal && g o)

/-- What follows where a result is that the instruction is done. -/
def Res.andThen (f : State → State) : Res → Res
  | .ok s => .ok (f s)
  | r => r

/-- A releasing access goes on once everything earlier is performed at its scope; what a lichen half holds is ordered before it
for the release. The access belongs to the interval that it ends (R176, R181; logs 31, 128). -/
def Env.ordered (e : Env) (s : State) (p : Prefix) (k : State → Res) : Res :=
  if releases p.ord && !e.replaying then
    (if s.settledAt e.gid p.scope then (k (s.fenceHeld e.gid p.scope)).andThen fun s => s.release e.gid p.scope
     else .wait (s.behind e.gid) s)
  else k s

/-! ### Performing lanes -/

/-- How one memory instruction performs a lane. -/
structure MemOp where
  kind : Nat                                         -- R202's KIND
  size : Nat                                         -- bytes a lane moves
  typed : Nat := 0                                   -- registers of a typed access; 0: not typed
  write : Bool                                       -- a write, for the race detector
  rx : Bool
  xl : State → Acc → Xl × State
  remote : Acc → FabKind
  here : State → Acc → Nat → BitVec 64 → List Nat × State   -- at a physical address with its leaf; the registers' new values
  there : State → Acc → List Byte → List Nat × State        -- the same from a home's answer
  new : Acc → Nat → Option (List Byte) := fun _ _ => none    -- an atomic: the bytes that replace an old value
  wrote : State → Acc → Nat → Bool := fun _ _ _ => true      -- whether a write there writes: a `.cas` may fail (R295)
  acq : Option Scope := none                         -- the scope of an acquiring atomic (R176)
  fab : Bool := false                                -- a fabric instruction, whose route may name this module (R205)

/-- Bytes that a lane of the operation moves at a page: a typed run's by its format (R148, R182). -/
def MemOp.span (op : MemOp) (leaf : BitVec 64) : Nat :=
  if op.typed = 0 then op.size else (op.typed * (formatOf leaf).nibbles + 1) / 2

/-- Values for n registers from `d` on enter the outstanding loads of the group (R344). -/
def State.addLoad (s : State) (e : Env) (d : Option (Nat × Nat)) (l : List (Nat × List Nat)) (dev : Bool := false)
    (miss : Bool := false) : State :=
  match d with
  | none => s
  | some (d, n) =>
    if l = [] then s else
    let col (j : Nat) : Lanes := mkLanes fun i => match l.find? fun p => p.1 = i with
      | some p => BitVec.ofNat 32 (p.2.getD j 0)
      | none => 0
    let ld : Load := { id := s.nextId, reg := d, lanes := lanesOf (l.map (·.1)), vals := (List.range n).map col, dev, miss }
    ({ s with nextId := s.nextId + 1 }).upd e fun g => { g with loads := g.loads ++ [ld] }

/-- The lanes of checked accesses to watched pages that conflict. Each entry is an access, its physical address and its leaf. -/
def State.races (s : State) (r : Racer) (op : MemOp) (l : List (Acc × Nat × BitVec 64)) : List Acc :=
  (l.filter fun (a, pa, leaf) =>
    leafWatch leaf && (s.raceOf r op.write a.va.toNat pa (op.span leaf)).isSome).map (·.1)

/-- Local lanes performed in ascending order. -/
def State.performLanes (s : State) (e : Env) (op : MemOp) :
    List (Acc × Nat × BitVec 64) → List (Nat × List Nat) → List (Nat × List Nat) × State
  | [], out => (out, s)
  | (a, pa, leaf) :: rest, out =>
    let s1 := if op.rx then s else s.watch (e.racer s) op.write (op.wrote s a pa) (op.span leaf) a.va.toNat pa leaf
    let (vs, s2) := op.here s1 a pa leaf
    s2.performLanes e op rest (out ++ [(a.lane, vs)])

/-- Who a lane's access is made by, for the race detector of its home; none where it is not checked (R181). -/
def MemOp.acc (op : MemOp) (e : Env) (s : State) : Option FabAcc := if op.rx then none else s.accOf e.gid

/-- Lanes that a home answered, in the order of its answers. A lichen half's atomic reads there, and holds its write. -/
def State.answeredLanes (s : State) (e : Env) (op : MemOp) :
    List (Acc × List Byte) → List (Nat × List Nat) → List (Nat × List Nat) × State
  | [], out => (out, s)
  | (a, bs) :: rest, out =>
    let s0 := match e.holds, op.new a (leNat bs) with
      | true, some w => s.holdAway e ((s.destination e.cid e.c e.t.core a.va.toNat).getD s.node) a.va (.write w) none true op.acq
        (op.acc e s)
      | _, _ => s
    let (vs, s1) := op.there s0 a bs
    s1.answeredLanes e op rest (out ++ [(a.lane, vs)])

/-- What an operation asks of a lane's home: a lichen half's atomic only reads there. -/
def MemOp.ask (op : MemOp) (e : Env) (a : Acc) : FabKind :=
  if e.holds && op.kind = 2 then .read op.size else op.remote a

/-- A read with the bytes of its page that the sender's lichen half holds (R250). -/
def carrying (own : List (Nat × Byte)) : FabKind → FabKind
  | .read n _ => .read n own
  | .typedRead n _ => .typedRead n own
  | .engRead i n _ => .engRead i n own
  | k => k

/-- The write of a lane that a lichen half holds: a typed one as the bytes that its page's FMT gives (R149, R250). -/
def MemOp.heldKind (op : MemOp) (e : Env) (s : State) (a : Acc) : FabKind :=
  match op.remote a with
  | .typedWrite vals rm =>
    let fmts := ((s.group? e.gid).map fun g => (g.slot e.slot).fmts).getD []
    let f := ((fmts.find? fun p => p.1 = a.lane).map (·.2)).getD 0
    .write (vals.flatMap fun v => Format.store { fmt := f, geom := 0 } rm v.toNat)
  | k => k

/-- The tests of an operation, asked of a lane's home. -/
def MemOp.test (op : MemOp) (_ : Acc) : FabKind := .probe op.kind op.typed

/-- Fabric operations sent, one a lane, by number of the lane. Where the route named this module, this module has
forwarded the operation, and the new home is hinted (R205). -/
def State.send (s : State) (e : Env) (op : MemOp) (ask : Acc → FabKind) : List (Acc × Nat) → State
  | [] => s
  | (a, node) :: rest =>
    let through : Bool := op.fab && s.destination e.cid e.c e.t.core a.va.toNat = some s.node
    let s0 := if through then s.addHint e.cid e.t.core (a.va.toNat / 65536) node else s
    let req : FabReq := { node := s.node, id := s.nextId, ctxid := e.cid, va := a.va, kind := carrying (e.own s a.va.toNat) (ask a), hops := through.toNat
                          acc := op.acc e s }
    let o : FabOut := { id := s.nextId, gid := e.gid, slot := e.slot, idx := a.lane, dest := node, req }
    let s1 := ({ s0 with nextId := s.nextId + 1, fabOut := s.fabOut ++ [o] }).sendTo node req
    s1.send e op ask rest

/-- 64-byte units that runs of bytes touch, in bytes: each an address and a number of bytes of at most 64 (R65). -/
def sectorBytes (l : List (Nat × Nat)) : Nat :=
  64 * (l.foldl (fun (acc : List Nat) (p : Nat × Nat) =>
    let a := p.1 / 64
    let b := (p.1 + p.2 - 1) / 64
    let acc := if acc.contains a then acc else a :: acc
    if acc.contains b then acc else b :: acc) []).length

/-- 64-byte units of HBM that accesses touch, in bytes (R65). -/
def hbmBytes (op : MemOp) (l : List (Acc × Nat × BitVec 64)) : Nat :=
  sectorBytes (l.map fun (_, pa, leaf) => (pa, op.span leaf))

/-- The FMT of the page that a lane's typed store writes, kept until the store ends (R149, R245). -/
def State.noteFmt (s : State) (e : Env) (l fmt : Nat) : State :=
  s.updSlot e fun sl => { sl with fmts := (l, fmt) :: sl.fmts }

/-- Lanes that wait for pages, gathered page by page in ascending lanes (R199). -/
def wantsOf (l : List (Nat × PageWant)) : List PageWant :=
  l.foldl (fun acc (n, w) => if acc.any (·.page = w.page)
    then acc.map fun v => if v.page = w.page then { v with lanes := v.lanes ||| lanesOf [n] } else v
    else acc ++ [{ w with lanes := lanesOf [n] }]) []

/-- The lanes of an instruction sorted by what their translations gave. -/
structure Sorted where
  ok : List (Acc × Nat × BitVec 64)
  parks : List (Nat × PageWant × Bool × Bool)
  away : List (Acc × Nat)
  deferred : Bool

/-- The translations of lanes sorted. -/
def sortLanes (rs : List (Acc × Xl)) : Sorted :=
  { ok := rs.filterMap fun (a, r) => match r with
      | .ok pa leaf => some (a, pa, leaf)
      | _ => none
    parks := rs.filterMap fun (a, r) => match r with
      | .park w h m => some (a.lane, w, h, m)
      | _ => none
    away := rs.filterMap fun (a, r) => match r with
      | .remote n => some (a, n)
      | _ => none
    deferred := rs.any fun (_, r) => r = .deferred }

/-- What an instruction with lanes that did not translate waits for; none where all did. -/
def Sorted.stall (x : Sorted) : Option Wait :=
  match x.parks with
  | _ :: _ => some (.page (wantsOf (x.parks.map fun p => (p.1, p.2.1))))
  | [] => if x.deferred then some (.budget 3) else none

/-- Fabric operations sent for some lanes, within the budget of fabric egress; what the slot then waits for. -/
def Env.sendLanes (e : Env) (s : State) (op : MemOp) (ask : Acc → FabKind) (l : List (Acc × Nat)) (left : LaneMask)
    (d : Option (Nat × Nat)) (stalled : Option Wait) (probing : Bool) : Res :=
  -- a page whose earlier operation of the group is under way takes no later one, and tests are made for every lane (R206, R346)
  let free := l.filter fun p => !s.pageBusy e.gid p.1.va.toNat
  let admitted := s.admits e.c.vf 1
  let go := if admitted && !(probing && free.length < l.length) then free else []
  let s1 := (s.charge e.c.vf 1 (128 * go.length)).send e op ask go
  let s2 := s1.updSlot e fun sl => { sl with
    unf := some left, sent := go ≠ [], probing := probing && go ≠ [], reps := if go = [] then sl.reps else []
    dest := match d with
      | some (d, n) => (List.range n).map (d + ·)
      | none => [] }
  .wait (if go ≠ [] then .fabric else match stalled with
    | some w => w
    | none => if admitted then .fabric else .budget 1) s2

/-- The lanes that translated are performed, and operations are sent for those whose pages lie on another module. -/
def Env.perform (e : Env) (s : State) (op : MemOp) (d : Option (Nat × Nat)) (accs : List Acc) (x : Sorted) (finish : State → Res) : Res :=
  let holding : Bool := e.holds && op.kind = 1
  let s1 := s.charge e.c.vf 0 (hbmBytes op x.ok)
  let (vals, s2) := s1.performLanes e op x.ok []
  let s3 := if holding then
      x.away.foldl (fun s (a, n) => s.holdAway e n a.va (op.heldKind e s a) none false none (op.acc e s)) s2
    else s2.addLoad e d vals true op.fab
  let left := lanesOf ((accs.filter fun a => !(x.ok.any fun p => p.1.lane = a.lane)
    && !(holding && x.away.any fun p => p.1.lane = a.lane)).map (·.lane))
  if left = 0 then finish s3
  else e.sendLanes s3 op (op.ask e) (if holding then [] else x.away) left d x.stall false

/-- The lanes of a list that meet a condition here or at their homes: `here` picks those of this module, and the answers to the
tests of the others have a rank among R346's exceptions. -/
def Env.meeting (e : Env) (here : Acc → Bool) (rank : Nat) (accs : List Acc) : List Acc :=
  accs.filter fun a => here a || (e.sl.probed && e.sl.reps.any fun r => r.1 = a.lane && repRank r.2 = rank)

/-- An attempt at the lanes of a mask. Lanes that translate are performed; the others park, wait, or go to another module.
Where several lanes take part, or a lichen half takes part, those that go to another module are tested there first, since no lane
is performed where one traps, and a trap names the lanes of every module (R198, R346). A typed access performs no lane, and tests
no element, before all are translated (R150). -/
def Env.attempt (e : Env) (s : State) (op : MemOp) (d : Option (Nat × Nat)) (accs : List Acc) (finish : State → Res) : Res :=
  if accs = [] then finish s
  else
    let bad := if op.typed ≠ 0 then [] else accs.filter fun a => a.va.toNat % op.size ≠ 0
    match bad with
    | a :: _ => .trap .misalign a.va (lanesOf (bad.map (·.lane))) s
    | [] =>
      let (rs, s1) := s.xlLanes op.xl accs
      let x := sortLanes rs
      if x.away ≠ [] && (1 < accs.length || e.holds) && !e.sl.probed then
        e.sendLanes (x.parks.foldl (fun s (_, w, h, m) => s.fault w h m) s1) op op.test x.away (lanesOf (accs.map (·.lane))) d none true
      else
      let trap (code : TrapCode) (l : List Acc) (s : State) (k : Res) : Res := match l with
        | a :: _ => .trap code a.va (lanesOf (l.map (·.lane))) s
        | [] => k
      trap .access (e.meeting (fun a => rs.any fun (b, r) => b.lane = a.lane && r = .access) 0 accs) s1 <|
      let s2 := x.parks.foldl (fun s (_, w, h, m) => s.fault w h m) s1
      match accs.filterMap fun a => ((if e.sl.probed then e.sl.reps else []).find? fun r => r.1 = a.lane && repRank r.2 = 1).map fun r => (a, r.2) with
      | (a, r) :: l => .trap ((repTrap r).getD .xlfail) a.va (lanesOf (a.lane :: l.map (·.1.lane))) (s2.upd e fun g => { g with tier := repTier r })
      | [] =>
        if op.typed ≠ 0 && x.stall.isSome then .wait (x.stall.getD .ready) s2
        else
          let check (c : TypedCheck) (a : Acc) : Bool := op.typed ≠ 0 && x.ok.any fun (b, pa, leaf) =>
            b.lane = a.lane && typedCheck (formatOf leaf) op.write (pa % 65536) op.typed = c
          trap .misalign (e.meeting (check .misalign) 2 accs) s2 <|
          trap .access (e.meeting (check .access) 3 accs) s2 <|
          let racing := if op.rx || !e.c.racet then [] else s2.races (e.racer s2) op x.ok
          trap .race (e.meeting (fun a => racing.any fun b => b.lane = a.lane) 4 accs) s2 <|
          if x.ok ≠ [] && !s2.admits e.c.vf 0 then .wait (.budget 0) s2
          else if op.kind = 2 && x.ok.any (fun (_, pa, _) => s2.pinnedBy e.g.team none pa op.size) then .wait .stores s2
          else e.perform s2 op d accs x finish

/-- The first trap among the answers of homes, in the order of R346, with its lanes. -/
def firstTrap (reps : List (Acc × FabRep)) : Option (TrapCode × BitVec 64 × List Nat × FabRep) :=
  (List.range 5).findSome? fun k => match reps.filter fun p => repRank p.2 = k with
    | [] => none
    | (a, r) :: more => (repTrap r).map fun c => (c, a.va, a.lane :: more.map (·.1.lane), r)

/-- A trap that a home's answer is, and for QUOTA the tier that it names (R45). -/
def Env.repTrapped (e : Env) (s : State) (t : TrapCode × BitVec 64 × List Nat × FabRep) : Res :=
  .trap t.1 t.2.1 (lanesOf t.2.2.1) (s.upd e fun g => { g with tier := repTier t.2.2.2 })

/-- The tests of lanes at their homes are over: the answers stay with the slot, and tell the FMT of the pages that a typed store
writes (R149, R346). -/
def State.tested (s : State) (e : Env) (op : MemOp) : State :=
  let s1 := s.updSlot e fun sl => { sl with sent := false, probing := false, probed := true }
  if op.typed ≠ 0 && op.write then
    e.sl.reps.foldl (fun s r => if (repTrap r.2).isNone then s.noteFmt e r.1 ((repBytes r.2).headD 0).toNat else s) s1
  else s1

/-- A memory instruction's lanes performed, over as many issues as it takes (R199, R205). `mk` gives the accesses
of a mask of lanes. Values that homes answered stay where another home's answer traps (R346). -/
def Env.memory (e : Env) (s : State) (op : MemOp) (d : Option (Nat × Nat)) (mk : LaneMask → List Acc) (m : LaneMask)
    (finish : State → Res) : Res :=
  if e.sl.sent then
    if s.fabOut.any fun o => o.gid = e.gid && o.slot = e.slot && o.eng.isNone then .wait .fabric s
    else if e.sl.probing then
      let s1 := s.tested e op
      { e with g := (s1.group? e.gid).getD e.g }.attempt s1 op d (mk m) finish
    else
      let reps := (mk m).filterMap fun a => (e.sl.reps.find? fun r => r.1 = a.lane).map fun r => (a, r.2)
      let s0 := s.updSlot e fun sl => { sl with sent := false, reps := [] }
      let came := reps.filter fun p => (repTrap p.2).isNone
      let (vals, s1) := s0.answeredLanes e op (came.map fun (a, r) => (a, repBytes r)) []
      let rest := m &&& ~~~(lanesOf (vals.map (·.1)))
      let s2 := (s1.addLoad e d vals true).updSlot e fun sl => { sl with unf := some rest }
      match firstTrap reps with
      | some t => e.repTrapped s2 t
      | none => { e with g := (s2.group? e.gid).getD e.g }.attempt s2 op d (mk rest) finish
  else e.attempt s op d (mk m) finish

/-! ### The end of a memory instruction -/

/-- A register's value in a lane, counting data that has not arrived (R344). -/
def Group.peek (g : Group) (r l : Nat) : Nat :=
  match g.loads.find? fun ld => ld.reg ≤ r && r < ld.reg + ld.vals.length && ld.lanes.getLsbD l with
  | some ld => (lane (ld.vals.getD (r - ld.reg) []) l).toNat
  | none => (lane (g.regs.vec r) l).toNat

/-- Z marks of an instruction that also loads: a marked register that it loads keeps only what its active lanes
receive (R76). -/
def Regs.markLoaded (r : Regs) (marks dst : List Nat) (m : LaneMask) : Regs :=
  if m = 0 then r.kill marks else
  let r1 := r.kill (marks.filter fun n => !dst.contains n)
  (marks.filter dst.contains).foldl (fun r n => r.setVec n (~~~m) (List.replicate 96 poison)) r1

/-- The unit is over: marks, last-result file, PC (R73, R76). -/
def State.memDone (s : State) (e : Env) (x : XArgs) (u : Use) : State :=
  let s1 := s.updRegs e fun r => r.markLoaded u.marks u.dstRegs (e.active x)
  let s2 := s1.advance e
  match x.dst with
  | .vec d => s2.updSlot e fun sl => sl.wrote d.toNat u.n
  | _ => s2

/-- The values a load brought enter the audit log, register by register in ascending lanes (R243). -/
def State.logLoad (s : State) (e : Env) (m : LaneMask) (d n : Nat) : State :=
  match s.group? e.gid with
  | none => s
  | some g =>
    let vals := (m.toList.map fun l => (List.range n).map fun j => g.peek (d + j) l).flatten
    if m = 0 then s else s.logged e (4 * vals.length) vals

/-- In a re-execution: the values come from the log, and nothing is accessed (R244). -/
def State.replayLoad (s : State) (e : Env) (x : XArgs) (u : Use) (d n : Nat) : State :=
  let m := e.active x
  let (vals, s1) := if m = 0 then ([], s) else s.fromLog e
  let ls := m.toList
  let col (j : Nat) : Lanes := mkLanes fun l => BitVec.ofNat 32 (vals.getD (n * (ls.findIdx (· = l)) + j) 0)
  let s2 := (s1.updRegs e fun r => r.kill u.marks).updRegs e fun r => r.setVecs d m ((List.range n).map col)
  (s2.advance e).updSlot e fun sl => sl.wrote d n

/-- The sources of a memory instruction are checked at its first issue; on a resume its destination is its own
(R345). Flags of dead sources are set, and trap, before any lane is performed. -/
def Env.memUsing (e : Env) (s : State) (u : Use) (k : State → Res) : Res :=
  if e.sl.unf.isSome || e.sl.sent then
    (if (e.useRegs { u with dst := none }).any e.awaited.contains then .wait .loads s else k s)
  else e.using s u fun fl => e.flagged s fl e.lanes k

/-- A store that would overflow what a lichen half may hold, 16 KiB, is a compare point first (R250). -/
def Env.holdRoom (e : Env) (s : State) (n : Nat) (k : State → Res) : Res :=
  if e.holds && 16384 < s.heldBytes e.gid + n then e.compare s k else k s

/-- log2 of a lane's bytes, for the signature (R245). -/
def sizeCode (n : Nat) : Nat := Nat.log2 n

/-- A record of a vector store or atomic over active(slot), when some lane is active (R245). -/
def State.recordLanes (s : State) (e : Env) (m : LaneMask) (addr : Nat → BitVec 64) (space sz : Nat)
    (data : Nat → List Byte) : State :=
  if m = 0 then s else s.record e (addr m.lowest) space sz (m.toList.map data).flatten

end Sys2Proof.Machine
end

