-- ==== Sys2Proof/Machine/MemLoad.lean ====
section
/-! DEFINITION. Loads, PFG and GSET (R144 to R146, R149, R215, R239, R337, R343 to R348, R369, R384, R400). -/

namespace Sys2Proof.Machine

/-! ### Scratchpad (R139, R142 to R144) -/

/-- The checks of scratchpad lanes: alignment, then the allotment (R138, R139). A re-execution takes the traps of its log
(R244; log 57). -/
def Env.spCheck (e : Env) (s : State) (accs : List Acc) (size : Nat) (k : Res) : Res :=
  if e.replaying then k else
  match accs.filter fun a => a.va.toNat % size ≠ 0 with
  | a :: l => .trap .misalign a.va (lanesOf ((a :: l).map (·.lane))) s
  | [] =>
    match accs.filter fun a => !(e.t.granted && a.va.toNat + size ≤ e.gr.k.scrb) with
    | a :: l => .trap .access a.va (lanesOf ((a :: l).map (·.lane))) s
    | [] => k

/-- Whether the granule of a scratchpad byte is FULL (R142). -/
def State.isFull (s : State) (tid a : Nat) : Bool :=
  match s.team? tid with
  | some t => (Map.get? t.full (a / 16)).isSome
  | none => false

/-- The words of a scratchpad lane, after the group's own stores to them (R186). -/
def Env.spWords (e : Env) (s : State) (a n : Nat) : List Nat × State :=
  let s1 := s.settleOwn e.gid (some e.g.team) a (4 * n)
  ((List.range n).map fun j => s1.num e.viewer (some e.g.team) (a + 4 * j) 4, s1)

/-- The values that a lane brings to n registers from `d` on. -/
def State.fillLane (s : State) (e : Env) (d l : Nat) (vals : List Nat) : State :=
  s.updRegs e fun r => r.setVecs d (lanesOf [l]) (vals.map fun v => mkLanes fun _ => BitVec.ofNat 32 v)

/-- Waiting loads performed lane by lane: a lane whose granule is FULL reads it, and `.fwc` empties it; the
lanes left (R143, R144). -/
def State.loadFull (s : State) (e : Env) (n : Nat) (clear : Bool) (d : Nat) : List Acc → List Nat → List Nat × State
  | [], left => (left, s)
  | a :: as, left =>
    let o := a.va.toNat
    if s.isFull e.g.team o then
      let (vals, s0) := e.spWords s o n
      let s1 := s0.fillLane e d a.lane vals
      let s2 := if clear then s1.modTeam e.g.team fun t => { t with full := Map.del t.full (o / 16) } else s1
      s2.loadFull e n clear d as left
    else s.loadFull e n clear d as (left ++ [a.lane])

/-- LDS: plain, `.fw` and `.fwc` (R143, R144, R344, R346). -/
def execLds (x : XArgs) (s : State) : Host.Outcome State Fault Refusal :=
  s.issue fun e s =>
    let n := regCount x.fn
    let mode := x.fn.toNat % 8
    let u : Use := { srcs := [(x.b, 1)], dst := some x.dst, n }
    let d := (x.dst.num?).getD 0
    e.memUsing s u fun s =>
      let accs := e.accs x 0 (e.todo x)
      e.spCheck s accs (4 * n) <|
        if e.replaying then .ok (s.replayLoad e x u d n)
        else
          let done (s : State) : Res := .ok ((s.logLoad e (e.active x) d n).memDone e x u)
          if mode = 0 then
            let s1 := accs.foldl (fun s a => s.settleOwn e.gid (some e.g.team) a.va.toNat (4 * n)) s
            let cols := (List.range n).map fun j => mkLanes fun l =>
              BitVec.ofNat 32 (s1.num e.viewer (some e.g.team) ((e.offset x l).toNat + 4 * j) 4)
            done (s1.updRegs e fun r => r.setVecs d (e.todo x) cols)
          else
            let (left, s1) := s.loadFull e n (mode == 2) d accs []
            if left = [] then done s1
            else .wait .granule (s1.updSlot e fun sl => { sl with unf := some (lanesOf left), dest := (List.range n).map (d + ·) })

/-! ### Device and fabric memory -/

/-- The registers that n words of a lane fill, or n elements where the access is typed (R149), after the group's own stores to
what is read (R186): of a grouped format the scales too. -/
def Env.loadedAt (e : Env) (s : State) (typed : Bool) (n pa : Nat) (leaf : BitVec 64) : List Nat × State :=
  let f := formatOf leaf
  let page := pa / 65536 * 65536
  if typed then
    let s1 := if f.grouped then s.settleOwn e.gid none page 65536 else s.settleOwn e.gid none pa ((n * f.nibbles + 1) / 2)
    ((List.range n).map (f.load (fun u k => s1.num e.viewer none (page + u) k) (pa % 65536)), s1)
  else
    let s1 := s.settleOwn e.gid none pa (4 * n)
    ((List.range n).map fun j => s1.num e.viewer none (pa + 4 * j) 4, s1)

/-- The 32-bit words of a byte list. -/
def wordsOf (n : Nat) (bs : List Byte) : List Nat := (List.range n).map fun j => leNat ((bs.drop (4 * j)).take 4)

/-- A plain or typed load as a memory operation. -/
def Env.loadOp (e : Env) (x : XArgs) (n : Nat) (p : Prefix) (xl : State → Acc → Xl × State) : MemOp :=
  let typed : Bool := x.ty = .page
  { kind := 0, size := 4 * n, typed := if typed then n else 0, write := false, rx := p.rx, xl
    remote := fun _ => if typed then .typedRead n else .read (4 * n)
    here := fun s _ pa leaf => e.loadedAt s typed n pa leaf
    there := fun s _ bs => (wordsOf n bs, s) }

/-- An unwritten translation register is ACCESS (R145); INFO is 0, as no address can be formed (log 19). -/
def Env.gregReady (e : Env) (s : State) (a : Src) (k : Res) : Res :=
  match a with
  | .greg _ => if (e.greg a).written then k else e.trap .access s
  | _ => k

/-- A load through a translation register, the TLB or the fabric, to n registers. -/
def Env.load (e : Env) (s : State) (x : XArgs) (u : Use) (op : MemOp) (base : BitVec 64) (n : Nat) : Res :=
  let d := (x.dst.num?).getD 0
  if e.replaying then
    match (e.accs x base (e.todo x)).filter fun a => op.typed = 0 && a.va.toNat % op.size ≠ 0 with
    | a :: l => .trap .misalign a.va (lanesOf ((a :: l).map (·.lane))) s
    | [] => .ok (s.replayLoad e x u d n)
  else e.memory s op (some (d, n)) (e.accs x base) (e.todo x) fun s1 =>
    .ok ((s1.logLoad e (e.active x) d n).memDone e x u)

/-- LDG (R146, R344). -/
def execLdg (x : XArgs) (s : State) : Host.Outcome State Fault Refusal :=
  s.issue fun e s =>
    let n := regCount x.fn
    let u : Use := { srcs := [(x.b, 1)], dst := some x.dst, n }
    e.memUsing s u fun s => e.gregReady s x.a <|
      let r := e.greg x.a
      e.load s x u (e.loadOp x n (e.pfxOf .load .pod) fun s a => s.xlGreg e r 0 a) r.base n

/-- A scalar base. -/
def Env.scalarBase (e : Env) : Src → BitVec 64
  | .scal n => e.s n
  | _ => 0

/-- LDF (R205, R344). -/
def execLdf (x : XArgs) (s : State) : Host.Outcome State Fault Refusal :=
  s.issue fun e s =>
    let n := regCount x.fn
    let u : Use := { srcs := [(x.b, 1)], dst := some x.dst, n }
    e.memUsing s u fun s =>
      e.load s x u { e.loadOp x n (e.pfxOf .load .pod) fun s a => s.xlFab e 0 a with fab := true } (e.scalarBase x.a) n

/-- An element that a typed load yields as LDK rotates it: of an i8 page its value in f32 (R135, R215). -/
def pairElem (typed : Bool) (fmt v : Nat) : Nat := if typed && fmt = 5 then (convert .i32 .f32 .rne v).1 else v

/-- LDK: an element pair a lane, rotated by the lane's angle (R135, R215). -/
def execLdk (x : XArgs) (s : State) : Host.Outcome State Fault Refusal :=
  s.issue fun e s =>
    let u : Use := { srcs := [(x.b, 1), (x.c, 1)], dst := some x.dst, n := 2 }
    e.memUsing s u fun s => e.gregReady s x.a <|
      let r := e.greg x.a
      let op := e.loadOp x 2 (e.pfxOf .load .pod) fun s a => s.xlGreg e r 0 a
      let angle := e.val x .int .n32 x.c
      let turned (a : Acc) (fmt : Nat) (v : List Nat × State) : List Nat × State :=
        let el (j : Nat) : Nat := pairElem (op.typed ≠ 0) fmt (v.1.getD j 0)
        let p := rotatePair (angle.at a.lane) (el 0) (el 1)
        ([p.1, p.2], v.2)
      e.load s x u { op with
        here := fun s a pa leaf => turned a (leafFmt leaf) (op.here s a pa leaf)
        there := fun s a bs => turned a (bs.getD 8 0).toNat (op.there s a bs) } r.base 2

/-- The lanes of a PFG translated, which fills TLBs and counts in the walks; those of no use leave nothing. What the others
name: an address and its bytes. -/
def State.prefetch (s : State) (e : Env) (r : GReg) (n : Nat) : List Acc → List (Nat × Nat) × State
  | [] => ([], s)
  | a :: as =>
    if a.va.toNat % n ≠ 0 then s.prefetch e r n as
    else
      let (t, s1) := s.xlGreg e r 0 a
      let (l, s2) := s1.prefetch e r n as
      (match t with
        | .ok pa _ => (pa, n) :: l
        | _ => l, s2)

/-- PFG: it loads translations and counts in the budgets of HBM and of walks, and does nothing that a program sees; deferred
by a budget it is never performed (R369). -/
def execPfg (x : XArgs) (s : State) : Host.Outcome State Fault Refusal :=
  s.issue fun e s =>
    if !e.exists? { srcs := [(x.b, 1)] } then e.trap .illop s
    else
      let r := e.greg x.a
      let (l, s1) := if r.written then s.prefetch e r (4 * regCount x.fn) (e.accs x r.base (e.active x)) else ([], s)
      passOn e (if s1.admits e.c.vf 0 then s1.charge e.c.vf 0 (sectorBytes l) else s1)

/-- GSET: one translation for a register (R145, R337). A page that moved away leaves a register whose lanes all
translate (log 32). -/
def execGset (x : XArgs) (s : State) : Host.Outcome State Fault Refusal :=
  s.issue fun e s =>
    let base := e.scalarBase x.a + dispOf x
    let want := e.scalarBase x.b
    let write (s : State) (r : GReg) : Res := match x.dst with
      | .greg d => .ok ((s.updRegs e fun rs => { rs with g := rs.g.set d.toNat r }).advance e)
      | _ => .ok (s.advance e)
    let bare : GReg := { base, request := want, written := true }
    if base.toNat / 2 ^ 56 ≠ 0 then .trap .access base e.lanes s
    else if e.replaying then write s bare
    else match s.xlate e base.toNat 0 with
      | (.ok pa leaf, s1) =>
        let level := match (s1.tlbFind e.t.core (asidOf e.cid) (base.toNat / 65536)) with
          | some t => t.level
          | none => 4
        let size := levelPages level * 65536
        write s1 { bare with frame := BitVec.ofNat 64 pa, leaf, level, limit := min want.toNat (size - base.toNat % size) }
      | (.access, s1) => .trap .access base e.lanes s1
      | (.park w h m, s1) => s1.parkRes w h m
      | (.remote _, s1) => write s1 bare
      | (.deferred, s1) => .wait (.budget 3) s1

/-! ### Scalar loads (R400) -/

/-- One 8-byte access of the group, whatever the mask: alignment, then as a lane of device memory. `read` says
what the access leaves in the slot for its end. -/
def Env.scalarAccess (e : Env) (s : State) (op : MemOp) (a : BitVec 64) (finish : State → Res) : Res :=
  match e.memory s op none (fun m => if m = 0 then [] else [{ lane := 0, va := a, off := 0 }]) (e.sl.unf.getD 1) finish with
  | .trap code info _ s1 => .trap code info e.lanes s1
  | r => r

/-- The value an access left in the slot. -/
def State.left (s : State) (e : Env) : Nat :=
  match s.group? e.gid with
  | some g => ((g.slot e.slot).granted.getD 0).toNat
  | none => 0

/-- SLDU from an address (R400). -/
def Env.uniformLoad (e : Env) (s : State) (d : BitVec 6) (a : BitVec 64) : Res :=
  let keep (s : State) (v : Nat) : State := s.updSlot e fun sl => { sl with granted := some (BitVec.ofNat 64 v) }
  let op : MemOp :=
    { kind := 0, size := 8, write := false, rx := (e.pfxOf .load .pod).rx, xl := fun s a => if a.va.toNat / 2 ^ 56 ≠ 0 then (.access, s) else s.xlate e a.va.toNat 0
      remote := fun _ => .read 8
      here := fun s _ pa _ =>
        let (v, s1) := s.readOwn e none pa 8
        ([], keep s1 v)
      there := fun s _ bs => ([], keep s (leNat bs)) }
  if e.replaying then
    (if a.toNat % 8 ≠ 0 then .trap .misalign a e.lanes s
     else
      let (v, s1) := s.outside e 8 0
      s1.putS e d (BitVec.ofNat 64 v))
  else e.scalarAccess s op a fun s1 =>
    let v := s1.left e
    (s1.logged e 8 [v]).putS e d (BitVec.ofNat 64 v)

/-- SLDU with IMM10 (R400). -/
def execSldu (d a : BitVec 6) (imm : BitVec 10) (s : State) : Host.Outcome State Fault Refusal :=
  s.issue fun e s => e.uniformLoad s d (e.s a + imm.signExtend 64)

/-- SLDU with a literal (R400). -/
def execSlduLit (d a : BitVec 6) (lit : BitVec 64) (s : State) : Host.Outcome State Fault Refusal :=
  s.issue fun e s => e.uniformLoad s d (e.s a + lit)

/-! ### Request records (R239, R384) -/

/-- Whether a record belongs to a context (R41). -/
def State.recordOf (s : State) (cid rid : Nat) : Bool :=
  match (s.req rid).stream with
  | some (_, _, c) => c = cid
  | none => false

/-- Bytes of a record as a number, with the writes that the group's lichen half holds (R250, R385). -/
def Env.recordNum (e : Env) (s : State) (rid off n : Nat) : Nat :=
  let held := if e.holds then ((s.team? e.g.team).map (·.away)).getD [] else []
  let r := held.foldl (fun (r : Req) o => match o.record, o.kind with
    | some at_, .write bs => if o.va.toNat = rid then r.putBytes at_ bs else r
    | _, _ => r) (s.req rid)
  bits r.bits.toNat (8 * (off + n) - 1) (8 * off)

/-- REQLD, scalar form: 8 bytes at XF (R239). A re-execution tests no record: its log tells what was read (R244). -/
def Env.reqScalar (e : Env) (s : State) (d : BitVec 6) (x : XArgs) : Res :=
  let base := e.scalarBase x.a
  let off := (dispOf x).toInt
  if base.toNat / 65536 ≠ 0 || !(e.replaying || s.recordOf e.cid base.toNat) then .trap .access base e.lanes s
  else if off % 8 ≠ 0 then .trap .misalign (dispOf x) e.lanes s
  else if off < 0 || 248 < off then .trap .access (dispOf x) e.lanes s
  else
    let (v, s1) := s.outside e 8 (e.recordNum s base.toNat off.toNat 8)
    s1.putS e d (BitVec.ofNat 64 v)

/-- REQLD, vector form (R384). -/
def Env.reqVector (e : Env) (s : State) (x : XArgs) (u : Use) (n : Nat) : Res :=
  let base := e.scalarBase x.a
  let m := e.active x
  let at_ (l : Nat) : Int := 256 * (base.toNat % 65536 : Nat) + sextInt ((e.val x .int .b32 x.b).at l) 32 + (dispOf x).toInt
  let d := (x.dst.num?).getD 0
  match m.toList.filter fun l => at_ l % (4 * n : Nat) ≠ 0 with
  | l :: ls => .trap .misalign (BitVec.ofInt 64 (at_ l)) (lanesOf (l :: ls)) s
  | [] =>
    let out (l : Nat) : Bool := base.toNat / 65536 ≠ 0 || at_ l < 0 || 2 ^ 24 < at_ l + 4 * n
      || !(e.replaying || s.recordOf e.cid (at_ l / 256).toNat)
    match m.toList.filter out with
    | l :: ls => .trap .access (BitVec.ofInt 64 (at_ l)) (lanesOf (l :: ls)) s
    | [] =>
      if e.replaying then .ok (s.replayLoad e x u d n)
      else
        let vals := m.toList.map fun l => (l, (List.range n).map fun j =>
          e.recordNum s (at_ l / 256).toNat ((at_ l % 256).toNat + 4 * j) 4)
        let s1 := s.addLoad e (some (d, n)) vals
        .ok ((s1.logLoad e m d n).memDone e x u)

/-- REQLD (R239, R384). -/
def execReqld (x : XArgs) (s : State) : Host.Outcome State Fault Refusal :=
  s.issue fun e s =>
    match x.dst with
    | .scal d => e.reqScalar s d x
    | _ =>
      let n := regCount x.fn
      let u : Use := { srcs := [(x.b, 1)], dst := some x.dst, n }
      e.memUsing s u fun s => e.reqVector s x u n

end Sys2Proof.Machine
end

