-- ==== Sys2Proof/Machine/MemStore.lean ====
section
/-! DEFINITION. Stores (R142 to R144, R149, R385, R400, R403 to R406). -/

namespace Sys2Proof.Machine

/-- The data of a store for register j of a lane (R403). -/
def Env.storeWord (e : Env) (x : XArgs) (j l : Nat) : Nat :=
  match x.c with
  | .vec _ _ _ | .last _ => (lane (e.srcVec x.c j) l).toNat
  | c => (e.val x (.ofTy x.ty) x.ty c).at64 0 / 2 ^ (32 * j) % 2 ^ 32

/-- The 4n bytes of a lane. -/
def Env.storeBytes (e : Env) (x : XArgs) (n l : Nat) : List Byte :=
  ((List.range n).map fun j => leBytes 4 (e.storeWord x j l)).flatten

/-- What a store names: its offset and its data run. -/
def storeUse (x : XArgs) (n : Nat) : Use := { srcs := [(x.b, 1), (x.c, n)] }

/-! ### Scratchpad -/

/-- Stores that wait for EMPTY performed lane by lane; the lanes left (R143, R144, R404). -/
def State.storeEmpty (s : State) (e : Env) (bytes : Nat → List Byte) : List Acc → List Nat → List Nat × State
  | [], left => (left, s)
  | a :: as, left =>
    let o := a.va.toNat
    -- earlier stores to the granule are performed first, so that its state is what they left
    let s1 := s.settleBytes (some e.g.team) (o / 16 * 16) 16 .team
    if s1.isFull e.g.team o then s1.storeEmpty e bytes as (left ++ [a.lane])
    else (s1.storeSp e o (bytes a.lane) .team).storeEmpty e bytes as left

/-- STS: plain and `.ew` (R142 to R144, R404, R405). -/
def execSts (x : XArgs) (s : State) : Host.Outcome State Fault Refusal :=
  s.issue fun e s =>
    let n := regCount x.fn
    let u := storeUse x n
    e.memUsing s u fun s =>
      let accs := e.accs x 0 (e.todo x)
      e.spCheck s accs (4 * n) <|
        e.holdRoom s (4 * n * accs.length) fun s => e.ordered s (e.pfxOf .store .team) fun s =>
          let done (s : State) : Res := .ok ((s.recordLanes e (e.active x) (fun l => e.offset x l) 0 (sizeCode (4 * n))
            (e.storeBytes x n)).memDone e x u)
          if e.replaying then done s
          else if x.fn.toNat % 8 = 0 then
            done (accs.foldl (fun s a => s.storeSp e a.va.toNat (e.storeBytes x n a.lane) .group) s)
          else
            let (left, s1) := s.storeEmpty e (e.storeBytes x n) accs []
            if left = [] then done s1
            else .wait .granule (s1.updSlot e fun sl => { sl with unf := some (lanesOf left) })

/-! ### Device and fabric memory -/

/-- The bytes that a store writes for a lane: of a typed one, by the FMT of the lane's page (R149). -/
def Env.storeData (e : Env) (x : XArgs) (n l : Nat) (fmt : Option Nat) : List Byte :=
  match fmt with
  | some f => ((List.range n).map fun j => Format.store { fmt := f, geom := 0 } x.rm (e.storeWord x j l)).flatten
  | none => e.storeBytes x n l

/-- A plain or typed store as a memory operation. -/
def Env.storeOp (e : Env) (x : XArgs) (n : Nat) (p : Prefix) (xl : State → Acc → Xl × State) : MemOp :=
  let typed : Bool := x.ty = .page
  { kind := 1, size := 4 * n, typed := if typed then n else 0, write := true, rx := p.rx, xl
    remote := fun a =>
      if typed then .typedWrite ((List.range n).map fun j => BitVec.ofNat 32 (e.storeWord x j a.lane)) x.rm
      else .write (e.storeBytes x n a.lane)
    here := fun s a pa leaf =>
      let fmt := if typed then some (leafFmt leaf) else none
      ([], (match fmt with
        | some f => s.noteFmt e a.lane f
        | none => s).store e a.va.toNat pa (e.storeData x n a.lane fmt) .group)
    there := fun s a bs => ([], if typed then s.noteFmt e a.lane (bs.headD 0).toNat else s) }

/-- The FMT of the page of each active lane of a typed store, which the audit's log keeps for the re-execution (log 33). -/
def Env.storeFmts (e : Env) (s : State) (m : LaneMask) : List (Nat × Nat) × State :=
  if m = 0 then ([], s)
  else if e.replaying then
    let (l, s1) := s.fromLog e
    (m.toList.zip l, s1)
  else
    let kept := (((s.group? e.gid).map fun g => (g.slot e.slot).fmts)).getD []
    let l := m.toList.map fun i => ((kept.find? fun p => p.1 = i).map (·.2)).getD 0
    (m.toList.zip l, s.logged e 0 l)

/-- The end of a store to device or fabric memory: INEXACT where a typed store rounded (R123), and the signature's record of
the bytes written (R245). -/
def Env.storeDone (e : Env) (s : State) (x : XArgs) (typed : Bool) (base : BitVec 64) (n space : Nat) : State :=
  let m := e.active x
  let (fmts, s1) := if typed then e.storeFmts s m else ([], s)
  let fmt (l : Nat) : Option Nat := (fmts.find? fun p => p.1 = l).map (·.2)
  let inexact := fmts.any fun p => (List.range n).any fun j => Format.inexact { fmt := p.2, geom := 0 } x.rm (e.storeWord x j p.1)
  let size := (e.storeData x n m.lowest (fmt m.lowest)).length
  ((s1.setFlags e { inexact }).recordLanes e m (fun l => base + e.offset x l) space (sizeCode size)
    fun l => e.storeData x n l (fmt l)).memDone e x (storeUse x n)

/-- A store through a translation register, the TLB or the fabric, from n registers. -/
def Env.storeLanes (e : Env) (s : State) (x : XArgs) (p : Prefix) (op : MemOp) (base : BitVec 64) (n space : Nat) : Res :=
  let accs := e.accs x base (e.todo x)
  let done (s : State) : Res := .ok (e.storeDone s x (op.typed ≠ 0) base n space)
  match accs.filter fun a => op.typed = 0 && a.va.toNat % op.size ≠ 0 with
  | a :: l => .trap .misalign a.va (lanesOf ((a :: l).map (·.lane))) s
  | [] =>
    if e.replaying then done s
    else e.holdRoom s (4 * n * accs.length) fun s => e.ordered s p fun s =>
      e.memory s op none (e.accs x base) (e.todo x) done

/-- STG (R146, R404). -/
def execStg (x : XArgs) (s : State) : Host.Outcome State Fault Refusal :=
  s.issue fun e s =>
    let n := regCount x.fn
    e.memUsing s (storeUse x n) fun s => e.gregReady s x.a <|
      let r := e.greg x.a
      let p := e.pfxOf .store .pod
      e.storeLanes s x p (e.storeOp x n p fun s a => s.xlGreg e r 1 a) r.base n 1

/-- STF (R205, R404). -/
def execStf (x : XArgs) (s : State) : Host.Outcome State Fault Refusal :=
  s.issue fun e s =>
    let n := regCount x.fn
    e.memUsing s (storeUse x n) fun s =>
      let p := e.pfxOf .store .pod
      e.storeLanes s x p { e.storeOp x n p fun s a => s.xlFab e 1 a with fab := true } (e.scalarBase x.a) n 2

/-! ### Scalar stores (R400) -/

/-- SSTU to an address (R400). -/
def Env.uniformStore (e : Env) (s : State) (v : BitVec 64) (a : BitVec 64) : Res :=
  let p := e.pfxOf .store .pod
  let op : MemOp :=
    { kind := 1, size := 8, write := true, rx := p.rx
      xl := fun s a => if a.va.toNat / 2 ^ 56 ≠ 0 then (.access, s) else s.xlate e a.va.toNat 1
      remote := fun _ => .write (leBytes 8 v.toNat)
      here := fun s a pa _ => ([], s.store e a.va.toNat pa (leBytes 8 v.toNat) .group)
      there := fun s _ _ => ([], s) }
  let done (s : State) : Res :=
    .ok ((if e.lanes = 0 then s else s.record e a 1 3 (leBytes 8 v.toNat)).advance e)
  if a.toNat % 8 ≠ 0 then .trap .misalign a e.lanes s
  else if e.replaying then done s
  else e.holdRoom s 8 fun s => e.ordered s p fun s => e.scalarAccess s op a done

/-- SSTU with IMM10 (R400). -/
def execSstu (d a : BitVec 6) (imm : BitVec 10) (s : State) : Host.Outcome State Fault Refusal :=
  s.issue fun e s => e.uniformStore s (e.s d) (e.s a + imm.signExtend 64)

/-- SSTU with a literal (R400). -/
def execSstuLit (d a : BitVec 6) (lit : BitVec 64) (s : State) : Host.Outcome State Fault Refusal :=
  s.issue fun e s => e.uniformStore s (e.s d) (e.s a + lit)

/-! ### Request records (R385) -/

/-- Whether n bytes from an offset lie in the K fields: bytes 12 to 15 and 132 to 255. -/
def inKFields (off : Int) (n : Nat) : Bool :=
  (12 ≤ off && off + n ≤ 16) || (132 ≤ off && off + n ≤ 256)

/-- REQST (R385). It is a store: a lichen half holds its write (R250). -/
def execReqst (x : XArgs) (s : State) : Host.Outcome State Fault Refusal :=
  s.issue fun e s =>
    let base := e.scalarBase x.a
    let n : Nat := if x.ty = .b64 then 8 else 4
    let off := (dispOf x).toInt
    let v := (e.scalarBase x.c).toNat % 2 ^ (8 * n)
    let addr : BitVec 64 := BitVec.ofInt 64 (256 * (base.toNat % 65536 : Nat) + off)
    let done (s : State) : Res := .ok ((if e.lanes = 0 then s else s.record e addr 3 (sizeCode n) (leBytes n v)).advance e)
    if off % n ≠ 0 then .trap .misalign addr e.lanes s
    else if base.toNat / 65536 ≠ 0 || base.toNat ≠ (e.place s).2.1.toNat || !inKFields off n then .trap .access addr e.lanes s
    else if e.replaying then done s
    else e.holdRoom s n fun s => e.ordered s (e.pfxOf .store .device) fun s =>
      done (if e.holds then s.holdAway e s.node base (.write (leBytes n v)) (some off.toNat)
        else s.setReq base.toNat ((s.req base.toNat).putBytes off.toNat (leBytes n v)))

end Sys2Proof.Machine
end

