-- ==== Sys2Proof/Machine/Atomics.lean ====
section
/-! DEFINITION. Atomics (R140, R191, R294 to R297). -/

namespace Sys2Proof.Machine

/-- The new value of an atomic on w-bit words; none where a `.cas` fails (R295). -/
def atomicNew (op : Nat) (isSigned : Bool) (w old x exp : Nat) : Option Nat :=
  let num (a : Nat) : Int := if isSigned then sextInt a w else a
  match op with
  | 0 => some ((old + x) % 2 ^ w)
  | 1 => some (if num x < num old then x else old)
  | 2 => some (if num old < num x then x else old)
  | 3 => some (old &&& x)
  | 4 => some (old ||| x)
  | 5 => some (old ^^^ x)
  | 6 => some x
  | _ => if old = exp then some x else none

/-- Bytes an atomic moves: 8 for b64, else 4. -/
def atomicSize (x : XArgs) : Nat := if x.ty = .b64 then 8 else 4

/-- Registers of C that an atomic reads (R295). -/
def atomicRegs (x : XArgs) : Nat := (if x.fn.toNat % 8 = 7 then 2 else 1) * (if x.ty = .b64 then 2 else 1)

/-- The operand x and, for `.cas`, the expected value, of a lane (R295). -/
def Env.atomicArgs (e : Env) (x : XArgs) (l : Nat) : Nat × Nat :=
  let n := atomicSize x
  match x.c with
  | .vec _ _ _ | .last _ =>
    let r (j : Nat) : Nat := (lane (e.srcVec x.c j) l).toNat
    if n = 8 then (r 0 + 2 ^ 32 * r 1, r 2 + 2 ^ 32 * r 3) else (r 0, r 1)
  | c =>
    let v := (e.val x (.ofTy x.ty) x.ty c).at64 0
    if n = 8 then (v, 0) else (v % 2 ^ 32, v / 2 ^ 32)

/-- What an atomic names. -/
def atomicUse (x : XArgs) : Use :=
  { srcs := [(x.b, 1), (x.c, atomicRegs x)], dst := some x.dst, n := if x.ty = .b64 then 2 else 1 }

/-- One lane's read, operation and write on bytes that hold the latest of their coherence order (R167, R295): the
old value and the state. `sp` is the team of a scratchpad word; `level` is the scope at which the write is performed at
once: an acquire's (R176). -/
def State.atomicLane (s : State) (e : Env) (x : XArgs) (level : Scope) (sp : Option Nat) (l va a : Nat) : Nat × State :=
  let n := atomicSize x
  let s1 := s.settleBytes sp a n (if sp.isSome then .team else .pod) e.g.team
  let old := s1.num e.viewer sp a n
  let (v, exp) := e.atomicArgs x l
  match atomicNew (x.fn.toNat % 8) (x.ty = .i32) (8 * n) old v exp with
  | none => (old, s1)
  | some new => (old, if sp.isSome then s1.storeSp e a (leBytes n new) .team true else s1.store e va a (leBytes n new) level true)

/-- The bytes of the operand C that a lane offers: x, and for `.cas` the expected value after it (R245; log 33). -/
def Env.atomicData (e : Env) (x : XArgs) (l : Nat) : List Byte :=
  let n := atomicSize x
  let (v, exp) := e.atomicArgs x l
  leBytes n v ++ (if x.fn.toNat % 8 = 7 then leBytes n exp else [])

/-- Bytes of operand C a lane offers. -/
def atomicDataSize (x : XArgs) : Nat := atomicSize x * (if x.fn.toNat % 8 = 7 then 2 else 1)

/-- The old values of lanes as register values. -/
def halves (n old : Nat) : List Nat := if n = 8 then [old % 2 ^ 32, old / 2 ^ 32] else [old]

/-- The destination run of an atomic; none for discard. -/
def atomicDst (x : XArgs) : Option (Nat × Nat) := (x.dst.num?).map fun d => (d, if x.ty = .b64 then 2 else 1)

/-- The end of an atomic: the log of the returned values, the record of the operand, the unit. -/
def State.atomicDone (s : State) (e : Env) (x : XArgs) (base : BitVec 64) (space : Nat) : State :=
  let m := e.active x
  let s1 := match atomicDst x with
    | some (d, n) => s.logLoad e m d n
    | none => s
  (s1.recordLanes e m (fun l => base + e.offset x l) space (sizeCode (atomicDataSize x))
    (e.atomicData x)).memDone e x (atomicUse x)

/-- An atomic of a re-execution: the returned values come from the log, where they stand before the instruction's record (R244). -/
def State.atomicReplay (s : State) (e : Env) (x : XArgs) (base : BitVec 64) (space : Nat) : State :=
  let s1 := match atomicDst x with
    | some (d, n) => s.replayLoad e x (atomicUse x) d n
    | none => s.memDone e x (atomicUse x)
  s1.recordLanes e (e.active x) (fun l => base + e.offset x l) space (sizeCode (atomicDataSize x)) (e.atomicData x)

/-- Scratchpad atomics in ascending lanes (R140, R191). -/
def State.atomicScratch (s : State) (e : Env) (x : XArgs) : List Acc → List (Nat × Nat) → List (Nat × Nat) × State
  | [], out => (out, s)
  | a :: as, out =>
    let (old, s1) := s.atomicLane e x .team (some e.g.team) a.lane a.va.toNat a.va.toNat
    s1.atomicScratch e x as (out ++ [(a.lane, old)])

/-- ATS (R191, R295, R296). -/
def execAts (x : XArgs) (s : State) : Host.Outcome State Fault Refusal :=
  s.issue fun e s =>
    e.memUsing s (atomicUse x) fun s =>
      let accs := e.accs x 0 (e.active x)
      e.spCheck s accs 4 <|
        e.holdRoom s (4 * accs.length) fun s => e.ordered s (e.pfxOf .atomic .team) fun s =>
          if e.replaying then .ok (s.atomicReplay e x 0 0)
          else
            let (olds, s1) := s.atomicScratch e x accs []
            let col : Lanes := mkLanes fun l => match olds.find? fun p => p.1 = l with
              | some p => BitVec.ofNat 32 p.2
              | none => 0
            let s2 := match atomicDst x with
              | some (d, _) => s1.updRegs e fun r => r.setVec d (e.active x) col
              | none => s1
            .ok (s2.atomicDone e x 0 0)

/-- Lanes of which several name one word are performed in an order that is not promised (R295): by a free rank
each (log 26). -/
def rankInsert (rank : Nat → Nat) (a : Acc) : List Acc → List Acc
  | [] => [a]
  | b :: l => if rank a.lane < rank b.lane then a :: b :: l else b :: rankInsert rank a l

/-- The lanes in the order in which they are performed. -/
def State.atomicOrder (s : State) (accs : List Acc) : List Acc :=
  if (accs.map (·.va)).Nodup then accs
  else accs.foldl (fun l a => rankInsert (Config.laneRank s.free) a l) []

/-- An atomic on device or fabric memory as a memory operation (R295). -/
def Env.atomicOp (e : Env) (x : XArgs) (p : Prefix) (xl : State → Acc → Xl × State) : MemOp :=
  let n := atomicSize x
  { kind := 2, size := n, write := true, rx := p.rx, xl
    remote := fun a =>
      let (v, exp) := e.atomicArgs x a.lane
      .atomic (BitVec.ofNat 3 x.fn.toNat) x.ty (BitVec.ofNat 64 v) (BitVec.ofNat 64 exp)
    here := fun s a pa _ =>
      let (old, s1) := s.atomicLane e x (if acquires p.ord then p.scope else .group) none a.lane a.va.toNat pa
      (halves n old, s1)
    there := fun s _ bs => (halves n (leNat bs), s)
    fab := x.a.isScal
    acq := if acquires p.ord then some p.scope else none
    wrote := fun s a pa =>
      let (v, exp) := e.atomicArgs x a.lane
      (atomicNew (x.fn.toNat % 8) (x.ty = .i32) (8 * n) ((s.settleBytes none pa n .pod e.g.team).num e.viewer none pa n) v exp).isSome
    new := fun a old =>
      let (v, exp) := e.atomicArgs x a.lane
      (atomicNew (x.fn.toNat % 8) (x.ty = .i32) (8 * n) old v exp).map (leBytes n) }

/-- ATG and ATF (R295, R296). -/
def Env.atomicLanes (e : Env) (s : State) (x : XArgs) (op : MemOp) (p : Prefix) (base : BitVec 64) (space : Nat) : Res :=
  let accs := e.accs x base (e.todo x)
  match accs.filter fun a => a.va.toNat % op.size ≠ 0 with
  | a :: l => .trap .misalign a.va (lanesOf ((a :: l).map (·.lane))) s
  | [] =>
    if e.replaying then .ok (s.atomicReplay e x base space)
    else e.holdRoom s (op.size * accs.length) fun s => e.ordered s p fun s =>
      e.memory { s with free := s.free + 1 } op (atomicDst x) (fun m => s.atomicOrder (e.accs x base m)) (e.todo x)
        fun s1 => .ok (s1.atomicDone e x base space)

/-- ATG (R146, R295). -/
def execAtg (x : XArgs) (s : State) : Host.Outcome State Fault Refusal :=
  s.issue fun e s =>
    e.memUsing s (atomicUse x) fun s => e.gregReady s x.a <|
      let r := e.greg x.a
      let p := e.pfxOf .atomic .pod
      e.atomicLanes s x (e.atomicOp x p fun s a => s.xlGreg e r 2 a) p r.base 1

/-- ATF (R205, R295). -/
def execAtf (x : XArgs) (s : State) : Host.Outcome State Fault Refusal :=
  s.issue fun e s =>
    e.memUsing s (atomicUse x) fun s =>
      let p := e.pfxOf .atomic .pod
      e.atomicLanes s x (e.atomicOp x p fun s a => s.xlFab e 2 a) p (e.scalarBase x.a) 2

end Sys2Proof.Machine
end

