-- ==== Sys2Proof/Machine/TreeMask.lean ====
section
/-! DEFINITION. TMASK: the ancestor rows of a draft tree (R216, R408). -/

namespace Sys2Proof.Machine

/-- Rows 0 to 95 with their bad flags, row l from the rows below it (R216). -/
def treeRows (m : LaneMask) (parent : Nat → Int) : List (Nat × Bool) :=
  (List.range 96).foldl (fun rows l => rows ++ [
    if !m.getLsbD l then (0, false)
    else if parent l < 0 then (2 ^ l, false)
    else
      let p := (parent l).toNat
      let (up, bad) := rows.getD p (0, true)
      if m.getLsbD p && !bad then (up ||| 2 ^ l, false) else (0, true)]) []

/-- TMASK (R216, R408). The offset of a row is taken modulo 2^64: R216 does not say whether sA has a sign (DESIGN CHOICE, log 138). -/
def execTmask (x : XArgs) (s : State) : Host.Outcome State Fault Refusal :=
  s.issue fun e s =>
    let u : Use := { srcs := [(x.b, 1)], dst := some x.dst }
    e.using s u fun fl => e.flagged s fl 0 fun s =>
      let m := e.active x
      let a := e.scalarBase x.a
      let v := e.val x .int .i32 x.b
      let rows := treeRows m fun l => sextInt (v.at l) 32
      let at_ (l : Nat) : BitVec 64 := a + BitVec.ofNat 64 (16 * l)
      let data (l : Nat) : List Byte :=
        let row := (rows.getD l (0, false)).1
        leBytes 12 row ++ leBytes 4 (popCount 96 row)
      if a.toNat % 16 ≠ 0 then .trap .misalign a e.lanes s
      else match m.toList.filter fun l => !e.replaying && !(e.t.granted && (at_ l).toNat + 16 ≤ e.gr.k.scrb) with
        | l :: ls => .trap .access (at_ l) (lanesOf (l :: ls)) s
        | [] => e.holdRoom s (if e.replaying then 0 else 16 * m.toList.length) fun s =>
          let s1 := m.toList.foldl (fun s l => s.storeSp e (at_ l).toNat (data l) .group) s
          let s2 := s1.recordLanes e m at_ 0 4 data
          e.deliver s2 x.dst u.marks m (.pred (mkMask fun l => (rows.getD l (0, false)).2))

end Sys2Proof.Machine
end

