-- ==== Sys2Proof/Machine/Engine.lean ====
section
/-! DEFINITION. Tensor records, the seal table, and the issue of engine operations (R151 to R157, R309 to R320,
R335, R336, R392 to R394, R413). -/

namespace Sys2Proof.Machine

/-! ### Tensor records (R151) -/

def recBase (r : Nat) : Nat := bits r 63 0
def recEfmt (r : Nat) : Nat := bits r 67 64
def recNdim (r : Nat) : Nat := bits r 71 68
def recRot (r : Nat) : Bool := bit r 72
def recHalves (r : Nat) : Bool := bit r 73
def recDpitch (r : Nat) : Nat := bits r 127 96
def recRfrq (r : Nat) : Nat := bits r 191 128
def recRpos0 (r : Nat) : Nat := bits r 223 192
def recRdim (r : Nat) : Nat := bits r 227 224
def recSize (r d : Nat) : Nat := bits r (543 + 128 * d) (512 + 128 * d)
def recStride (r d : Nat) : Int := sextInt (bits r (639 + 128 * d) (576 + 128 * d)) 64

/-- Whether elements are page-typed (R151). -/
def recTyped (r : Nat) : Bool := recEfmt r = 4
/-- Bytes of an element; page-typed ones are delivered as 4 (R316). -/
def recZ (r : Nat) : Nat :=
  match recEfmt r with
  | 1 => 2 | 2 | 4 => 4 | 3 => 8 | _ => 1
/-- Bytes of a dimension-0 run (R316). -/
def recRun (r : Nat) : Nat := recSize r 0 * recZ r
/-- Destination bytes from one run to the next (R151). -/
def recPitch (r : Nat) : Nat := if recDpitch r = 0 then (recRun r + 3) / 4 * 4 else recDpitch r
/-- The product of SIZE1 to SIZEd. -/
def recCount (r : Nat) : Nat → Nat
  | 0 => 1
  | d + 1 => recCount r d * recSize r (d + 1)
/-- Number of runs, NRUN (R335). -/
def recRuns (r : Nat) : Nat := recCount r (recNdim r - 1)
/-- Index of dimension d, from 1 on, of run j (R335). -/
def recIndex (r j d : Nat) : Nat := j / recCount r (d - 1) % recSize r d
/-- Where run j starts. -/
def recStart (r : Nat) (base : Int) (j : Nat) : Int :=
  base + (List.range (recNdim r - 1)).foldl (fun a i => a + recIndex r j (i + 1) * recStride r (i + 1)) 0

/-- A field's offset and whether it is legal. -/
def field (o : Nat) (ok : Bool) : Nat × Bool := (o, ok)

/-- The fields of one dimension (R151). Of a dimension from NDIM on, all of which must be zero, the one offset that is reported
is that of its SIZE: the model's choice (log 41). -/
def dimFields (r nd d : Nat) : List (Nat × Bool) :=
  let o := 128 * d
  if d < nd then
    [field (512 + o) (recSize r d ≠ 0), field (544 + o) (bits r (575 + o) (544 + o) = 0),
      field (576 + o) (if recTyped r then d ≠ 0 || recStride r 0 = 0 else recStride r d % (recZ r : Nat) = 0)]
  else [field (512 + o) (bits r (639 + o) (512 + o) = 0)]

/-- The fields of a record as offset and legality, ascending (R151). -/
def recFields (r : Nat) : List (Nat × Bool) :=
  [field 0 (recBase r < 2 ^ 56 && recBase r % recZ r = 0), field 64 (recEfmt r ≤ 4),
    field 68 (1 ≤ recNdim r && recNdim r ≤ 12), field 72 (!recRot r || (recTyped r && recSize r 0 % 2 = 0)),
    field 74 (bits r 95 74 = 0), field 96 (recDpitch r % 4 = 0 && (recDpitch r = 0 || recRun r ≤ recDpitch r)),
    field 128 (recRfrq r % 4 = 0 && (recRot r || recRfrq r = 0)),
    field 224 (if recRot r then 1 ≤ recRdim r && recRdim r + 1 ≤ recNdim r else recRdim r = 0),
    field 228 (bits r 511 228 = 0)]
  ++ ((List.range 12).map (dimFields r (if recNdim r ≤ 12 then recNdim r else 0))).flatten

/-- The offset of the first illegal field. -/
def recIllegal (r : Nat) : Option Nat := ((recFields r).find? fun f => !f.2).map (·.1)

/-- Whether every element lies in [0, 2^56), a page-typed dimension 0 taken to step 4 bytes (R152). -/
def recInside (r : Nat) : Bool :=
  let ext := (List.range (recNdim r)).map fun d =>
    ((recSize r d : Int) - 1) * (if d = 0 && recTyped r then 4 else recStride r d)
  let lo := ext.foldl (fun a x => a + min x 0) (recBase r : Int)
  let hi := ext.foldl (fun a x => a + max x 0) ((recBase r : Int) + recZ r - 1)
  0 ≤ lo && hi < 2 ^ 56

/-! ### The seal table (R152, R153) -/

/-- The index a handle names, where it names a live entry (R153). -/
def Ctx.sealIndex (c : Ctx) (h : BitVec 64) : Option Nat :=
  let i := h.toNat % 65536
  match Map.get? c.seals i with
  | some _ => if h.toNat / 65536 = (Map.get? c.sealGen i).getD 0 then some i else none
  | none => none

/-- The sealed copy a handle names. -/
def Ctx.sealed (c : Ctx) (h : BitVec 64) : Option (BitVec 2048) := (c.sealIndex h).bind (Map.get? c.seals)

/-- The lowest free entry of 4,096. -/
def Ctx.freeSeal (c : Ctx) : Option Nat :=
  ((List.range (c.seals.length + 1)).find? fun i => (Map.get? c.seals i).isNone).filter (· < 4096)

/-- Bytes of device memory read for the group, in 64-byte pieces from an aligned address; `rx`: for an engine operation, whose
reads no race detector checks (R181). -/
def State.loadPieces (s : State) (e : Env) (rx : Bool) (va : Nat) : Nat → List Byte → (List Byte → State → Res) → Res
  | 0, out, k => k out s
  | n + 1, out, k => s.loadNum e (va % 2 ^ 64) 64 (fun x s1 => s1.loadPieces e rx (va + 64) n (out ++ leBytes 64 x) k) rx

/-- What SEAL answers, and the context with the new entry (R152). -/
def Ctx.sealRecord (c : Ctx) (r : Nat) : BitVec 64 × Ctx :=
  match recIllegal r with
  | some b => (0x8000000000010000#64 + BitVec.ofNat 64 b, c)
  | none => match c.freeSeal with
    | none => (0x8000000000020000#64, c)
    | some i =>
      if !recInside r then (0x8000000000030000#64, c)
      else (BitVec.ofNat 64 ((Map.get? c.sealGen i).getD 0 * 65536 + i),
        { c with seals := Map.set c.seals i (BitVec.ofNat 2048 r) })

/-- SEAL (R152, R394). -/
def execSeal (d a : BitVec 6) (s : State) : Host.Outcome State Fault Refusal :=
  s.issue fun e s => e.skipList s (mirrorS d e.gid) fun e s =>
    let va := e.s a
    if va.toNat % 64 ≠ 0 then .trap .misalign va e.lanes s
    else s.loadPieces e false va.toNat 4 [] fun bs s1 =>
      match s1.ctx? e.cid with
      | none => .ok s1
      | some c =>
        let (v, c') := c.sealRecord (leNat bs)
        ((s1.setCtx e.cid c').putS e d v).orUndo s1

/-- SEAL.rel (R152). It is taken to be on the skip list with SEAL (log 35). -/
def execSealRel (d b : BitVec 6) (s : State) : Host.Outcome State Fault Refusal :=
  s.issue fun e s => e.skipList s (mirrorS d e.gid) fun e s =>
    match e.c.sealIndex (e.s b) with
    | none => s.putS e d 1
    | some i =>
      (s.modCtx e.cid fun c => { c with
        seals := Map.del c.seals i
        sealGen := Map.set c.sealGen i (((Map.get? c.sealGen i).getD 0 + 1) % 65536) }).putS e d 0 |>.orUndo s

/-! ### Issue -/

/-- Reports of a class in issue order: finished operations at the head of its queue leave it, and an error is
kept for the instruction that covers it (R155, R156). -/
def Group.report (g : Group) (cls : Nat) : Nat → Group
  | 0 => g
  | fuel + 1 =>
    match g.eng.getD cls [] with
    | [] => g
    | op :: rest =>
      if !op.fin then g
      else
        let err := match op.err with
          | some (c, a) => [(cls, c, a)]
          | none => []
        { g with eng := g.eng.set cls rest, engErr := g.engErr ++ err }.report cls fuel

/-- The bytes a source of an engine instruction gives the signature (R245). -/
def Env.sourceBytes (e : Env) (x : XArgs) (a : Src) : List Byte :=
  match a with
  | .scal n => leBytes 8 (e.s n).toNat
  | .vec _ _ _ | .last _ =>
    ((e.active x).toList.map fun l => leBytes 4 (lane (e.srcVec a 0) l).toNat).flatten
  | _ => []

/-- The same of a source that is a scalar or not used. -/
def Env.scalarBytes (e : Env) (x : XArgs) (a : Src) : List Byte := if a.isScal then e.sourceBytes x a else []

/-- An engine operation enters its queue; a full counter stalls (R154). A re-execution performs none (R244). -/
def Env.enqueue (e : Env) (s : State) (x : XArgs) (marks : List Nat) (cls : Nat) (data : List Byte) (op : EngOp) : Res :=
  let q := e.g.eng.getD cls []
  if !e.replaying && 255 ≤ q.length then .wait .engine s
  else
    let s1 := if e.active x = 0 then s else s.record e 0 5 cls data
    let s2 := if e.replaying then s1
      else ({ s1 with nextId := s1.nextId + 1 }).upd e fun g =>
        { g with eng := g.eng.set cls (q ++ [{ op with id := s1.nextId }]) }.report cls (q.length + 1)
    e.deliver s2 x.dst marks 0 .none

/-- The sealed copy of the handle, or SEALERR with the handle in INFO. In a re-execution the handle is not tested. -/
def Env.sealedOf (e : Env) (s : State) (h : BitVec 64) (k : BitVec 2048 → Res) : Res :=
  match e.c.sealed h with
  | some r => k r
  | none => if e.replaying then k 0 else .trap .sealerr h e.lanes s

/-- ACCESS for scratchpad bytes a to a + n - 1 that leave the allotment, or before the first full grant (R139). -/
def Env.spRange (e : Env) (s : State) (a : BitVec 64) (n : Nat) (k : Res) : Res :=
  if !e.t.granted || e.gr.k.scrb < a.toNat + n then .trap .access a e.lanes s else k

/-- ACCESS for a device or fabric address with bits [63:56] set. -/
def Env.high (e : Env) (s : State) (a : BitVec 64) (k : Res) : Res :=
  if a.toNat / 2 ^ 56 ≠ 0 then .trap .access a e.lanes s else k

/-- Element alignment of two addresses. -/
def Env.aligned (e : Env) (s : State) (z : Nat) (a b : BitVec 64) (k : Res) : Res :=
  if a.toNat % z ≠ 0 then .trap .misalign a e.lanes s
  else if b.toNat % z ≠ 0 then .trap .misalign b e.lanes s
  else k

/-- The offset operand of CPY and CPYF: a scalar, or the all-zero field (R316). -/
def Env.offsetOf (e : Env) : Src → BitVec 64
  | .scal n => e.s n
  | _ => 0

/-- A copy of a whole tensor: CPY and CPYF (R316, R317, R319). `sp`: the destination is scratchpad. -/
def Env.copy (e : Env) (s : State) (x : XArgs) (cls : Nat) (kind : EngKind) (sp : Bool) : Res :=
  let h := e.scalarBase x.a
  let dst := e.scalarBase x.b
  e.sealedOf s h fun bitsOf =>
    let r := bitsOf.toNat
    let off := e.offsetOf x.c
    let base := BitVec.ofNat 64 (recBase r) + off
    let data := e.scalarBytes x x.a ++ e.scalarBytes x x.b ++ e.scalarBytes x x.c
    let go : Res := e.enqueue s x [] cls data { kind, record := bitsOf, off, other := dst, runs := [] }
    if e.replaying then go
    else e.aligned s (recZ r) base dst <|
      if sp then e.spRange s dst ((recRuns r - 1) * recPitch r + recRun r) (e.high s base go)
      else e.high s base (e.high s dst go)

/-- CPY (R316, R317). -/
def execCpy (x : XArgs) (s : State) : Host.Outcome State Fault Refusal :=
  s.issue fun e s =>
    let dev := bit x.fn.toNat 0
    e.copy s x 0 (.cpy dev) (!dev)

/-- CPYF (R319). -/
def execCpyf (x : XArgs) (s : State) : Host.Outcome State Fault Refusal :=
  s.issue fun e s =>
    let dir := x.fn.toNat % 4
    e.copy s x 3 (.cpyf dir) (dir = 1)

/-- A run of a tensor for each active lane: GATH and SCAT (R335, R336, R392, R393). -/
def Env.runs (e : Env) (s : State) (x : XArgs) (kind : EngKind) (dev noRot : Bool) : Res :=
  let h := e.scalarBase x.a
  let flat := e.scalarBase x.c
  let u : Use := { srcs := [(x.b, 1)], dst := some x.dst }
  e.using s u fun fl => e.flagged s fl 0 fun s => e.sealedOf s h fun bitsOf =>
    let r := bitsOf.toNat
    let v := e.val x .int .n32 x.b
    let lanes := (e.active x).toList
    let data := e.sourceBytes x x.a ++ e.sourceBytes x x.b ++ e.sourceBytes x x.c
    let go : Res := e.enqueue s x u.marks 1 data
      { kind, record := bitsOf, off := 0, other := flat, runs := lanes.map v.at, fin := lanes = [] }
    if e.replaying then go
    else e.aligned s (recZ r) (BitVec.ofNat 64 (recBase r)) flat <|
      match lanes.filter fun l => recRuns r ≤ v.at l with
      | l :: ls => .trap .access 0 (lanesOf (l :: ls)) s
      | [] =>
        if noRot && recRot r then e.trap .access s
        else if dev then (if noRot then go else e.high s flat go)
        else if lanes = [] then (if e.t.granted then go else e.trap .access s)
        else e.spRange s flat ((lanes.length - 1) * recPitch r + recRun r) go

/-- GATH (R335, R336). -/
def execGath (x : XArgs) (s : State) : Host.Outcome State Fault Refusal :=
  s.issue fun e s =>
    let dev := bit x.fn.toNat 0
    e.runs s x (.gath dev) dev false

/-- SCAT (R392, R393). -/
def execScat (x : XArgs) (s : State) : Host.Outcome State Fault Refusal :=
  s.issue fun e s =>
    let dev := bit x.fn.toNat 0
    e.runs s x (.scat dev) dev true

/-! ### Collectives (R310 to R315) -/

/-- Elements of a record, E. -/
def recElems (r : Nat) : Nat := recSize r 0 * recRuns r
/-- Element size of a collective: 2 for bf16, else 4 (R312). -/
def collZ (ty : Ty) : Nat := if ty = .bf16 then 2 else 4

/-- Whether a communicator's header and entries hold legal values and its entry names this module and context (R311, R314). -/
def commOk (node cid h : Nat) (entries : List Nat) : Bool :=
  let n := bits h 79 64
  let rank := bits h 95 80
  bits h 511 256 = 0 && bits h 127 112 = 0 && 2 ≤ n && n ≤ 1024 && rank < n && bits h 111 96 < n
    && entries.all (fun x => bits x 31 28 = 0 && bits x 27 16 < 1024 && bits x 15 0 = 0)
    && (let x := entries.getD rank 0
        bits x 27 16 = node && bits x 63 32 = cid)

/-- 8-byte numbers of a byte list. -/
def dwords (n : Nat) (bs : List Byte) : List Nat := (List.range n).map fun i => leNat ((bs.drop (8 * i)).take 8)

/-- Whether some group of a context has a COLL outstanding on a record (R312). -/
def State.collBusy (s : State) (cid : Nat) (comm : BitVec 64) : Bool :=
  s.groups.any fun p => s.ctxOf p.2 = some cid && (p.2.eng.getD 2 []).any fun op => op.comm = comm && !op.fin

/-- COLL (R310 to R314). -/
def execColl (x : XArgs) (s : State) : Host.Outcome State Fault Refusal :=
  s.issue fun e s =>
    let comm := e.scalarBase x.c
    let dst := e.scalarBase x.b
    let fn := x.fn.toNat % 8
    let data := e.sourceBytes x x.a ++ e.sourceBytes x x.b ++ e.sourceBytes x x.c
    let blank : EngOp := { kind := .coll fn x.ty, record := 0, off := 0, other := dst, runs := [], comm }
    if e.replaying then e.enqueue s x [] 2 data blank
    else (e.sealedOf s (e.scalarBase x.a) fun bitsOf =>
      let r := bitsOf.toNat
      if dst.toNat % collZ x.ty ≠ 0 then .trap .misalign dst e.lanes s
      else if comm.toNat % 64 ≠ 0 then .trap .access comm e.lanes s
      else s.loadPieces e true comm.toNat 1 [] fun head s1 =>
        let h := leNat head
        let n := bits h 79 64
        if n < 2 || 1024 < n then .trap .access comm e.lanes s1
        else s1.loadPieces e true (comm.toNat + 64) ((n + 7) / 8) [] fun bs s2 =>
          let entries := dwords n bs
          let efmt := if x.ty = .bf16 then 1 else 2
          if !commOk s2.node e.cid h entries || recEfmt r ≠ efmt || (fn = 4 && recElems r % n ≠ 0) then
            .trap .access comm e.lanes s2
          else e.high s2 dst <|
            let q := (bits h 191 128 + 1) % 2 ^ 64
            if s2.collBusy e.cid comm then .wait .coll s2
            else if 255 ≤ (e.g.eng.getD 2 []).length then .wait .engine s2
            else s2.storeVaAt e 2 .device (comm.toNat + 16) (leBytes 8 q) true fun s3 =>
              e.enqueue s3 x [] 2 data { blank with
                record := bitsOf, cid := BitVec.ofNat 64 (bits h 63 0), rank := bits h 95 80, root := bits h 111 96
                peers := entries.map (fun y => (bits y 63 32, bits y 27 16)), seqNo := q }).orUndo s

/-! ### Waiting -/

/-- CNTRD (R309). -/
def execCntrd (x : XArgs) (s : State) : Host.Outcome State Fault Refusal :=
  s.issue fun e s =>
    let n (k : Nat) : Nat := (e.g.eng.getD k []).length
    let (v, s1) := s.outside e 8 (n 0 + 2 ^ 8 * n 1 + 2 ^ 16 * n 2 + 2 ^ 24 * n 3)
    match x.dst with
    | .scal d => (s1.putS e d (BitVec.ofNat 64 v)).orUndo s
    | _ => .ok (s1.advance e)

/-- WAITC: the counter at most n; then the first error of the class traps and is consumed (R155, R413). -/
def execWaitc (cls : BitVec 2) (n : BitVec 8) (s : State) : Host.Outcome State Fault Refusal :=
  s.issue fun e s =>
    if e.replaying then passOn e s
    else if n.toNat < (e.g.eng.getD cls.toNat []).length then .wait .engine s
    else match e.g.engErr.find? fun r => r.1 = cls.toNat with
      | some r => e.engTrap s r
      | none => passOn e s

end Sys2Proof.Machine
end

