-- ==== Sys2Proof/Machine/Matrix.lean ====
section
/-! DEFINITION. The issue of matrix operations, batches and waits (R158 to R161, R217 to R219, R349 to R365). -/

namespace Sys2Proof.Machine

/-- Registers of a run from a source, as they stand. -/
def Env.fragment (e : Env) (a : Src) (n : Nat) : List Lanes := (List.range n).map (e.srcVec a)

/-- A tile named by a source or a destination. -/
def tileOf : Src ⊕ Dst → Nat
  | .inl (.tile n) | .inr (.tile n) => n.toNat
  | _ => 0

/-- A matrix operation issued, after its decoding checks: the dead-storage flag, Z marks, the destination tile made
live, and the operation in the open batch (R351). `reads`: it reads tile t; `writes`: t is its destination. -/
def Env.matrixOp (e : Env) (s : State) (u : Use) (t : Nat) (reads writes : Bool) (checks : State → (State → Res) → Res)
    (kind : State → MatKind × State) : Res :=
  e.using s u fun (fl : Flags) =>
    let dead : Bool := reads && e.g.regs.tdead.getLsbD t
    e.flagged s (Flags.or fl { poison := dead }) 0 fun s1 =>
      checks s1 fun s1 =>
        let (k, s2) := kind s1
        let s3 := s2.updRegs e fun r =>
          let r1 := r.kill u.marks
          if writes && r1.tdead.getLsbD t then r1.setTile t (r1.tile t) else r1
        let op : MatOp := { id := s3.nextId, kind := k, tile := t }
        let s4 := ({ s3 with nextId := s3.nextId + 1 }).upd e fun g => { g with mat := g.mat ++ [op] }
        let s5 := s4.advance e
        .ok (match u.dst with
          | some (.vec d) => s5.updSlot e fun sl => sl.wrote d.toNat u.n
          | _ => s5)

/-- No further checks at issue. -/
def noChecks (s : State) (k : State → Res) : Res := k s

/-- MMA (R357, R358). -/
def execMma (x : XArgs) (s : State) : Host.Outcome State Fault Refusal :=
  s.issue fun e s =>
    e.matrixOp s { srcs := [(x.a, 8), (x.b, 12)], dst := some x.dst } (tileOf (.inr x.dst)) true true noChecks fun s =>
      (.mma x.ty (e.fragment x.a 8) (e.fragment x.b 12), s)

/-- MMAS (R161, R359). -/
def execMmas (x : XArgs) (s : State) : Host.Outcome State Fault Refusal :=
  s.issue fun e s =>
    let n := if bit x.fn.toNat 0 then 8 else 16
    let nb := 12 * (32 / n)
    e.matrixOp s { srcs := [(x.a, 8), (x.b, nb), (x.c, 5)], dst := some x.dst } (tileOf (.inr x.dst)) true true noChecks
      fun s => (.mmas x.ty n (e.fragment x.a 8) (e.fragment x.b nb) (e.fragment x.c 5), s)

/-- The 32 mask rows of a tree-mode MQK, from the log in a re-execution (R363). -/
def State.maskRows (s : State) (e : Env) (a : Nat) : List Nat × State :=
  if e.replaying then s.fromLog e
  else
    let s1 := s.settleOwn e.gid (some e.g.team) a 512
    let rows := (List.range 32).map fun r => s1.num e.viewer (some e.g.team) (a + 16 * r) 12
    (rows, s1.logged e 384 rows)

/-- MQK (R217, R363). -/
def execMqk (x : XArgs) (s : State) : Host.Outcome State Fault Refusal :=
  s.issue fun e s =>
    let mode := x.fn.toNat % 4
    let c := e.scalarBase x.c
    let a := c.toNat % 2 ^ 32
    let addr : BitVec 64 := BitVec.ofNat 64 a
    let checks (s : State) (k : State → Res) : Res :=
      if mode ≠ 2 then k s
      else if a % 16 ≠ 0 then .trap .misalign addr e.lanes s
      else if e.replaying then k s
      else e.spRange s addr 512 (k s)
    e.matrixOp s { srcs := [(x.a, 8), (x.b, 12)], dst := some x.dst } (tileOf (.inr x.dst)) true true checks fun s =>
      let (rows, s1) := if mode = 2 then s.maskRows e a else ([], s)
      (.mqk x.ty mode c rows (e.fragment x.a 8) (e.fragment x.b 12), s1)

/-- MSMX (R218, R364). -/
def execMsmx (x : XArgs) (s : State) : Host.Outcome State Fault Refusal :=
  s.issue fun e s =>
    e.matrixOp s { srcs := [(x.a, 1)], dst := some x.dst, n := 3 } (tileOf (.inl x.a)) true true noChecks fun s =>
      (.msmx (bit x.fn.toNat 0) ((x.dst.num?).getD 0) e.lanes, s)

/-- MZERO (R365). -/
def execMzero (x : XArgs) (s : State) : Host.Outcome State Fault Refusal :=
  s.issue fun e s =>
    e.matrixOp s { dst := some x.dst } (tileOf (.inr x.dst)) false true noChecks fun s => (.mzero, s)

/-- b of MLDT and MSTT, exact: sA and a signed displacement (R6, R356). -/
def Env.tileBase (e : Env) (x : XArgs) : Int := (e.scalarBase x.a).toNat + (dispOf x).toInt

/-- The issue-time traps of MLDT and MSTT (R356). A re-execution takes those of its log (R244; log 57). -/
def Env.tileSpan (e : Env) (dev : Bool) (b : Int) (pitch : Nat) (s : State) (k : State → Res) : Res :=
  let addr : BitVec 64 := BitVec.ofInt 64 b
  if b % 16 ≠ 0 || pitch % 16 ≠ 0 then .trap .misalign addr e.lanes s
  else if pitch < 192 || 2 ^ 24 < pitch then .trap .access addr e.lanes s
  else if e.replaying then k s
  else if b < 0 || (if dev then 2 ^ 56 else e.gr.k.scrb) < b.toNat + 31 * pitch + 192 || (!dev && !e.t.granted) then
    .trap .access addr e.lanes s
  else k s

/-- MLDT (R354 to R356). -/
def execMldt (x : XArgs) (s : State) : Host.Outcome State Fault Refusal :=
  s.issue fun e s =>
    let dev := bit x.fn.toNat 0
    let b := e.tileBase x
    let pitch := (e.scalarBase x.b).toNat % 2 ^ 32
    e.matrixOp s { dst := some x.dst } (tileOf (.inr x.dst)) false true (e.tileSpan dev b pitch) fun s =>
      if e.replaying then
        let (vals, s1) := s.fromLog e
        (.mldt dev (BitVec.ofInt 64 b) pitch (some vals) none, s1)
      else
        let s1 := s.logged e 6144 []
        let entry : Option Nat := match s1.group? e.gid with
          | some g => (match g.audit with
            | .selected log _ => some (log.length - 1)
            | _ => none)
          | none => none
        (.mldt dev (BitVec.ofInt 64 b) pitch none entry, s1)

/-- An MSTT of a lichen half: its bytes count as held from its issue on. One that would overflow what the half may hold waits
for those before it, and is then a compare point (R250). -/
def Env.tileRoom (e : Env) (s : State) (k : State → Res) : Res :=
  if !e.holds || e.replaying then k s
  else if 16384 < s.heldBytes e.gid + 6144 && e.g.mat.any (0 < ·.toStore) then .wait .matrix s
  else e.holdRoom s 6144 k

/-- MSTT (R354 to R356). -/
def execMstt (x : XArgs) (s : State) : Host.Outcome State Fault Refusal :=
  s.issue fun e s =>
    let dev := bit x.fn.toNat 0
    let b := e.tileBase x
    let pitch := (e.scalarBase x.b).toNat % 2 ^ 32
    e.matrixOp s { srcs := [(x.c, 1)] } (tileOf (.inl x.c)) true false (fun s k => e.tileSpan dev b pitch s fun s => e.tileRoom s k)
      fun s => (.mstt dev (BitVec.ofInt 64 b) pitch, s)

/-! ### Batches (R158, R352, R353) -/

/-- Numbers of the batches that are closed and not complete. -/
def Group.openBatches (g : Group) : List Nat := (g.mat.filterMap (·.batch)).dedup

/-- Whether an MBATCH stalls: four batches are open, or the one that was the oldest when it began to stall still is (R158). -/
def Env.batchStalls (e : Env) : Bool :=
  !e.replaying && (match e.sl.oldest with
    | some b => e.g.openBatches.contains b
    | none => 4 ≤ e.g.openBatches.length)

/-- MBATCH: the operations since the previous one are the next batch; a fifth open batch stalls until the oldest completes
(R158, R353). -/
def execMbatch (d : BitVec 6) (s : State) : Host.Outcome State Fault Refusal :=
  s.issue fun e s =>
    if e.batchStalls then
      .wait .matrix (s.updSlot e fun x => { x with oldest := some (x.oldest.getD (e.g.openBatches.foldl min e.g.closed)) })
    else
      let n := e.g.closed + 1
      let s1 := s.upd e fun g => { g with
        closed := n
        mat := g.mat.map fun o => if o.batch = none then { o with batch := some n } else o
        matErr := g.matErr.map fun r => if r.batch = none then { r with batch := some n } else r }
      let (v, s2) := s1.outside e 8 n
      (s2.putS e d (BitVec.ofNat 64 v)).orUndo s

/-- Whether a batch number is one of 1 to n. -/
def batchWithin (n : Nat) : Option Nat → Bool
  | some b => b ≤ n
  | none => false

/-- MWAIT: every operation of batches 1 to sA is complete; then their first error traps and is consumed (R158, R353). -/
def execMwait (a : BitVec 6) (s : State) : Host.Outcome State Fault Refusal :=
  s.issue fun e s =>
    let n := (e.s a).toNat
    if e.g.closed < n then e.trap .illop s
    else if e.replaying then passOn e s
    else if e.g.mat.any fun o => batchWithin n o.batch then .wait .matrix s
    else match e.g.matErr.find? fun r => batchWithin n r.batch with
      | some r => e.matTrap s r
      | none => passOn e s

end Sys2Proof.Machine
end

