-- ==== Sys2Proof/Machine/Keys.lean ====
section
/-! DEFINITION. Keys, bindings and fences (R169 to R175, R180, R291, R303, R334, R382). -/

namespace Sys2Proof.Machine

/-- The scope of a key by its space code (R169). -/
def keyScope (space : BitVec 2) : Scope := if space = 0 then .device else if space = 1 then .team else .pod

/-- The key that an instruction names (R169). -/
def Env.keyOf (e : Env) (space : BitVec 2) (a : BitVec 64) : KeyId :=
  { space, team := if space = 1 then e.g.team else 0, addr := a }

/-- A key operation at the module that keeps the key's state: this one, or a pod-scope key's home, which `remote` is told
(R169, R205). One already sent is answered wherever its home is. -/
def Env.atHome (e : Env) (s : State) (k : KeyId) (remote : Nat → State → Res) (here : State → Res) : Res :=
  if e.sl.sent then remote 0 s
  else if k.space ≠ 2 then here s
  else match s.destination e.cid e.c e.t.core k.addr.toNat with
    | none => .trap .access k.addr e.lanes s
    | some n =>
      if n ≠ s.node then remote n s
      else match s.translateAt e.cid e.c k.addr.toNat 0 with
        | (.remote m, s1) => remote m s1
        | (.deferred, s1) => .wait (.budget 3) s1
        | (_, s1) => here s1

/-- Whether n bytes from an address lie in a key's space (R139). -/
def Env.inSpace (e : Env) (space : BitVec 2) (a n : Nat) : Bool :=
  a + n ≤ (if space = 1 then e.gr.k.scrb else 2 ^ 56)

/-- Whether a request can be granted beside the present holders (R172). -/
def Key.grantable (x : Key) (ex : Bool) : Bool := if ex then x.holders = [] else x.holders.all (!·.2)

/-- A holder taken in. This grant is the one that reports what a holder abandoned (R180; log 36). -/
def Key.take (x : Key) (who : Nat) (ex : Bool) : Key :=
  { x with holders := x.holders ++ [(who, ex)], abandoned := false }

/-- Sectors bound to a key, as its home tells them: first, and how many. -/
def bindBytes (l : List (Nat × Nat)) : List Byte := l.flatMap fun b => leBytes 8 b.1 ++ leBytes 8 b.2

/-- Sectors read from what a home tells. -/
def bindsOf (bs : List Byte) : List (Nat × Nat) :=
  (List.range (bs.length / 16)).map fun i => (leNat ((bs.drop (16 * i)).take 8), leNat ((bs.drop (16 * i + 8)).take 8))

/-- The sectors bound to a key that another module keeps, as that module tells them (R170, R173, R182; log 125). -/
def State.knowBinds (s : State) (cid : Nat) (k : KeyId) (l : List (Nat × Nat)) : State :=
  s.modCtx cid fun c => { c with farBinds := (c.farBinds.filter fun b => b.1 ≠ k) ++ l.map fun b => (k, b) }

/-- The same from the bytes of an answer; an answer without them tells nothing. -/
def State.learnBinds (s : State) (cid : Nat) (k : KeyId) (bs : List Byte) : State :=
  if bs = [] then s else s.knowBinds cid k (bindsOf bs)

/-- A key operation at another home: sent once, and then what the home answered (R169, R205). -/
def Env.remoteKey (e : Env) (s : State) (node : Nat) (k : KeyId) (req : BitVec 2) (base len : BitVec 64)
    (done : Nat → State → Res) : Res :=
  if e.sl.sent && s.fabOut.any (fun o => o.gid = e.gid && o.slot = e.slot && o.eng.isNone) then .wait .key s
  else match e.sl.sent, e.sl.reps with
    | true, (_, r) :: _ =>
      let s1 := s.updSlot e fun sl => { sl with sent := false, reps := [] }
      match repTrap r with
      | some c => .trap c k.addr e.lanes s1
      | none => done (leNat ((repBytes r).take 8)) (s1.learnBinds e.cid k ((repBytes r).drop 8))
    | _, _ =>
      if !s.admits e.c.vf 1 then .wait (.budget 1) s
      else
        let r : FabReq := { node := s.node, id := s.nextId, ctxid := e.cid, va := k.addr, kind := .key req e.gid base len, hops := 0 }
        let s1 := (s.charge e.c.vf 1 128).sendOut { id := s.nextId, gid := e.gid, slot := e.slot, idx := 0, dest := node, req := r }
        .wait .key (s1.updSlot e fun sl => { sl with sent := true })

/-- A request's place in the queue of a local key. -/
def State.queueKey (s : State) (e : Env) (k : KeyId) (ex bind : Bool) : Res :=
  .wait .key (s.modCtx e.cid fun c => c.modKey k fun x =>
    { x with queue := x.queue ++ [{ who := e.gid, slot := e.slot, ex, bind }] })

/-- The key enters those the group holds, and the status goes to sD. -/
def Env.keyTaken (e : Env) (s : State) (k : KeyId) (ex : Bool) (d : BitVec 6) (status : Nat) : Res :=
  let s1 := s.upd e fun g => { g with keys := g.keys ++ [k], exKeys := if ex then g.exKeys ++ [k] else g.exKeys }
  let (v, s2) := s1.outside e 8 status
  (s2.putS e d (BitVec.ofNat 64 v)).orUndo s

/-- ACQ (R172, R291). A pod key is tested for a binding at the issue, not again at the grant, where an UNBIND may have gone before:
R172 does not say when (DESIGN CHOICE, log 137). -/
def execAcq (d a : BitVec 6) (space : BitVec 2) (ex : Bool) (s : State) : Host.Outcome State Fault Refusal :=
  s.issue fun e s =>
    let k := e.keyOf space (e.s a)
    if k.addr.toNat % 8 ≠ 0 then .trap .misalign k.addr e.lanes s
    else if e.replaying then
      let (v, s1) := s.outside e 8 0
      (s1.putS e d (BitVec.ofNat 64 v)).orUndo s
    else match e.sl.granted with
      | some v => e.keyTaken s k ex d v.toNat
      | none =>
        if e.g.keys.contains k || 8 ≤ e.g.keys.length || !e.inSpace space k.addr.toNat 8 then .trap .access k.addr e.lanes s
        else e.atHome s k (fun n s => e.remoteKey s n k (if ex then 1 else 0) 0 0 fun v s1 => e.keyTaken s1 k ex d v) fun s =>
          let x := e.c.key k
          if x.queue.any (fun q => q.who = e.gid && q.slot = e.slot) then .wait .key s
          else if !e.c.binds.any (fun b => b.1 = k) then .trap .access k.addr e.lanes s
          else if x.queue = [] && x.grantable ex then
            e.keyTaken (s.modCtx e.cid fun c => c.modKey k fun x => x.take e.gid ex) k ex d x.abandoned.toNat
          else s.queueKey e k ex false

/-- Bytes that a lane's fabric operation may touch. -/
def FabKind.extent : FabKind → Nat
  | .read n _ => n
  | .write bs => bs.length
  | .typedRead n _ => 4 * n
  | .typedWrite vals _ => 4 * vals.length
  | _ => 8

/-- Whether n bytes from an address touch a sector that is bound to a key. -/
def Ctx.bindsTo (c : Ctx) (k : KeyId) (a n : Nat) : Bool :=
  c.allBinds.any fun b => b.1 = k && b.2.1 ≤ (a + n - 1) / 32 && a / 32 < b.2.1 + b.2.2

/-- Whether every access that the group issued to the key's bound sectors, by a context's bindings, is performed at the key's
scope (R173). Those of a key kept by another module are the ones that its home told with the grant (log 125). -/
def State.relSettled (s : State) (e : Env) (c : Ctx) (k : KeyId) : Bool :=
  s.settledIn e.gid (keyScope k.space)
    (fun p => (if k.space = 1 then p.sp = some k.team else p.sp = none) && c.bindsTo k p.va p.bytes.length)
    (fun o => k.space ≠ 1 && c.bindsTo k o.req.va.toNat (FabKind.extent o.req.kind))

/-- REL: every earlier access to the key's bound sectors performed at the key's scope, then the key given up (R173, R382). A REL
of a lichen half that is no compare point leaves what the half holds held, in the order that a release gives it (logs 128, 139). -/
def execRel (a : BitVec 6) (space : BitVec 2) (s : State) : Host.Outcome State Fault Refusal :=
  s.issue fun e s =>
    let k := e.keyOf space (e.s a)
    let drop (s : State) : Res :=
      passOn e (((s.fenceHeld e.gid (keyScope space)).release e.gid (keyScope space)).upd e fun g =>
        { g with keys := g.keys.filter (· ≠ k), exKeys := g.exKeys.filter (· ≠ k) })
    let go (s : State) : Res :=
      if !e.sl.sent && !s.relSettled e e.c k then .wait (s.behind e.gid) s
      else e.atHome s k (fun n s => e.remoteKey s n k 3 0 0 fun _ s1 => drop s1) fun s =>
        drop (s.modCtx e.cid fun c => c.modKey k fun x => x.drop e.gid false)
    if k.addr.toNat % 8 ≠ 0 then .trap .misalign k.addr e.lanes s
    else if e.replaying then passOn e s
    else if !e.g.keys.contains k then .trap .access k.addr e.lanes s
    else if e.otherLive || e.g.depth ≠ 0 then go s
    else e.compare s go

/-! ### Bindings (R170, R171) -/

/-- First sector and number of sectors of a region. -/
def regionSectors (base len : Nat) : Nat × Nat := (base / 32, (base + len - 1) / 32 + 1 - base / 32)

/-- Whether two keys name regions of one space of addresses: scratchpad of one team, or virtual addresses. -/
def sameSpace (a b : KeyId) : Bool := if a.space = 1 || b.space = 1 then a.space = b.space && a.team = b.team else true

/-- Bindings of a VF's contexts. -/
def State.vfBinds (s : State) (vf : Nat) : Nat :=
  (s.ctxs.filter fun p => p.2.vf = vf).foldl (fun n p => n + p.2.binds.length) 0

/-- Whether a region may be bound to a key: no sector bound to another key, and room in the table, which the
context's 4,096 and the VF's grant bound (R169, R170, log 36). -/
def State.bindFits (s : State) (c : Ctx) (k : KeyId) (base len : Nat) : Bool :=
  let (lo, n) := regionSectors base len
  !(c.binds.any fun b => b.1 ≠ k && sameSpace b.1 k && lo < b.2.1 + b.2.2 && b.2.1 < lo + n)
    && c.binds.length < 4096 && s.vfBinds c.vf < (s.vf c.vf).bindn

/-- A binding added, or every binding of the key removed where len is 0; none where the region does not fit or the
key has no binding. -/
def State.rebind (s : State) (cid : Nat) (k : KeyId) (base len : Nat) : Option State :=
  match s.ctx? cid with
  | none => none
  | some c =>
    if len = 0 then
      (if c.binds.any fun b => b.1 = k then some (s.setCtx cid { c with binds := c.binds.filter fun b => b.1 ≠ k }) else none)
    else if s.bindFits c k base len then some (s.setCtx cid { c with binds := c.binds ++ [(k, regionSectors base len)] })
    else none

/-- The other modules that the pages of a key's sectors lie on, by the context's route table. -/
def State.bindNodes (s : State) (c : Ctx) (l : List (Nat × Nat)) : List Nat :=
  ((l.flatMap fun b => (List.range ((b.1 + b.2 - 1) / 2048 + 1 - b.1 / 2048)).filterMap fun i =>
    s.route c ((b.1 / 2048 + i) * 65536)).filter (· ≠ s.node)).dedup

/-- The sectors bound to a key. -/
def Ctx.boundTo (c : Ctx) (k : KeyId) : List (Nat × Nat) := (c.binds.filter fun b => b.1 = k).map (·.2)

/-- What the home of a key answers to a request that is granted: the status, and the sectors bound to the key (R172; log 125). -/
def State.keyAnswer (s : State) (cid : Nat) (k : KeyId) (status : Nat) : List Byte :=
  leBytes 8 status ++ bindBytes (((s.ctx? cid).map fun c => c.boundTo k).getD [])

/-- The modules where sectors of a pod-scope key lie are told its bindings after a BIND or an UNBIND, `l` having been bound
before it, so that their race detectors know them (R170, R182; log 125). -/
def State.tellBinds (s : State) (cid : Nat) (k : KeyId) (l : List (Nat × Nat)) : State :=
  match s.ctx? cid with
  | none => s
  | some c =>
    if k.space ≠ 2 then s
    else (s.bindNodes c (l ++ c.boundTo k)).foldl (fun s n => s.sendFor c.vf n
      { node := s.node, id := 0, ctxid := cid, va := k.addr, kind := .keyBinds (c.boundTo k), hops := 0 }) s

/-- BIND, or UNBIND where `region` is none: as an exclusive request (R170, R171, R303). A grant that had to be
waited for holds the key until the instruction takes effect. A completed BIND orders as a REL and an ACQ: what the group stored to
the sectors bound before it, and to those of its region, is performed at the key's scope first (R303). -/
def Env.bindOp (e : Env) (s : State) (k : KeyId) (region : Option (BitVec 64 × BitVec 64)) : Res :=
  let (base, len) := region.getD (0, 0)
  let bad (s : State) : Res := .trap .access k.addr e.lanes s
  let effect (s : State) : Res := match s.rebind e.cid k base.toNat len.toNat with
    | some s1 => passOn e (s1.tellBinds e.cid k (e.c.boundTo k))
    | none => bad s
  -- the bindings that the orders of the instruction cover
  let c : Ctx := match region with
    | some (b, l) => { e.c with binds := e.c.binds ++ [(k, regionSectors b.toNat l.toNat)] }
    | none => e.c
  let range : Bool := match region with
    | some (b, l) => l ≠ 0 && l.toNat ≤ 2 ^ 32 && e.inSpace k.space b.toNat l.toNat
    | none => true
  if k.addr.toNat % 8 ≠ 0 then .trap .misalign k.addr e.lanes s
  else if !range || !e.inSpace k.space k.addr.toNat 8 then bad s
  else e.atHome s k
    (fun n s => if !e.sl.sent && !s.relSettled e c k then .wait (s.behind e.gid) s
      else e.remoteKey s n k 2 base len fun _ s1 => passOn e (if region.isNone then s1.knowBinds e.cid k [] else s1))
    fun s =>
      let x := e.c.key k
      let free (s : State) : State := s.modCtx e.cid fun c => c.modKey k fun x => x.drop e.gid false
      if e.sl.granted.isSome then effect (free s)
      else if x.queue.any (fun q => q.who = e.gid && q.slot = e.slot) then .wait .key s
      else if (s.rebind e.cid k base.toNat len.toNat).isNone || x.holders.contains (e.gid, false) then bad s
      else if !s.relSettled e c k then .wait (s.behind e.gid) s
      else if x.holders.contains (e.gid, true) || (x.queue = [] && x.grantable true) then effect s
      else s.queueKey e k true true

/-- BIND (R170, R303). -/
def execBind (k a b : BitVec 6) (space : BitVec 2) (s : State) : Host.Outcome State Fault Refusal :=
  s.issue fun e s => e.skipList s mirrorNone fun e s => e.bindOp s (e.keyOf space (e.s k)) (some (e.s a, e.s b))

/-- UNBIND (R171, R303). -/
def execUnbind (k : BitVec 6) (space : BitVec 2) (s : State) : Host.Outcome State Fault Refusal :=
  s.issue fun e s => e.skipList s mirrorNone fun e s => e.bindOp s (e.keyOf space (e.s k)) none

/-! ### Fences (R175) -/

/-- FENCE: a full or release fence waits for every earlier access, and opens an interval (R175, R181, R334). Earlier
loads of this module's memory are performed when they issue, so an acquire fence waits for atomics whose writes are short of
its scope, and for what is still under way in the fabric. What a lichen half holds keeps the order when it is released (log 128). -/
def execFence (kind : Sys2Proof.Ord) (scope : Scope) (s : State) : Host.Outcome State Fault Refusal :=
  s.issue fun e s =>
    if e.replaying then passOn e s
    else if kind = .acq then
      (if s.settledIn e.gid scope (·.atomic) fun _ => true then passOn e (s.fenceHeld e.gid scope true) else .wait (s.behind e.gid) s)
    else if s.settledAt e.gid scope then passOn e ((s.fenceHeld e.gid scope).release e.gid scope)
    else .wait (s.behind e.gid) s

end Sys2Proof.Machine
end

