-- ==== Sys2Proof/Machine/Barriers.lean ====
section
/-! DEFINITION. Team barriers (R192, R299, R300), and the register allotment (R25 to R30, R292). -/

namespace Sys2Proof.Machine

/-- The checks of an arrival, all ILLOP (R300). -/
def Env.barOk (e : Env) (n c : Nat) : Bool :=
  1 ≤ c && c ≤ 16 && c ≤ e.gr.k.gpt && !e.otherLive && e.g.depth = 0
    && (match Map.get? e.t.bars n with
      | some b => b.expect = c
      | none => true)

/-- An arrival counted: the phase's first one fixes the count and starts its watchdog (R300, R273). -/
def State.arrive (s : State) (e : Env) (n c : Nat) : State :=
  let s1 := s.release e.gid .team
  s1.modTeam e.g.team fun t =>
    let b : Barrier := match Map.get? t.bars n with
      | some b => b
      | none => { expect := c, t0 := s.cycle, period := e.c.bwto }
    { t with bars := Map.set t.bars n { b with arrived := b.arrived ++ [e.g.no] } }

/-- The status written to sD, and the unit done. -/
def Env.barDone (e : Env) (s : State) (d : BitVec 6) (status : Nat) : Res :=
  let (v, s1) := s.outside e 8 status
  (s1.putS e d (BitVec.ofNat 64 v)).orUndo s

/-- BAR, sync (R192, R299, R300). -/
def execBar (d : BitVec 6) (n : BitVec 4) (c : BitVec 5) (s : State) : Host.Outcome State Fault Refusal :=
  s.issue fun e s =>
    match e.sl.granted, e.sl.wait with
    | some v, _ => e.barDone s d v.toNat
    | none, .bar _ _ => .wait (.bar n.toNat d) s
    | none, _ =>
      if !e.barOk n.toNat c.toNat then e.trap .illop s
      else if e.replaying then e.barDone s d 0
      else e.compare s fun s =>
        if !s.settledAt e.gid .team then .wait (s.behind e.gid) s
        else .ok (((s.arrive e n.toNat c.toNat).updSlot e fun sl => { sl with wait := .bar n.toNat d }).barCheck e.g.team n.toNat)

/-- BAR.arrive: an arrival that does not wait (R299). -/
def execBarArrive (d : BitVec 6) (n : BitVec 4) (c : BitVec 5) (s : State) : Host.Outcome State Fault Refusal :=
  s.issue fun e s =>
    if !e.barOk n.toNat c.toNat then e.trap .illop s
    else if e.replaying then e.barDone s d 0
    else e.compare s fun s =>
      if !s.settledAt e.gid .team then .wait (s.behind e.gid) s
      else e.barDone ((s.arrive e n.toNat c.toNat).barCheck e.g.team n.toNat) d 0

/-! ### The register allotment -/

/-- A grant of the full allotment: the boundary is V, registers from P on and all tiles are dead (R26). -/
def Group.grant (g : Group) (k : Kernel) : Group :=
  { g with
    full := true, bound := k.freg
    regs := { g.regs.kill ((List.range (k.freg - k.preg)).map (k.preg + ·)) with tdead := -1 } }

/-- The team's first full grant opens its scratchpad, all granules EMPTY (R25, R142). Bytes that this context wrote last on
the core are free values, others read 0 (R193, log 15). -/
def State.openScratch (s : State) (tid : Nat) : State :=
  match s.team? tid with
  | none => s
  | some t => match s.grid? t.grid with
    | none => s
    | some gr =>
      if t.granted then s
      else
        let (n, s1) := s.takeFree
        let mine := (s.core t.core).spLast.filterMap fun p => if p.2 = gr.ctx then spanOffset t.spans p.1 0 else none
        s1.setTeam tid { t with granted := true, stale := n, mine, sp := [], full := [] }

/-- Slots free in a partition's pool. -/
def Part.pool (p : Part) : Nat := Config.poolSlots - p.used

/-- The full allotment taken from the pool. -/
def State.grantFull (s : State) (gid : Nat) : State :=
  match s.group? gid with
  | none => s
  | some g => match s.team? g.team with
    | none => s
    | some t => match s.grid? t.grid with
      | none => s
      | some gr =>
        let s1 := s.modPart t.core g.part fun p => { p with used := p.used + (gr.k.fullSlots - g.held gr.k) }
        (s1.setGroup gid (g.grant gr.k)).openScratch g.team

/-- ACQR (R26, R292). -/
def execAcqr (s : State) : Host.Outcome State Fault Refusal :=
  s.issue fun e s =>
    if e.g.full then passOn e s
    else if e.replaying then
      passOn e ((s.upd e fun g => g.grant e.gr.k).modTeam e.g.team fun t => { t with granted := true })
    else
      let p := s.part e.t.core e.g.part
      if p.acqr.any fun q => q.1 = e.gid && q.2 = e.slot then .wait .acqr s
      else if p.acqr = [] && e.gr.k.fullSlots - e.gr.k.preg ≤ p.pool then passOn e (s.grantFull e.gid)
      else .wait .acqr (s.modPart e.t.core e.g.part fun p => { p with acqr := p.acqr ++ [(e.gid, e.slot)] })

/-- Registers that a load of the group is still to write. -/
def Env.loading (e : Env) : List Nat :=
  (e.g.loads.map fun l => (List.range l.vals.length).map (l.reg + ·)).flatten ++ (e.g.slot (!e.slot)).dest

/-- The first unreported error of operations on tiles from `t` on (R352). -/
def Env.tileError (e : Env) (s : State) (t : Nat) (k : State → Res) : Res :=
  match e.g.matErr.find? fun r => t ≤ r.tile with
  | some r => e.matTrap s r
  | none => k s

/-- RELA (R27, R352). The boundary is P again: registers that a SETB had put above it keep what they held (log 111). -/
def execRela (s : State) : Host.Outcome State Fault Refusal :=
  s.issue fun e s =>
    let k := e.gr.k
    if !e.g.full then passOn e s
    else if e.g.mat ≠ [] then .wait .matrix s
    else if e.loading.any (k.preg ≤ ·) then .wait .loads s
    else e.tileError s 0 fun s =>
      let s1 := s.upd e fun g => { g with full := false, bound := k.preg }
      passOn e (if e.replaying then s1
        else s1.modPart e.t.core e.g.part fun p => { p with used := p.used - (k.fullSlots - k.preg) })

/-- SETB (R30). -/
def execSetb (d : BitVec 6) (n : BitVec 10) (s : State) : Host.Outcome State Fault Refusal :=
  s.issue fun e s =>
    let k := e.gr.k
    let b := n.toNat
    let tiles := e.g.tileCount k
    let after := min 16 ((k.fullSlots - b) / 16)
    if 256 < b || k.fullSlots < b || !e.g.full then e.trap .illop s
    else if e.g.mat.any fun o => after ≤ o.tile then .wait .matrix s
    else if e.loading.any (b ≤ ·) then .wait .loads s
    else e.tileError s after fun s =>
      let s1 := s.upd e fun g => { g with
        bound := b
        regs := { g.regs.kill ((List.range (b - g.bound)).map (g.bound + ·)) with
          tdead := (List.range (after - tiles)).foldl (fun m i => m ||| (1#16 <<< (tiles + i))) g.regs.tdead } }
      (s1.putS e d (BitVec.ofNat 64 e.g.bound)).orUndo s

end Sys2Proof.Machine
end

