-- ==== Sys2Proof/Machine/Launch.lean ====
section
/-! DEFINITION. Launch records, kernel headers, dependences, event counters, LAUNCH and EVSIG (R19 to R23, R32, R33,
R112, R113, R326, R342, R416). -/

namespace Sys2Proof.Machine

/-! ### Launch records (R19) -/

def lrKhdr (r : Nat) : Nat := bits r 63 0
def lrArgs (r : Nat) : Nat := bits r 127 64
def lrTeams (r : Nat) : Nat := bits r 159 128
def lrPrio (r : Nat) : Nat := bits r 162 160
def lrNdep (r : Nat) : Nat := bits r 165 163
def lrCsig (r : Nat) : Bool := bit r 166
def lrCctr (r : Nat) : Nat := bits r 255 192
/-- Dependences 0 to NDEP - 1: counter address and target. -/
def lrDeps (r : Nat) : List (BitVec 64 × BitVec 64) :=
  (List.range (lrNdep r)).map fun i =>
    (BitVec.ofNat 64 (bits r (319 + 128 * i) (256 + 128 * i)), BitVec.ofNat 64 (bits r (383 + 128 * i) (320 + 128 * i)))

/-- The checks of a launch record (R22). -/
def lrOk (r : Nat) : Bool :=
  bits r 1023 768 = 0 && bits r 191 167 = 0 && lrNdep r ≤ 4 && 1 ≤ lrTeams r && lrTeams r ≤ 2 ^ 24
    && lrKhdr r % 64 = 0 && (!lrCsig r || lrCctr r % 8 = 0) && (lrDeps r).all fun d => d.1.toNat % 8 = 0

/-! ### Kernel headers (R112, R113) -/

/-- The fields of a header at an address. -/
def kernelOf (hdr : BitVec 64) (h : Nat) : Kernel :=
  { hdr, mdef0 := BitVec.ofNat 64 (bits h 245 224), dstko := bits h 223 192, dsb := bits h 191 160, scrb := bits h 159 128
    pair := bit h 117, audit := bit h 116, maxn := bits h 115 112, gpt := bits h 111 104, tiles := bits h 103 96
    freg := bits h 95 80, preg := bits h 79 64, entry := bits h 63 32 }

/-- The checks of a header for a launch with these arguments (R113). -/
def kernelOk (c : Ctx) (args h : Nat) : Bool :=
  let k := kernelOf 0 h
  bits h 511 256 = 0 && bits h 255 246 = 0 && bits h 127 118 = 0 && bits h 31 0 = 3
    && k.mdef0.toNat % 4096 = 0 && (prefixOf (bits k.mdef0.toNat 21 12)).isSome
    && k.dstko % 16 = 0 && k.dsb % 16 = 0 && k.scrb % 16 = 0 && k.scrb ≤ 393216
    && k.maxn ≤ 9 && 1 ≤ k.gpt && k.gpt ≤ 16 && k.tiles ≤ 16
    && 1 ≤ k.preg && k.preg ≤ k.freg && k.freg ≤ 256 && k.entry % 4 = 0 && 64 ≤ k.entry
    && (!k.pair || c.pairok) && (k.dsb = 0 || args % 16 = 0)

/-! ### Event counters (R23, R32, R33) -/

/-- The physical address of a counter of a context, when this module homes it. -/
def State.counterAt (s : State) (cid : Nat) (va : BitVec 64) : Option Nat :=
  if va.toNat / 2 ^ 56 ≠ 0 then none
  else match s.ctx? cid with
    | none => none
    | some c => match (s.walk c va.toNat).1.use c cid va.toNat 0 with
      | .ok pa _ => some pa
      | _ => none

/-- Whether a counter holds at least a target now; one that cannot be read does not. -/
def State.counterMet (s : State) (cid : Nat) (va target : BitVec 64) : Bool :=
  match s.counterAt cid va with
  | some pa => target.toNat ≤ s.num .module none pa 8
  | none => false

/-- An evaluation of a counter: the walk that it takes is charged, and waits where the budget of walks is spent (R66, R198;
log 112). -/
def State.counterLook (s : State) (cid : Nat) (va target : BitVec 64) : Option Bool × State :=
  match s.ctx? cid with
  | none => (some false, s)
  | some c => if !s.admits c.vf 3 then (none, s) else (some (s.counterMet cid va target), s.charge c.vf 3 1)

/-- Dependences evaluated: those that are not met, whether the budget deferred some, and the state (R23). -/
def State.lookDeps (s : State) (cid : Nat) : List (BitVec 64 × BitVec 64) → List (BitVec 64 × BitVec 64) × Bool × State
  | [] => ([], false, s)
  | d :: rest =>
    let (met, s1) := s.counterLook cid d.1 d.2
    let (l, late, s2) := s1.lookDeps cid rest
    (if met = some true then l else d :: l, late || met.isNone, s2)

/-- Counters of a VF in use, by context and address (R33). -/
def State.countersInUse (s : State) (vf : Nat) : List (Nat × BitVec 64) :=
  let ofVf (cid : Nat) : Bool := match s.ctx? cid with
    | some c => c.vf = vf
    | none => false
  let launches := (s.grids.map fun p => if ofVf p.2.ctx then p.2.deps.map fun d => (p.2.ctx, d.1) else []).flatten
  let waiters := s.groups.filterMap fun p => match p.2.life with
    | .suspended r => match s.ctxOf p.2 with
      | some cid => if ofVf cid && !r.met then some (cid, r.counter) else none
      | none => none
    | _ => none
  (launches ++ waiters).dedup

/-- Whether counters of a context fit the VF's event-counter table beside those in use (R33). -/
def State.countersFit (s : State) (cid vf : Nat) (cs : List (BitVec 64)) : Bool :=
  let used := s.countersInUse vf
  let new := (cs.dedup).filter fun a => !used.contains (cid, a)
  used.length + new.length ≤ (s.vf vf).evcn

/-- A grid whose dependences hold enters its FIFO when that has room (R23, R60); a host launch's STAT is then written (R282). -/
def State.enqueueGrid (s : State) (gid : Nat) : State :=
  match s.grid? gid with
  | none => s
  | some g =>
    if g.queued || g.deps ≠ [] then s
    else match s.ctx? g.ctx with
      | none => s
      | some c =>
        let q := c.fifos.getD g.prio []
        if 4096 ≤ q.length then s
        else
          let s1 := (s.setCtx g.ctx { c with fifos := c.fifos.set g.prio (q ++ [gid]) }).setGrid gid { g with queued := true, stat := none }
          match g.stat with
          | some a => s1.modWriteNum a.toNat 8 g.id.toNat
          | none => s1

/-- The unmet dependences of a launch read afresh (R23). -/
def State.evalGrid (s : State) (gid : Nat) : State :=
  match s.grid? gid with
  | none => s
  | some g =>
    let (deps, look, s1) := s.lookDeps g.ctx g.deps
    (s1.setGrid gid { g with deps, look }).enqueueGrid gid

/-- A suspended group's counter evaluated (R34). -/
def State.evalGroup (s : State) (gid : Nat) : State :=
  match s.group? gid with
  | none => s
  | some g => match g.life, s.ctxOf g with
    | .suspended r, some cid =>
      let (met, s1) := s.counterLook cid r.counter r.target
      s1.setGroup gid { g with life := .suspended { r with met := r.met || met = some true, look := met.isNone } }
    | _, _ => s

/-- Evaluations that the budget of walks deferred are made (R66). -/
def State.lookAgain (s : State) : State :=
  let s1 := (s.grids.filter (·.2.look)).foldl (fun s p => s.evalGrid p.1) s
  (s1.groups.filter fun p => match p.2.life with
    | .suspended r => r.look
    | _ => false).foldl (fun s p => s.evalGroup p.1) s1

/-- A counter word was changed by a signal: launches with unmet dependences that name it, in a met one too, and suspended
groups that wait on it are evaluated (R23, R34). -/
def State.signalled (s : State) (pa : Nat) : State :=
  let names (cid : Nat) (va : BitVec 64) : Bool := s.counterAt cid va = some pa
  let s1 := (s.grids.filter fun p => p.2.deps ≠ [] && p.2.counters.any fun a => names p.2.ctx a).foldl (fun s p => s.evalGrid p.1) s
  (s1.groups.filter fun p => match p.2.life with
    | .suspended r => (s1.ctxOf p.2).any fun cid => names cid r.counter
    | _ => false).foldl (fun s p => s.evalGroup p.1) s1

/-- An atomic addition to a counter word, performed at device scope and then signalled; the new value. `by`: the
group that adds, or 0. -/
def State.addCounter (s : State) (gid team core pa : Nat) (x : BitVec 64) : BitVec 64 × State :=
  let s1 := s.settleBytes none pa 8 .pod
  let v := BitVec.ofNat 64 (s1.num .pod none pa 8) + x
  (v, (s1.addStore gid team core none pa (leBytes 8 v.toNat) .device false).signalled pa)

/-- An addition of 1 that Crozier, the Sporangium or a retiring grid makes, to be performed (R416). -/
def State.addSignal (s : State) (g : Signal) : State := { s with signals := s.signals ++ [g] }

/-! ### Acceptance of a launch (R21 to R23) -/

/-- What a launch comes from: its level, DEPTH, remaining nesting and parent, the record's address, and TEAMS. -/
structure LaunchFrom where
  ctx : Nat
  lrec : BitVec 64
  depth : Nat
  nest : Option Nat                        -- parent's remaining nesting; none at depth 1
  parent : Option Nat
  after : Option (Nat × Nat) := none
  step : Option (Nat × Nat × Nat) := none
  prio : Option Nat := none                -- the level, where it is not the record's
  teams : Option Nat := none
  slots : List Nat := []
  table : Map (BitVec 128) := []
  keys : Map Nat := []                     -- KEY of the step's requests
  stepNo : Nat := 0
  commit : Bool := false
  stat : Option (BitVec 64) := none

/-- The grid that a record and header make. -/
def gridOf (f : LaunchFrom) (id : BitVec 32) (r h : Nat) (deps : List (BitVec 64 × BitVec 64)) : Grid :=
  let k := kernelOf (BitVec.ofNat 64 (lrKhdr r)) h
  { ctx := f.ctx, id, lrec := f.lrec, args := BitVec.ofNat 64 (lrArgs r), prio := f.prio.getD (lrPrio r)
    teams := f.teams.getD (lrTeams r), deps, counters := (lrDeps r).map (·.1), cctr := if lrCsig r then some (BitVec.ofNat 64 (lrCctr r)) else none, k
    depth := f.depth, nest := match f.nest with
      | some n => min (n - 1) k.maxn
      | none => k.maxn
    parent := f.parent, after := f.after, step := f.step, slots := f.slots, table := f.table, keys := f.keys, stepNo := f.stepNo, commit := f.commit
    stat := f.stat }

/-- The GRIDID of a context's next grid, as a number: the first one from the next on that no live grid of it has (R18). -/
def State.gridId (s : State) (cid : Nat) : Nat :=
  let live (n : Nat) : Bool := s.grids.any fun p => p.2.ctx = cid && p.2.id = BitVec.ofNat 32 n
  s.nextGrid + ((List.range (s.grids.length + 1)).find? fun k => !live (s.nextGrid + k)).getD 0

/-- The status of a launch whose record and header have been read, and the state with the new grid when it is 0:
1 record, 2 header, 3 FIFO full, 4 event-counter table full (R22). The looks at its dependences are charged walks (R198). -/
def State.launch (s : State) (c : Ctx) (f : LaunchFrom) (r h : Nat) : Nat × Nat × State :=
  if !lrOk r then (1, 0, s)
  else if !kernelOk c (lrArgs r) h then (2, 0, s)
  else if 4096 ≤ (c.fifos.getD (f.prio.getD (lrPrio r)) []).length then (3, 0, s)
  else
    let unmet := (lrDeps r).filter fun d => !s.counterMet f.ctx d.1 d.2
    let s := s.charge c.vf 3 (lrDeps r).length
    if !s.countersFit f.ctx c.vf (unmet.map (·.1)) then (4, 0, s)
    else
      let n := s.nextId
      let id := s.gridId f.ctx
      let g := gridOf f (BitVec.ofNat 32 id) r h unmet
      (0, n, ({ s with nextId := n + 1, nextGrid := id + 1 }.setGrid n g).enqueueGrid n)

/-- What LAUNCH writes to sD (R22). -/
def launchStatus (status : Nat) (id : BitVec 32) : BitVec 64 :=
  if status = 0 then id.setWidth 64 else 0x8000000000000000#64 + BitVec.ofNat 64 status

/-- LAUNCH (R21, R22, R342). It waits where the budget defers the looks at its dependences (R66). -/
def execLaunch (d a : BitVec 6) (s : State) : Host.Outcome State Fault Refusal :=
  s.issue fun e s =>
    let va := e.s a
    if e.g.no ≠ 0 then e.trap .illop s
    else if va.toNat % 128 ≠ 0 then .trap .misalign va e.lanes s
    else e.skipList s (mirrorS d e.gid) fun e s =>
      s.loadPieces e false va.toNat 2 [] fun bs s1 =>
        let r := leNat bs
        let finish (h : Nat) (s1 : State) : Res :=
          if e.gr.nest = 0 || e.gr.depth = 10 then e.trap .depth s1
          else if lrOk r && lrDeps r ≠ [] && !s1.admits e.c.vf 3 then .wait (.budget 3) s1
          else
            let f : LaunchFrom := { ctx := e.cid, lrec := va, depth := e.gr.depth + 1, nest := some e.gr.nest
                                    parent := some e.t.grid, after := some (e.gid, s1.nextId) }
            let id := BitVec.ofNat 32 (s1.gridId e.cid)
            let (status, _, s2) := s1.launch e.c f r h
            (s2.putS e d (launchStatus status id)).orUndo s
        if !lrOk r then finish 0 s1
        else s1.loadNum e (lrKhdr r) 64 finish

/-- EVSIG (R32, R326). The addition is charged when it is performed (R65). -/
def execEvsig (d a b : BitVec 6) (s : State) : Host.Outcome State Fault Refusal :=
  s.issue fun e s => e.skipList s (mirrorS d e.gid) fun e s =>
    let va := e.s a
    let add (pa : Nat) (s : State) : Res :=
      if !s.settledAt e.gid .device then .wait (s.behind e.gid) s
      else if s.pinnedBy e.g.team none pa 8 then .wait .stores s
      else
        let (v, s1) := ((s.charge e.c.vf 0 (unitBytes pa 8)).release e.gid .device).addCounter e.gid e.g.team e.t.core pa (e.s b)
        (s1.putS e d v).orUndo s
    if va.toNat % 8 ≠ 0 then .trap .misalign va e.lanes s
    else match s.xlate e va.toNat 2 with
      | (.ok pa _, s1) => if e.hbm then add pa s1 else .wait (.budget 0) s1
      | (.access, s1) => .trap .access va e.lanes s1
      | (.remote _, s1) => .trap .access va e.lanes s1
      | (.park w h m, s1) => s1.parkRes w h m
      | (.deferred, s1) => .wait (.budget 3) s1

end Sys2Proof.Machine
end

