-- ==== Sys2Proof/Machine/Suspend.lean ====
section
/-! DEFINITION. SUSP, the continuation record, and the resume (R34, R178, R240, R258, R407, R418). -/

namespace Sys2Proof.Machine

/-- The header of a continuation record (R418). -/
def contHeader (e : Env) (cont counter target : BitVec 64) (n : Nat) : Nat :=
  let dead := e.g.regs.vdead.toNat % 2 ^ (4 * n)
  packBits [(458, 12, e.g.regs.astat.toNat), (448, 10, bits e.g.regs.mdef.toNat 21 12), (444, 4, n), (384, 60, dead),
    (352, 32, e.g.regs.popid.toNat), (256, 96, e.lanes.toNat), (192, 64, e.g.regs.dstkb.toNat), (128, 64, target.toNat),
    (64, 64, counter.toNat), (0, 64, cont.toNat)]

/-- The bytes of a continuation record (R418). -/
def contBytes (e : Env) (cont counter target : BitVec 64) (n : Nat) : List Byte :=
  leBytes 64 (contHeader e cont counter target n)
    ++ ((List.range 64).map fun i => leBytes 8 (e.s (BitVec.ofNat 6 i)).toNat).flatten
    ++ ((List.range (4 * n)).map fun i => ((e.g.regs.vec i).map fun w => leBytes 4 w.toNat).flatten).flatten

/-- Bytes stored for the group in 64-byte pieces from an aligned address. A lichen pair shares the record, so that its stores are
performed for both halves at once (R240, R251). -/
def State.storePieces (s : State) (e : Env) (va : Nat) (k : State → Res) : List (List Byte) → Res
  | [] => k s
  | bs :: rest => match s.xlate e va 1 with
    | (.ok pa _, s1) =>
      ((s1.charge e.c.vf 0 (unitBytes pa 64)).addStore e.gid e.g.team e.t.core none pa bs
        (if e.holds then .device else .group) false).storePieces e (va + 64) k rest
    | (.park w h m, s1) => s1.parkRes w h m
    | (.deferred, s1) => .wait (.budget 3) s1
    | (.remote _, s1) =>
      -- a continuation slot lies on this module: a page that moved away faults (R199, R258)
      s1.parkRes { ctx := e.cid, page := va / 65536, va, kind := 1 } true false
    | (_, s1) => .trap .access (BitVec.ofNat 64 va) e.lanes s1

/-- A list cut into pieces of 64. -/
def pieces (bs : List Byte) : Nat → List (List Byte)
  | 0 => []
  | n + 1 => bs.take 64 :: pieces (bs.drop 64) n

/-- The group leaves the core: its registers, tiles and resident place are free, its registration stays (R34). -/
def State.suspend (s : State) (e : Env) (r : SuspReg) : State :=
  (s.vacate e.gid).modGroup e.gid fun g => { g with
    life := .suspended r, full := false, bound := e.gr.k.preg
    slot0 := {}, slot1 := {}, dormant := g.dormant }

/-- SUSP (R34, R407). -/
def execSusp (c a b : BitVec 6) (n : BitVec 4) (s : State) : Host.Outcome State Fault Refusal :=
  s.issue fun e s =>
    let counter := e.s a
    let target := e.s b
    let cont := e.s c
    if e.otherLive || e.g.depth ≠ 0 then e.trap .illop s
    else if e.gr.k.preg < 4 * n.toNat then e.trap .illop s
    else if counter.toNat % 8 ≠ 0 then .trap .misalign counter e.lanes s
    else if cont.toNat % 4 ≠ 0 then .trap .misalign cont e.lanes s
    else
      let reg (i : Nat) : SuspReg := { counter, target, cont, slotNo := i, slot := e.slot, nv := 4 * n.toNat }
      let mirror (t : Env) (s : State) : State := match s.group? e.gid with
        | some g => (match g.life with
          | .suspended r => s.suspend t r
          | _ => s)
        | none => s
      e.skipList s mirror fun e s =>
        if e.g.loads ≠ [] then .wait .loads s
        else e.drainUnits s fun s =>
          if !s.countersFit e.cid e.c.vf [counter] then .wait .evTable s
          else if !e.hbm then .wait (.budget 0) s
          else match e.c.freeCont with
            | none => .wait .contSlot s
            | some i => (s.storePieces e (e.c.contAddr i) (fun s1 =>
                let s2 := s1.modCtx e.cid fun c => { c with contUsed := c.contUsed ++ [i] }
                .ok ((s2.suspend e (reg i)).evalGroup e.gid))
                (pieces (contBytes e cont counter target n.toNat) (9 + 24 * n.toNat))).orUndo s

/-! ### The resume -/

/-- Bytes of the continuation area read for a group that is on no core, charged to HBM; none when a piece does not translate,
with its page request raised. -/
def State.contRead (s : State) (cid : Nat) (c : Ctx) (v : Viewer) (core va : Nat) : Nat → List Byte → Option (List Byte) × State
  | 0, out => (some out, s)
  | n + 1, out => match s.translate cid c core va 0 with
    | (.ok pa _, s1) => (s1.charge c.vf 0 (unitBytes pa 64)).contRead cid c v core (va + 64) n (out ++ s1.bytes v none pa 64)
    | (.park w h m, s1) => (none, s1.fault w h m)
    | (.remote _, s1) => (none, s1.fault { ctx := cid, page := va / 65536, va, kind := 0 } true false)
    | (_, s1) => (none, s1)

/-- Registers restored from a record of 4n vector registers; p0 to p6 false, the rest dead (R34, R76, R418). The bits of ASTAT
that must be zero are (R70). -/
def restoredRegs (old : Regs) (k : Kernel) (nv : Nat) (bs : List Byte) : Regs :=
  let h := leNat (bs.take 64)
  let word (i : Nat) : Nat := leNat ((bs.drop (64 + 8 * i)).take 8)
  let vec (i : Nat) : Lanes := mkLanes fun l => BitVec.ofNat 32 (leNat ((bs.drop (576 + 384 * i + 4 * l)).take 4))
  let dead := bits h 443 384 % 2 ^ nv + (2 ^ k.preg - 2 ^ nv)
  { old with
    v := (List.range nv).map fun i => (i, vec i), vdead := BitVec.ofNat 256 dead, t := [], tdead := -1
    s := (List.range 61).map fun i => BitVec.ofNat 64 (word i), p := List.replicate 7 0, g := List.replicate 16 {}
    astat := BitVec.ofNat 64 (bits h 469 458) &&& 0x70F, mdef := BitVec.ofNat 64 (bits h 457 448 * 4096)
    dstkb := BitVec.ofNat 64 (bits h 255 192), popid := BitVec.ofNat 32 (bits h 383 352) }

/-- SUSP_RESUME: a group whose counter met its target is re-admitted on its partition with its prologue allotment,
and restored (R34, R62, R240, R258); it starts on the spare lane where its partition uses one (R254). -/
def execSuspResume (gid : Nat) (s : State) : Host.Outcome State Fault Refusal :=
  .next (match s.group? gid with
    | none => s
    | some g => match g.life, s.team? g.team with
      | .suspended r, some t => match s.grid? t.grid with
        | none => s
        | some gr => match s.ctx? gr.ctx with
          | none => s
          | some c =>
            let p := s.part t.core g.part
            if !r.met || t.placing ≠ .placed || g.stopping || c.cst ≠ 1 || !s.admits c.vf 0 || p.pool < gr.k.preg || 32 ≤ p.active.length + p.pending.length then s
            else match s.contRead gr.ctx c (.group gid g.team t.core) t.core (c.contAddr r.slotNo) (9 + 6 * r.nv) [] with
              | (none, s1) => s1
              | (some bs, s1) =>
                let h := leNat (bs.take 64)
                let mask : LaneMask := BitVec.ofNat 96 (bits h 351 256)
                let live : Slot := { live := true, pc := BitVec.ofNat 64 (bits h 63 0), mask }
                let s2 := if s1.contShared gr.ctx gid r.slotNo then s1
                  else s1.modCtx gr.ctx fun c => { c with contUsed := c.contUsed.filter (· ≠ r.slotNo) }
                let s3 := s2.modPart t.core g.part fun p => { p.enter gid with used := p.used + gr.k.preg }
                s3.modGroup gid fun g => { g with
                  life := .resident, since := s.cycle, readySince := none, issuedAt := s.cycle, closed := 0, full := false, bound := gr.k.preg, drained := true
                  regs := restoredRegs g.regs gr.k r.nv bs
                  slot0 := if r.slot then {} else live, slot1 := if r.slot then live else {}
                  dormant := g.dormant &&& ~~~mask }
      | _, _ => s)

end Sys2Proof.Machine
end

