-- ==== Sys2Proof/Machine/Special.lean ====
section
/-! DEFINITION. Special registers and SIGRD (R18, R52, R70, R78, R95, R224, R246, R255, R271, R272, R378, R379). -/

namespace Sys2Proof.Machine

/-- The value of special register n, other than CYCLE (R18, R378). BWTO reads what a re-execution itself wrote to it, if it did
(R244, R379; log 57). -/
def Env.special (e : Env) (s : State) (n : Nat) : Nat :=
  let (slotId, reqId, partId) := e.place s
  match n with
  | 0x00 => LaneMask.lowest e.lanes
  | 0x01 => e.g.no
  | 0x02 => e.t.no
  | 0x03 => e.gr.id.toNat
  | 0x04 => e.gr.k.gpt
  | 0x05 => e.gr.depth
  | 0x06 => e.t.core
  | 0x07 => slotId.toNat
  | 0x08 => reqId.toNat
  | 0x09 => e.gr.stepNo
  | 0x0A => e.g.regs.popid.toNat
  | 0x0B => partId.toNat
  | 0x0C => e.g.regs.astat.toNat
  | 0x0D => e.g.regs.mdef.toNat
  | 0x0E => s.cycle
  | 0x0F => e.g.ownBwto.getD e.c.bwto
  | 0x10 => e.g.regs.dstkb.toNat
  | _ => e.cid

/-- RDSR (R378, R379). CYCLE and CORE are logged for the audit (R243). -/
def execRdsr (d : BitVec 6) (n : BitVec 10) (s : State) : Host.Outcome State Fault Refusal :=
  s.issue fun e s =>
    if n = 6 && !e.c.privc then e.trap .priv s
    else
      let (v, s1) := if n = 6 || n = 14 then s.outside e 8 (e.special s n.toNat) else (e.special s n.toNat, s)
      (s1.putS e d (BitVec.ofNat 64 v)).orUndo s

/-- Whether a value may be written to ASTAT: flags in [3:0], enables in [10:8], the rest 0 (R70). -/
def astatOk (v : Nat) : Bool := bits v 63 12 = 0 && bits v 7 4 = 0 && bits v 11 11 = 0

/-- Whether a value may be written to MDEF: ORD and SCOPE legal, [63:22] and [11:0] zero (R95). -/
def mdefOk (v : Nat) : Bool := bits v 63 22 = 0 && bits v 11 0 = 0 && (prefixOf (bits v 21 12)).isSome

/-- WRSR: a read-only register is ILLOP, then PRIV, then the register's value checks (R272, R378). -/
def execWrsr (a : BitVec 6) (n : BitVec 10) (s : State) : Host.Outcome State Fault Refusal :=
  s.issue fun e s =>
    let v := e.s a
    let put (f : Regs → Regs) : Res := passOn e (s.updRegs e f)
    match n.toNat with
    | 0x0A => if v.toNat / 2 ^ 32 ≠ 0 then e.trap .illop s else put fun r => { r with popid := v.setWidth 32 }
    | 0x0C => if astatOk v.toNat then put fun r => { r with astat := v } else e.trap .illop s
    | 0x0D => if mdefOk v.toNat then put fun r => { r with mdef := v } else e.trap .illop s
    | 0x0F =>
      if !e.c.privc then e.trap .priv s
      else if v.toNat < 256 || 2 ^ 32 ≤ v.toNat then e.trap .illop s
      else passOn e (if e.replaying then s.upd e fun g => { g with ownBwto := some v.toNat }
        else s.modCtx e.cid fun c => { c with bwto := v.toNat })
    | 0x10 =>
      if e.g.depth ≠ 0 then e.trap .illop s
      else if v.toNat % 16 ≠ 0 then .trap .misalign v e.lanes s
      else put fun r => { r with dstkb := v }
    | _ => e.trap .illop s

/-- SIGRD (R246). -/
def execSigrd (x : XArgs) (s : State) : Host.Outcome State Fault Refusal :=
  s.issue fun e s =>
    match x.dst with
    | .scal d => (s.putS e d e.g.sig).orUndo s
    | _ => passOn e s

end Sys2Proof.Machine
end

