-- ==== Sys2Proof/Machine/Request.lean ====
section
/-! DEFINITION. Commit of a step, STEPCMT, QMOV and SPECV (R55, R56, R58, R223, R229, R241, R249, R377, R401, R402). -/

namespace Sys2Proof.Machine

/-! ### Rounds (R229) -/

/-- Every particle's ARR, and NARR, set to 0, and RST to idle; the log-weights stay. -/
def State.abandonRound (s : State) (rid : Nat) : State :=
  let r := s.req rid
  match s.popHeader r with
  | none => s.popFault rid
  | some hp =>
    let (h, s1) := s.blockNum r.vf hp 64
    if hdrRst h ≠ 1 then s1
    else
      let s2 := s1.blockWrite r.vf hp 64 (setBits (setBits h 32 32 0) 0 2 0)
      let s3 := (List.range (recNpart r.h)).foldl (fun s i => match s.popEntry (s.req rid) i with
        | none => s.popFault rid
        | some ep =>
          let (e, s1) := s.blockNum r.vf ep 32
          s1.blockWrite r.vf ep 32 (setBits e 128 8 0)) s2
      s3.setReq rid { s3.req rid with timer := none }

/-- Whether a resample of a request runs: it started and has not completed (R229, R236). -/
def State.resampling (s : State) (rid : Nat) : Bool := (s.req rid).running

/-! ### Commit (R55) -/

/-- The requests that take part in the step of a stream, in ascending first slot. -/
def State.stepReqs (s : State) (vf k : Nat) : List Nat :=
  let l := s.reqs.filter fun p => p.2.inStep && (match p.2.stream with
    | some (v, j, _) => v = vf && j = k
    | none => false)
  (sortBy (fun p => recSlot p.2.n) l).map (·.1)

/-- Whether an audit of a group of a step that served a request is not complete (R249). -/
def State.auditsPending (s : State) (vf rid stepNo : Nat) : Bool :=
  s.audits.any fun j => j.vf = vf && j.rid = rid && j.stepNo = stepNo

/-- retire(q, c) (R55). -/
def State.retireReq (s : State) (rid c : Nat) : State :=
  let r := s.req rid
  let r1 := ((r.put 48 3 5).put 51 3 c).put 1008 16 0xFFFF
  let s1 := s.setReq rid { r1 with inStep := false, held := false, timer := none }
  match r.ctx with
  | none => s1
  | some cid =>
    (s1.releaseKvFrom rid cid 0).addSignal { ctx := cid, addr := BitVec.ofNat 64 (recEvc r.h), src := rid, grid := false }

/-- The stop token that matches NTOKV: the lowest index (R55). -/
def stopIndex (h ntokv : Nat) : Option Nat :=
  (List.range 4).find? fun i => recStop h i = ntokv && recStop h i ≠ 0xFFFFFFFF

/-- commit(q) (R55), and whether it retired q. -/
def State.commitReq (s : State) (rid : Nat) : Bool × State :=
  let r := s.req rid
  let clen := min (recTlen r.n) (recMaxlen r.h)
  let r1 := ((r.put 64 32 clen).put 96 32 clen).put 128 32 (recStepc r.n + 1)
  let s1 := s.setReq rid { r1 with inStep := false, held := false }
  if recHstop r.h then (true, s1.retireReq rid 3)
  else match stopIndex r.h (recNtokv r.n) with
    | some i => (true, (s1.setReq rid ((s1.req rid).put 54 2 i)).retireReq rid 1)
    | none => if clen = recMaxlen r.h then (true, s1.retireReq rid 2) else (false, s1)

/-- Requests committed, retired and held (R55, R241). -/
structure Tally where
  committed : Nat := 0
  retired : Nat := 0
  held : Nat := 0
  deriving DecidableEq, Repr

/-- The test of one request at a commit (R55). -/
def State.settleReq (s : State) (vf rid stepNo : Nat) (t : Tally) : Tally × State :=
  let r := s.req rid
  if recFault r.n ≠ 0 || recTlen r.n < recClen r.n then
    ({ t with retired := t.retired + 1 }, (s.setFault rid 0x04 96).retireReq rid 4)
  else if recAgate r.h && s.auditsPending vf rid stepNo then
    ({ t with held := t.held + 1 }, s.setReq rid { r with inStep := false, held := true, heldBy := stepNo })
  else
    let (gone, s1) := s.commitReq rid
    ({ t with committed := t.committed + 1, retired := t.retired + gone.toNat }, s1)

/-- The commit of a list of requests. -/
def State.settleReqs (s : State) (vf stepNo : Nat) (t : Tally) : List Nat → Tally × State
  | [] => (t, s)
  | rid :: rest =>
    let (t1, s1) := s.settleReq vf rid stepNo t
    s1.settleReqs vf stepNo t1 rest

/-- A stream changed in place. -/
def State.modStream (s : State) (vf k : Nat) (f : Stream → Stream) : State :=
  let v := s.vf vf
  s.setVf vf { v with streams := v.streams.set k (f (v.streams.getD k {})) }

/-- A stream. -/
def State.stream (s : State) (vf k : Nat) : Stream := (s.vf vf).streams.getD k {}

/-- The commit of a stream's step: rounds that still collect are abandoned, then every request is tested; the step
is over (R55, R229). -/
def State.commitStep (s : State) (vf k : Nat) : Tally × State :=
  let rids := s.stepReqs vf k
  let s1 := rids.foldl (fun s rid => s.abandonRound rid) s
  let (t, s2) := s1.settleReqs vf (s.stream vf k).stepNo {} rids
  (t, s2.modStream vf k fun x => { x with phase := .idle, stepNo := x.stepNo + 1 })

/-- Held requests whose audits are complete are tested again (R55, R249). HSTOP and the stop tokens are those of the newest
snapshot of their H fields: the model's choice (log 113). -/
def State.heldAgain (s : State) : State :=
  (s.reqs.filter fun p => p.2.held).foldl (fun s p => match p.2.stream with
    | some (vf, _, _) =>
      if s.auditsPending vf p.1 p.2.heldBy then s else (s.settleReq vf p.1 p.2.heldBy {}).2
    | none => s) s

/-! ### STEPCMT -/

/-- The other groups of a grid have retired; a twin that waits at the same compare point aside (R55). -/
def Env.aloneInGrid (e : Env) (s : State) : Bool :=
  let twin := (e.g.pair.map (·.1)).getD e.gid
  e.gr.placed = e.gr.teams && (s.groups.all fun p => p.1 = e.gid || p.1 = twin || p.2.gone
    || (match s.team? p.2.team with
      | some t => t.grid ≠ e.t.grid
      | none => true))

/-- STEPCMT (R55, R56, R229, R241, R402). It is a release at device scope and begins no interval (R178, R181). What groups of the
grid that ended had stored is performed at device scope too, and what they had sent is answered (R56; log 63). -/
def execStepcmt (d : BitVec 6) (s : State) : Host.Outcome State Fault Refusal :=
  s.issue fun e s =>
    match e.gr.step with
    | none => e.trap .illop s
    | some (vf, k, _) =>
      if !e.gr.commit || e.t.no ≠ 0 || e.g.no ≠ 0 || e.gr.committed then e.trap .illop s
      else e.skipList s (mirrorS d e.gid) fun e s =>
        if !e.aloneInGrid s then .wait .others s
        else if (s.stepReqs vf k).any s.resampling then .wait .resample s
        else if !s.settledAt e.gid .device then .wait (s.behind e.gid) s
        else if s.gridSends e.t.grid then .wait .fabric s
        else if s.stepReqs vf k ≠ [] && !s.blockReady vf then .wait (s.blockWait vf) s
        else
          let s0 := s.performAt .device fun p => p.sp.isNone && p.grid = e.t.grid
          let (t, s1) := ((s0.upd e fun g => { g with relScope := .device }).tellRacers e.gid false).commitStep vf k
          let s2 := s1.modGrid e.t.grid fun g => { g with committed := true }
          let v := t.committed % 2 ^ 32 + t.retired % 65536 * 2 ^ 32 + t.held % 65536 * 2 ^ 48
          (s2.putS e d (BitVec.ofNat 64 v)).orUndo s

/-! ### QMOV and SPECV -/

/-- QMOV (R58, R377): 0 moved, 1 already there, 2 in a state that does not move, 3 not the context's record. -/
def execQmov (d a : BitVec 6) (check : Bool) (s : State) : Host.Outcome State Fault Refusal :=
  s.issue fun e s => e.skipList s (mirrorS d e.gid) fun e s =>
    let va := (e.s a).toNat
    let t := if check then 3 else 2
    let r := s.req va
    let st := recState r.n
    let (v, s1) :=
      if 65536 ≤ va || r.ctx ≠ some e.cid then (3, s)
      else if st = t then (1, s)
      else if st = 0 || 4 ≤ st then (2, s)
      else (0, s.setReq va (r.put 48 3 t))
    (s1.putS e d (BitVec.ofNat 64 v)).orUndo s

/-- The scalar of a source that must be one. -/
def Env.scalarOf (e : Env) : Src → BitVec 64
  | .scal n => e.s n
  | _ => 0

/-- SPECV (R223, R401): 0 recorded, 1 too long, 2 not a check step, 3 a verdict exists. -/
def execSpecv (x : XArgs) (s : State) : Host.Outcome State Fault Refusal :=
  s.issue fun e s =>
    match x.dst with
    | .scal d =>
      if !e.inStep then e.trap .access s
      else e.skipList s (mirrorS d e.gid) fun e s =>
        let (slot, reqId, _) := e.place s
        let rid := reqId.toNat
        let entry := ((Map.get? e.gr.table slot.toNat).getD 0).toNat
        let r := s.req rid
        let a := (e.scalarOf x.a).toNat
        let (v, s1) :=
          if bits entry 63 62 ≠ 2 then (2, s)
          else if r.verdict then (3, s)
          else if recDlen r.n < a then (1, s)
          else
            let tok := (e.scalarOf x.b).toNat % 2 ^ 32
            let r1 := ((r.put 1024 32 a).put 1056 32 tok).put 96 32 (bits entry 95 64 + a + 1)
            (0, s.setReq rid { r1 with verdict := true })
        (s1.putS e d (BitVec.ofNat 64 v)).orUndo s
    | _ => passOn e s

end Sys2Proof.Machine
end

