-- ==== Sys2Proof/Machine/Population.lean ====
section
/-! DEFINITION. PLWADD, PLWRD, RSMP, PMAP and RNGX (R224 to R228, R235, R237, R238, R371, R372, R387, R388). -/

namespace Sys2Proof.Machine

/-! ### At the home -/

/-- Whether a record is a population that a context may address: it is the context's, in state 001 to 011, and takes
part in the step that its stream runs (R226). -/
def State.popOk (s : State) (cid rid : Nat) : Bool :=
  let r := s.req rid
  r.ctx = some cid && 1 ≤ recState r.n && recState r.n ≤ 3 && r.inStep

/-- Particles of a population. -/
def State.popSize (s : State) (rid : Nat) : Nat := recNpart (s.req rid).h

/-- What a home answers: a value, a wait for a running resample, or ACCESS. -/
inductive PopRes
  | done (v : Nat)
  | wait
  | access
  deriving DecidableEq, Repr

/-- An arrival counted (R228), and the resample started by the last one; under DEADLINE the first one starts the
timer (R236). -/
def State.arriveAt (s : State) (rid i step : Nat) : PopRes × State :=
  match s.popAt rid i with
  | (.bad, s1) => (.access, s1)
  | (.running, s1) => (.done 3, s1)
  | (.entry hp ep h e, s1) =>
    let r := s1.req rid
    if hdrRstep h = step then (.done 3, s1)
    else if entArr e = recApp r.h then (.done 2, s1)
    else
      let n := hdrNarr h + 1
      let last : Bool := n = recNpart r.h * recApp r.h
      let h1 := setBits (setBits h 0 2 (if last then 2 else 1)) 32 32 n
      let h2 := if last then setBits h1 64 64 step else h1
      let s2 := (s1.blockWrite r.vf ep 32 (setBits e 128 8 (entArr e + 1))).blockWrite r.vf hp 64 h2
      let timer := if last then none else if hdrRst h = 0 && recRpol r.h % 2 = 1 then some s.cycle else r.timer
      (.done last.toNat, s2.setReq rid { s2.req rid with running := last, timer, startLen := if last then recTlen r.n else r.startLen })

/-- One population operation at its home (R227, R228, R235). -/
def State.popDo (s : State) (rid : Nat) : FabKind → PopRes × State
  | .plwadd i x => match s.popAdd rid i x with
    | (some true, s1) => (.done 0, s1)
    | (some false, s1) => (.wait, s1)
    | (none, s1) => (.access, s1)
  | .plwrd i => match s.popAt rid i with
    | (.entry _ _ _ e, s1) => (.done (readWeight e), s1)
    | (.running, s1) => (.wait, s1)
    | (.bad, s1) => (.access, s1)
  | .pmap i => match s.popAt rid i with
    | (.entry _ _ _ e, s1) => (.done (entParent e), s1)
    | (.running, s1) => (.wait, s1)
    | (.bad, s1) => (.access, s1)
  | .rsmp i step => s.arriveAt rid i step
  | .popProbe i => match s.popAt rid i with
    | (.bad, s1) => (.access, s1)
    | (_, s1) => (.done 0, s1)
  | .popEntry i => match s.popAt rid i with
    | (.entry _ _ _ e, s1) => (.done e, s1)
    | (.running, s1) => (.wait, s1)
    | (.bad, s1) => (.access, s1)
  | _ => (.access, s)

/-- The particle a population operation names. -/
def popParticle : FabKind → Nat
  | .plwadd i _ | .plwrd i | .pmap i | .rsmp i _ | .popProbe i | .popEntry i => i
  | _ => 0

/-! ### At the sender -/

/-- The population POPID names: its node and its RID (R224). -/
def Env.popNode (e : Env) : Nat := bits e.g.regs.popid.toNat 25 16
def Env.popRid (e : Env) : Nat := bits e.g.regs.popid.toNat 15 0

/-- A population operation of a lane. -/
structure PopOp where
  lane : Nat
  kind : FabKind
  deriving DecidableEq, Repr

/-- The tests of R226 on a record of this module: the record, then the particles. -/
def Env.popTests (e : Env) (s : State) (rid : Nat) (uniform : Bool) (ps : List (Nat × Nat)) (k : State → Res) : Res :=
  if !s.popOk e.cid rid then e.trap .access s
  else match ps.filter fun p => s.popSize rid ≤ p.2 with
    | p :: l => .trap .access 0 (if uniform then e.lanes else lanesOf ((p :: l).map (·.1))) s
    | [] => k s

/-- Operations performed here in ascending lanes, once the budgets of the block admit them, none waits and every entry is valid
(R66, R237). -/
def Env.popHere (e : Env) (s : State) (rid : Nat) (uniform : Bool) (ops : List PopOp) (k : List (Nat × Nat) → State → Res) : Res :=
  let tried := ops.map fun o => (o.lane, (s.popDo rid o.kind).1)
  if ops ≠ [] && !s.blockReady (s.req rid).vf then .wait (s.blockWait (s.req rid).vf) s
  else if tried.any fun p => p.2 = .wait then .wait .resample s
  else match tried.filter fun p => p.2 = .access with
    | p :: l => .trap .access 0 (if uniform then e.lanes else lanesOf ((p :: l).map (·.1))) s
    | [] =>
      let (vals, s1) := ops.foldl (fun (acc : List (Nat × Nat) × State) o => match acc.2.popDo rid o.kind with
        | (.done v, s1) => (acc.1 ++ [(o.lane, v)], s1)
        | (_, s1) => (acc.1, s1)) ([], s)
      k vals s1

/-- Operations on a population of another module sent, and charged to fabric egress (R65, R224). -/
def Env.popSend (e : Env) (s : State) (ops : List PopOp) (probing : Bool) : Res :=
  if !s.admits e.c.vf 1 then .wait (.budget 1) s
  else
    let s1 := ops.foldl (fun s o =>
      let req : FabReq := { node := s.node, id := s.nextId, ctxid := e.cid, va := BitVec.ofNat 64 e.popRid, kind := o.kind, hops := 0 }
      s.sendOut { id := s.nextId, gid := e.gid, slot := e.slot, idx := o.lane, dest := e.popNode, req }) (s.charge e.c.vf 1 (128 * ops.length))
    .wait .fabric (s1.updSlot e fun sl => { sl with sent := true, probing })

/-- The trap of a home's answer to an operation on a population: over all lanes of the slot where one value is named. -/
def Env.popTrap (e : Env) (s : State) (uniform : Bool) (k : State → Res) : Res :=
  match e.sl.reps.filterMap fun r => (repTrap r.2).map fun c => (r.1, c) with
  | (l, c) :: more => .trap c 0 (if uniform then e.lanes else lanesOf (l :: (more.filter fun p => p.2 = c).map (·.1))) s
  | [] => k s

/-- Operations on a population of another module: every particle is tested at the home before any lane is performed there;
then they are sent and answered (R205, R226, R371). `ops` may be none: the tests alone, and that of the record where no particle
is named. -/
def Env.popThere (e : Env) (s : State) (uniform : Bool) (tests : List (Nat × Nat)) (ops : List PopOp)
    (k : List (Nat × Nat) → State → Res) : Res :=
  let mine : Bool := s.fabOut.any fun o => o.gid = e.gid && o.eng.isNone && !o.signal
  if mine then .wait .fabric s
  else if e.sl.sent then
    let s1 := s.updSlot e fun sl => { sl with sent := false, probing := false, reps := [], probed := sl.probed || sl.probing }
    e.popTrap s1 uniform fun s1 =>
      if !e.sl.probing then
        k (ops.map fun o => (o.lane, leNat (((e.sl.reps.find? fun r => r.1 = o.lane).map fun r => repBytes r.2).getD []))) s1
      else if ops = [] then k [] s1
      else e.popSend s1 ops false
  else if (s.route e.c (Config.windowVa e.popNode)).isNone then e.trap .access s
  else if e.sl.probed then (if ops = [] then k [] s else e.popSend s ops false)
  else if ops.length = 1 then e.popSend s ops false
  else if tests = [] then e.popSend s [{ lane := 0, kind := .popRecord }] true
  else e.popSend s (tests.map fun p => { lane := p.1, kind := .popProbe p.2 }) true

/-- A population instruction's operations at its home, the tests of R226 first: `tests` are the particles it names. -/
def Env.population (e : Env) (s : State) (uniform : Bool) (tests : List (Nat × Nat)) (ops : List PopOp)
    (k : List (Nat × Nat) → State → Res) : Res :=
  if bits e.g.regs.popid.toNat 31 26 ≠ 0 then e.trap .access s
  else if e.popNode = s.node then
    e.popTests s e.popRid uniform tests fun s => e.popHere s e.popRid uniform ops k
  else e.popThere s uniform tests ops k

/-- The particles that an operand names: one for every lane, or one a lane (R226). -/
def particles (uniform : Bool) (m : LaneMask) (f : Nat → Nat) : List (Nat × Nat) :=
  if uniform then [(0, f 0)] else m.toList.map fun l => (l, f l)

/-- An entry as a lichen half reads it: with the half's held additions (R250). -/
def State.heldEntry (s : State) (e : Env) (i entry : Nat) : Nat :=
  (((s.team? e.g.team).map (·.away)).getD []).foldl (fun x o => match o.kind with
    | .plwadd j inc => if o.node = e.popNode && o.va.toNat = e.popRid && j = i then addWeight x inc else x
    | _ => x) entry

/-- The scope of a population instruction: device, or pod for a population of another module (R237). -/
def Env.popScope (e : Env) (s : State) : Scope := if e.popNode = s.node then .device else .pod

/-! ### PLWADD -/

/-- PLWADD (R227, R371). A lichen half holds its additions (R250). -/
def execPlwadd (x : XArgs) (s : State) : Host.Outcome State Fault Refusal :=
  s.issue fun e s =>
    let u : Use := { srcs := [(x.a, 1), (x.b, 1)] }
    e.memUsing s u fun s =>
      let m := e.active x
      let inc := e.val x .float .f32 x.a
      let part := e.val x .int .n32 x.b
      let ops : List PopOp := m.toList.map fun l => { lane := l, kind := .plwadd (part.at l) (BitVec.ofNat 32 (inc.at l)) }
      let done (s : State) : Res := .ok ((s.recordLanes e m (fun _ => e.g.regs.popid.setWidth 64) 4 3
        fun l => leBytes 4 (part.at l) ++ leBytes 4 (inc.at l)).memDone e x u)
      let uniform : Bool := !x.b.isVec
      let tests := particles uniform m part.at
      if e.replaying then done s
      else if !e.holds then e.population s uniform tests ops fun _ s => done s
      else if bits e.g.regs.popid.toNat 31 26 ≠ 0 then e.trap .access s
      else
        let hold (s : State) : Res := e.holdRoom s (8 * ops.length) fun s =>
          done (ops.foldl (fun s o => s.holdAway e e.popNode (BitVec.ofNat 64 e.popRid) o.kind) s)
        if e.popNode = s.node then
          e.popTests s e.popRid uniform tests fun s => e.popHere s e.popRid uniform ops fun _ _ => hold s
        else e.popThere s uniform tests [] fun _ s => hold s

/-! ### PLWRD and PMAP -/

/-- A read of one value a lane, or of one for a scalar destination, from the population or the log (R243). -/
def Env.popRead (e : Env) (s : State) (x : XArgs) (size n : Nat) (kind : Nat → FabKind) (got : State → Nat → Nat → Nat) : Res :=
  let u : Use := { srcs := [(x.a, 1)], dst := some x.dst, n }
  e.using s u fun fl => e.flagged s fl e.lanes fun s =>
    let a := e.val x .int .n32 x.a
    match x.dst with
    | .scal _ =>
      let put (v : Nat) (s : State) : Res := e.deliver s x.dst u.marks 0 (.scal (BitVec.ofNat 64 v))
      if e.replaying then put ((s.fromLog e).1.headD 0) (s.fromLog e).2
      else e.population s true (particles true 0 a.at) [{ lane := 0, kind := kind (a.at 0) }] fun vs s =>
        let v := got s (a.at 0) ((vs.map (·.2)).headD 0)
        put v (s.logged e size [v])
    | _ =>
      let m := e.active x
      let put (vs : List (Nat × Nat)) (s : State) : Res :=
        let val (l : Nat) : Nat := ((vs.find? fun p => p.1 = l).map (·.2)).getD 0
        e.deliver s x.dst u.marks m (.vec ((List.range n).map fun j => mkLanes fun l => BitVec.ofNat 32 (val l / 2 ^ (32 * j))))
      if e.replaying then
        (if m = 0 then put [] s
        else put (List.zip m.toList (s.fromLog e).1) (s.fromLog e).2)
      else e.population s (!x.a.isVec) (particles (!x.a.isVec) m a.at) (m.toList.map fun l => { lane := l, kind := kind (a.at l) })
        fun vs s =>
          let vs := vs.map fun p => (p.1, got s (a.at p.1) p.2)
          put vs (if m = 0 then s else s.logged e (size * vs.length) (vs.map (·.2)))

/-- PLWRD (R227, R371). A lichen half reads the entry with its own held additions (R250). -/
def execPlwrd (x : XArgs) (s : State) : Host.Outcome State Fault Refusal :=
  s.issue fun e s =>
    if e.holds then e.popRead s x 8 2 .popEntry fun s i v => readWeight (s.heldEntry e i v)
    else e.popRead s x 8 2 .plwrd fun _ _ v => v

/-- PMAP (R235, R372). -/
def execPmap (x : XArgs) (s : State) : Host.Outcome State Fault Refusal :=
  s.issue fun e s => e.popRead s x 4 1 .pmap fun _ _ v => v

/-! ### RSMP -/

/-- RSMP: a release atomic that counts an arrival (R228, R237, R388). -/
def execRsmp (x : XArgs) (s : State) : Host.Outcome State Fault Refusal :=
  s.issue fun e s =>
    match x.dst with
    | .scal d =>
      let i := (e.val x .int .n32 x.a).at 0
      let op : PopOp := { lane := 0, kind := .rsmp i e.gr.stepNo }
      let finish (v : Nat) (s : State) : Res := (s.putS e d (BitVec.ofNat 64 v)).orUndo s
      if bits e.g.regs.popid.toNat 31 26 ≠ 0 then e.trap .access s
      else
        let run (e : Env) (s : State) : Res :=
          if !e.sl.sent && !s.settledAt e.gid (e.popScope s) then .wait (s.behind e.gid) s
          else (e.population s true [(0, i)] [op] fun vs s => finish ((vs.map (·.2)).headD 0) s).andThen fun s =>
            s.release e.gid (e.popScope s)
        if e.popNode ≠ s.node then e.skipList s (mirrorS d e.gid) run
        else e.popTests s e.popRid true [(0, i)] fun s => e.skipList s (mirrorS d e.gid) run
    | _ => passOn e s

/-! ### RNGX -/

/-- One round of the generator (R238): x0 to x3, k0, k1. -/
def rngRound (x : Word × Word × Word × Word × Word × Word) : Word × Word × Word × Word × Word × Word :=
  let (x0, x1, x2, x3, k0, k1) := x
  let x0 := x0 + (x1 ^^^ k0)
  let x1 := x1.rotateLeft 7 ^^^ x0
  let x2 := x2 + (x3 ^^^ k1)
  let x3 := x3.rotateLeft 13 ^^^ x2
  (x0, x3, x2, x1, k0 + 0x9E3779B9#32, k1 + 0xBB67AE85#32)

/-- Rounds of the generator. -/
def rngRounds (x : Word × Word × Word × Word × Word × Word) : Nat → Word × Word × Word × Word × Word × Word
  | 0 => x
  | n + 1 => rngRounds (rngRound x) n

/-- The four words of a lane (R238). -/
def rngLane (k0 k1 step a b : Word) (l : Nat) : List Word :=
  let (x0, x1, x2, x3, _, _) := rngRounds (step, a, b, BitVec.ofNat 32 l, k0, k1) 10
  [x0, x1, x2, x3]

/-- The two words of a key (R238). -/
def keyWords (key : Nat) : Word × Word :=
  (BitVec.ofNat 32 (bits key 31 0 ^^^ bits key 95 64), BitVec.ofNat 32 (bits key 63 32 ^^^ bits key 127 96))

/-- RNGX (R238, R387). With FN 0 the key is REQID's, as of the snapshot (log 38); a re-execution has it from its step grid. -/
def execRngx (x : XArgs) (s : State) : Host.Outcome State Fault Refusal :=
  s.issue fun e s =>
    let u : Use := { srcs := [(x.a, 1), (x.b, 1)], dst := some x.dst, n := 4 }
    e.using s u fun fl => e.flagged s fl e.lanes fun s =>
      let m := e.active x
      let a := e.val x .int .n32 x.a
      let b := e.val x .int .n32 x.b
      let step : Word := if e.inStep then BitVec.ofNat 32 e.gr.stepNo else 0
      let make (k : Word × Word) (s : State) : Res :=
        let rows := (List.range 96).map fun l =>
          if m.getLsbD l then rngLane k.1 k.2 step (BitVec.ofNat 32 (a.at l)) (BitVec.ofNat 32 (b.at l)) l else []
        e.deliver s x.dst u.marks m (.vec ((List.range 4).map fun j => mkLanes fun l => (rows.getD l []).getD j 0))
      if x.fn.toNat = 1 then
        let k := (e.scalarOf x.c).toNat
        make (BitVec.ofNat 32 k, BitVec.ofNat 32 (k / 2 ^ 32)) s
      else
        let rid := (e.place s).2.1.toNat
        if e.replaying then make (keyWords ((Map.get? e.gr.keys rid).getD 0)) s
        else if !e.inStep then e.trap .access s
        else e.popTests s rid (!x.a.isVec) (particles (!x.a.isVec) m a.at) fun s =>
          make (keyWords (recKey (s.req rid).h)) s

end Sys2Proof.Machine
end

