-- ==== Sys2Proof/Machine/Sampling.lean ====
section
/-! DEFINITION. DRAWC (R220, R221, R324). -/

namespace Sys2Proof.Machine

/-- Whether a table with this last entry can be drawn from: 0 < T[n-1] < +inf (R220). -/
def usable (x : Nat) : Bool :=
  match f32.decode x with
  | .fin neg m _ => !neg && m ≠ 0
  | _ => false

/-- T[i] * 2^32 > u * T[n-1], exactly, for a usable total; a NaN compares false (R220). -/
def drawPast (entry u total : Nat) : Bool :=
  match f32.decode entry, f32.decode total with
  | .inf neg, _ => !neg
  | .fin neg m e, .fin _ mt et =>
    let (p, q) := ((m : Int) * 2 ^ 32, (u * mt : Nat))
    !neg && (if et ≤ e then (q : Int) < p * 2 ^ (e - et).toNat else (q : Int) * 2 ^ (et - e).toNat < p)
  | _, _ => false

/-- The index drawn from a table, or all ones where it is not usable (R220). -/
def drawFrom (word : Nat → Nat) (n u : Nat) : Option Nat :=
  let total := word (n - 1)
  if usable total then some (((List.range n).find? fun i => drawPast (word i) u total).getD (n - 1)) else none

/-- DRAWC (R220, R324). -/
def execDrawc (x : XArgs) (s : State) : Host.Outcome State Fault Refusal :=
  s.issue fun e s =>
    let u : Use := { srcs := [(x.a, 1), (x.c, 1)], dst := some x.dst }
    e.using s u fun fl => e.flagged s fl e.lanes fun s =>
      let m := e.active x
      let a := e.val x .int .b64 x.a
      let first (l : Nat) : Int := if x.a.isVec then a.at l else a.at64 l
      let second (l : Nat) : Int := first l + (dispOf x).toInt
      let c := e.val x .int .n32 x.c
      let n := (e.scalarOf x.b).toNat
      let odd (l : Nat) : Option Int := if first l % 4 ≠ 0 then some (first l) else if second l % 4 ≠ 0 then some (second l) else none
      let fits (o : Int) : Bool := 0 ≤ o && o + 4 * n ≤ e.gr.k.scrb
      let out (l : Nat) : Option Int := if !fits (first l) then some (first l) else if !fits (second l) then some (second l) else none
      let bad (f : Nat → Option Int) : List Nat := m.toList.filter fun l => (f l).isSome
      let info (f : Nat → Option Int) (l : Nat) : BitVec 64 := BitVec.ofInt 64 ((f l).getD 0)
      let put (vs : List (Nat × Nat)) (s : State) : Res :=
        let val (l : Nat) : Nat := ((vs.find? fun p => p.1 = l).map (·.2)).getD 0
        let fb : LaneMask := mkMask fun l => 2 ^ 32 ≤ val l
        let s1 := if x.fn.toNat % 8 = 7 then s else s.updRegs e fun r => r.setPred (x.fn.toNat % 8) m fb
        e.deliver s1 x.dst u.marks m (.vec [mkLanes fun l => BitVec.ofNat 32 (val l)])
      if n < 1 || 98304 < n then e.trap .access s
      else match bad odd with
        | l :: ls => .trap .misalign (info odd l) (lanesOf (l :: ls)) s
        | [] =>
          if e.replaying then
            (if m = 0 then put [] s else put (List.zip m.toList (s.fromLog e).1) (s.fromLog e).2)
          else match (if e.t.granted then bad out else m.toList) with
            | l :: ls => .trap .access (if e.t.granted then info out l else BitVec.ofInt 64 (first l)) (lanesOf (l :: ls)) s
            | [] =>
              let word (o : Int) (i : Nat) : Nat := s.num e.viewer (some e.g.team) (o.toNat + 4 * i) 4
              -- the status bit stands above the 32 bits of the index
              let draw (l : Nat) : Nat := match drawFrom (word (first l)) n (c.at l) with
                | some i => i
                | none => 2 ^ 32 + (drawFrom (word (second l)) n (c.at l)).getD 0xFFFFFFFF
              let vs := m.toList.map fun l => (l, draw l)
              put vs (if m = 0 then s else s.logged e (4 * vs.length + 1) (vs.map (·.2)))

end Sys2Proof.Machine
end

