-- ==== Sys2Proof/Machine/Fetch.lean ====
section
/-! DEFINITION. Fetching and decoding the unit at a slot's PC (R82, R93, R94, R98 to R100, R260). -/

namespace Sys2Proof.Machine

/-- What a fetch comes to: words, or a trap or a wait. -/
inductive Fetched
  | words (ws : List Word) (s : State)
  | stop (r : Res)

/-- The transfer of a word that a fetch reads: each 64-byte unit is charged once, at the first fetch of the unit that issues; that of a
re-execution is the audit's (R65, R244; log 53). -/
def State.fetchCharge (s : State) (e : Env) (va : Nat) : State :=
  if e.replaying || e.sl.fetched || (va ≠ e.pc.toNat && va % 64 ≠ 0) then s else s.charge e.c.vf 0 64

/-- `n` more words from an address, read through translation at device scope, once the HBM budget admits a unit's first fetch
(R66, R100). Each fetch reads the words as the stores performed at device scope have left them: a grid that runs may fetch the old
word too, which the model does not show (DESIGN CHOICE, R101; log 133). -/
def State.fetchWords (s : State) (e : Env) (va : Nat) : Nat → List Word → Fetched
  | 0, ws => .words ws s
  | n + 1, ws =>
    match s.xlate e va 3 with
    | (.ok pa _, s1) =>
      if !e.hbm && !e.sl.fetched && !e.replaying then .stop (.wait (.budget 0) s1)
      else (s1.fetchCharge e va).fetchWords e (va + 4) n (ws ++ [BitVec.ofNat 32 (s1.num .module none pa 4)])
    | (.access, s1) => .stop (.trap .access (BitVec.ofNat 64 va) e.lanes s1)
    | (.park w h m, s1) => .stop (s1.parkRes w h m)
    | (.remote _, s1) =>
      -- words on a page that moved away fault, as those of a page without an entry do (R199)
      .stop (s1.parkRes { ctx := e.cid, page := va / 65536, va, kind := 3 } true false)
    | (.deferred, s1) => .stop (.wait (.budget 3) s1)

/-- The words of one instruction from an address; `pre` is the bytes of an MPX before it. -/
def State.fetchInstr (s : State) (e : Env) (va pre : Nat) : Fetched × Nat :=
  match s.fetchWords { e with len := pre + 4 } va 1 [] with
  | .stop r => (.stop r, pre + 4)
  | .words ws s1 =>
    let n := lenWords (wordLen (ws.headD 0))
    (s1.fetchWords { e with len := pre + 4 * n } (va + 4) (n - 1) ws, pre + 4 * n)

/-- What an MPX prefixes, fetched whole. An MPX whose following word lies outside the code window traps ILLOP (R362). -/
def State.fetchPrefixed (s : State) (e : Env) : Fetched × Nat :=
  if e.inWindow (e.pc + 4) then s.fetchInstr e (e.pc.toNat + 4) 4 else (.stop (e.trap .illop s), 4)

/-- What the unit at a slot's PC is: an instruction to execute, with the state that names its issue, or the state
that a trap or a wait of the fetch leaves. -/
inductive FetchedUnit
  | run (i : Instr) (s : State)
  | over (s : State)

/-- The instruction that words decode to, where they do. -/
def decoded (ws : List Word) : Option Instr :=
  match decode ws with
  | .ok (i, _) => some i
  | .error _ => none

/-- Whether words begin with an MPX, be its fields legal or not: one word of OPC 0x1C (R93, R96). -/
def mpxWord (ws : List Word) : Bool := wordLen (ws.headD 0) = 0 && wordOpc (ws.headD 0) = 0x1C

/-- The fetched unit about to execute: its slot keeps that it was fetched. -/
def State.runs (s : State) (u : Cur) : State :=
  { s.modGroup u.gid fun g => g.modSlot u.slot fun x => { x with fetched := true } with cur := some u }

/-- The unit at a slot's PC fetched whole and decoded. An illegal MPX is still part of the unit it begins, and its trap
spans both (R94, R260; log 46). -/
def State.fetchUnit (s : State) (gid : Nat) (slot : Bool) : FetchedUnit :=
  match s.group? gid with
  | none => .over s
  | some g =>
    let u : Cur := { gid, slot, pc := (g.slot slot).pc, len := 4 }
    match s.envOf u with
    | none => .over s
    | some e =>
      if !e.inWindow e.pc then .over ((e.trap .illop s).settle e)
      else
        match s.fetchInstr e e.pc.toNat 0 with
        | (.stop r, n) => .over (r.settle { e with len := n })
        | (.words ws s1, n) =>
          match decoded ws with
          | none =>
            if !mpxWord ws then .over ((e.trap .illop s1).settle { e with len := n })
            else match s1.fetchPrefixed e with
              | (.stop r, m) => .over (r.settle { e with len := m })
              | (.words _ s2, m) => .over ((e.trap .illop s2).settle { e with len := m })
          | some (.mpx p) =>
            match s1.fetchPrefixed e with
            | (.stop r, m) => .over (r.settle { e with len := m })
            | (.words rest s2, m) => .run (.mpx p) (s2.runs { u with len := m, next := decoded rest })
          | some i => .run i (s1.runs { u with len := n })

/-- Bytes of the unit at a slot's PC, as far as it can be fetched (R260). -/
def State.unitLen (s : State) (e : Env) : Nat :=
  match s.fetchInstr e e.pc.toNat 0 with
  | (.stop _, n) => n
  | (.words ws s1, n) => match decoded ws with
    | some (.mpx _) => (s1.fetchPrefixed e).2
    | none => if mpxWord ws then (s1.fetchPrefixed e).2 else n
    | _ => n

end Sys2Proof.Machine
end

