-- ==== Sys2Proof/Machine/Sched.lean ====
section
/-! DEFINITION. Which slots can issue and which one a partition issues, the active and pending sets, waking, and the
moves that are made when the schedule names none (R37, R62 to R64, R81, R244, R251, R259). -/

namespace Sys2Proof.Machine

/-! ### Slots that issue -/

/-- Whether a slot with a wait is parked at a page (R199). -/
def Wait.parks : Wait → Bool
  | .page _ => true
  | _ => false

/-- Whether a wait is one of the events at which a group is swapped out, and issues nothing (R31, R33, R62, R192,
R237, R258; log 60). -/
def Wait.swaps : Wait → Bool
  | .ready | .stores | .loads | .coll | .others | .twin | .order => false
  | _ => true

/-- Whether a wait ends by an event alone, and its instruction is not tried before: a page, or a barrier (R192, R199). -/
def Wait.rests : Wait → Bool
  | .page _ | .bar _ _ => true
  | _ => false

/-- Whether a slot has met such an event, and it is not resolved. -/
def Slot.owes (x : Slot) : Bool := x.live && x.wait.swaps

/-- Whether a load of a group that missed the memory-side cache, or one of LDF, is outstanding (R62, R347; log 126). -/
def Group.missing (g : Group) : Bool := g.loads.any (·.miss)

/-- Whether a group has met an event that is not resolved. -/
def Group.owes (g : Group) : Bool := g.slot0.owes || g.slot1.owes || g.missing

/-- Whether a slot of a group may act: it is live, not at its JOIN and not parked at a page, the group is on the core and not being
saved, and a handler that runs is in this slot (R79, R199, R203, R259, R265). -/
def Group.mayAct (g : Group) (slot : Bool) : Bool :=
  let x := g.slot slot
  g.life = .resident && !g.stopping && x.live && !x.join && !x.wait.parks && (match g.handler with
    | some (h, _, _) => h = slot
    | none => true)

/-- Whether a slot of a group may issue: it may act, the group's other slot has met no event, and no load of the group misses
(R62). -/
def Group.canIssue (g : Group) (slot : Bool) : Bool := g.mayAct slot && !(g.slot (!slot)).owes && !g.missing

/-- Whether a slot that may act is at no wait and no latency in a cycle. -/
def Group.slotFree (g : Group) (cyc : Nat) (slot : Bool) : Bool :=
  g.mayAct slot && (g.slot slot).wait = .ready && (g.slot slot).busy ≤ cyc

/-- Whether a slot of a group is ready in a cycle. -/
def Group.slotReady (g : Group) (cyc : Nat) (slot : Bool) : Bool := g.canIssue slot && g.slotFree cyc slot

/-- Whether some slot of a group is ready in a cycle. -/
def Group.ready (g : Group) (cyc : Nat) : Bool := g.slotReady cyc false || g.slotReady cyc true

/-- A waiting slot whose wait a predicate picks issues again. -/
def Slot.wakeIf (x : Slot) (f : Wait → Bool) : Slot := if f x.wait then { x with wait := .ready } else x

/-- Both slots of a group woken where a predicate picks their waits. -/
def State.wake (s : State) (gid : Nat) (f : Wait → Bool) : State :=
  s.modGroup gid fun g => { g with slot0 := g.slot0.wakeIf f, slot1 := g.slot1.wakeIf f }

/-- Every group woken. -/
def State.wakeAll (s : State) (f : Wait → Bool) : State := s.groups.foldl (fun s p => s.wake p.1 f) s

/-! ### Order of two slots (R244, R251) -/

/-- Whether an instruction gives the signature a record when it has an active lane (R245). -/
def Instr.records : Instr → Bool
  | .sts _ | .ats _ | .tmask _ | .stg _ | .atg _ | .stf _ | .atf _ | .reqst _ | .plwadd _ | .cpy _ | .gath _ | .scat _
  | .coll _ | .cpyf _ | .sstu _ _ _ | .sstuLit _ _ _ => true
  | _ => false

/-- Whether it takes a value from outside the registers, which an audit logs (R243). -/
def Instr.logs : Instr → Bool
  | .lds _ | .ldg _ | .ldf _ | .ldk _ | .reqld _ | .ats _ | .atg _ | .atf _ | .plwrd _ | .pmap _ | .drawc _ | .mldt _ => true
  | .mqk x => x.fn.toNat % 4 = 2
  | .sldu _ _ _ | .slduLit _ _ _ | .acq _ _ _ _ | .bar _ _ _ | .barArrive _ _ _ | .mbatch _ | .cntrd _ => true
  | .rdsr _ n => n = 6 || n = 14
  | _ => false

/-- The lanes for which an instruction runs: active(slot), or lanes(slot) for a scalar one. -/
def Env.lanesFor (e : Env) (i : Instr) : LaneMask :=
  match i.xform with
  | some (_, x) => e.active x
  | none => e.lanes

/-- Whether it is an instruction's turn: with both slots live, a re-execution follows its log, and a trailing half its
leader. -/
def Env.turn (e : Env) (s : State) (i : Instr) : Bool :=
  if !e.otherLive || e.lanesFor i = 0 then true
  else match e.g.audit, e.g.pair with
    | .replay _ (x :: _) _, _ => !(Instr.records i || Instr.logs i) || x.slot = e.slot
    | _, some (leader, false) => !Instr.records i || (match s.group? leader with
      | some l => l.order.head? = some e.slot
      | none => true)
    | _, _ => true

/-- The trap that the log of a re-execution tells for the instruction at the slot's PC (R244; log 57). -/
def Env.loggedTrap (e : Env) : Option (TrapCode × BitVec 64 × LaneMask) :=
  match e.g.audit with
  | .replay _ (x :: _) _ => match x.trap with
    | some (pc, code, info, lanes) => if x.slot = e.slot && pc = e.pc then some (.ofNum code, info, lanes) else none
    | none => none
  | _ => none

/-! ### The active and the pending set (R62) -/

/-- A group that is swapped issues nothing for 4 cycles (R62). -/
def Group.hold (g : Group) (cyc : Nat) : Group :=
  { g with slot0 := { g.slot0 with busy := max g.slot0.busy (cyc + 4) }, slot1 := { g.slot1 with busy := max g.slot1.busy (cyc + 4) } }

/-- A pending group takes the place of an active one, by a swap of 4 cycles (R62, R64). -/
def State.swapGroups (s : State) (core part out into : Nat) : State :=
  ((s.modPart core part fun p => { p with
    active := (p.active.filter (· ≠ out)) ++ [into], pending := (p.pending.filter (· ≠ into)) ++ [out]
    second := p.second.filter fun q => q.1 ≠ out }).modGroup out
      (·.hold s.cycle)).modGroup into (·.hold s.cycle)

/-- The groups of a list that are ready, with their ages. -/
def State.readyOf (s : State) (gids : List Nat) : List (Nat × Group) :=
  gids.filterMap fun n => match s.group? n with
    | some g => if g.ready s.cycle then some (n, g) else none
    | none => none

/-- The oldest of some groups; of equal ages the first one (log 105). -/
def oldestOf (l : List (Nat × Group)) : Option Nat :=
  (l.foldl (fun acc p => match acc with
    | none => some p
    | some q => if p.2.since < q.2.since then some p else some q) none).map (·.1)

/-- The youngest of some groups; of equal ages the first one (log 105). -/
def youngestOf (l : List (Nat × Group)) : Option Nat :=
  (l.foldl (fun acc p => match acc with
    | none => some p
    | some q => if q.2.since < p.2.since then some p else some q) none).map (·.1)

/-- The oldest ready group of a list. -/
def State.oldestReady (s : State) (gids : List Nat) : Option Nat := oldestOf (s.readyOf gids)

/-- The slot of a pair that is still to issue in the cycle of its group's other one: it issues though that one met an event (R63). -/
def State.pairMate (s : State) (p : Part) : Option (Nat × Bool) :=
  p.second.filter fun q => p.active.contains q.1 && (match s.group? q.1 with
    | some g => g.slotFree s.cycle q.2
    | none => false)

/-- A swap that a partition owes, or a free active place taken by a pending group (R62). Of several active groups that owe a swap the
first of the active set goes: R62 leaves it open (DESIGN CHOICE, log 132). -/
def State.swapPart (s : State) (core part : Nat) : State :=
  let p := s.part core part
  match s.oldestReady p.pending with
  | none => match p.pending with
    | n :: rest => if p.active.length < 8 then s.modPart core part fun p => { p with active := p.active ++ [n], pending := rest } else s
    | [] => s
  | some n =>
    if p.active.length < 8 then
      s.modPart core part fun p => { p with active := p.active ++ [n], pending := p.pending.filter (· ≠ n) }
    else match p.active.find? fun m => match s.group? m with
      | some g => g.owes && ((s.pairMate p).map (·.1)) ≠ some m
      | none => true with
    | some m => s.swapGroups core part m n
    | none => s

/-- How long the pending groups of a partition have been ready (R64). -/
def State.clockPart (s : State) (core part : Nat) : State :=
  let p := s.part core part
  let s1 := p.active.foldl (fun s n => s.modGroup n fun g => { g with readySince := none }) s
  p.pending.foldl (fun s n => s.modGroup n fun g =>
    { g with readySince := if g.ready s.cycle then some (g.readySince.getD s.cycle) else none }) s1

/-- The sets of every partition after a step. -/
def State.swapAll (s : State) : State :=
  (s.cores.map (·.1)).foldl (fun s core => (List.range 4).foldl (fun s part => (s.swapPart core part).clockPart core part) s) s

/-! ### Which slot a partition issues (R37, R63) -/

/-- Whether a group has not issued for 64 cycles (R37). -/
def Group.starved (g : Group) (cyc : Nat) : Bool := g.issuedAt + 64 ≤ cyc

/-- The group that issues next of those ready in the active set: the oldest, but a group that has not issued for 64 cycles
issues before any older one (R37, R63; log 105). -/
def State.nextGroup (s : State) (p : Part) : Option Nat :=
  let l := s.readyOf p.active
  match youngestOf (l.filter fun q => q.2.starved s.cycle) with
  | some n => some n
  | none => oldestOf l

/-- Whether a slot goes before its group's other one: that one is not ready, or its address is no lower (R63, R81). -/
def Group.goesFirst (g : Group) (cyc : Nat) (slot : Bool) : Bool :=
  !g.slotReady cyc (!slot) || (g.slot slot).pc ≤ (g.slot (!slot)).pc

/-- Whether a ready slot is the one that its partition issues: the second of a pair, or of the next group the slot at
the lower address (R63). -/
def State.selects (s : State) (gid : Nat) (slot : Bool) : Bool :=
  match s.group? gid with
  | none => false
  | some g => match s.team? g.team with
    | none => false
    | some t =>
      let p := s.part t.core g.part
      match s.pairMate p with
      | some q => q = (gid, slot)
      | none => g.slotReady s.cycle slot && s.nextGroup p = some gid && g.goesFirst s.cycle slot

/-- An issue noted: the cycle of it, and that the group's other slot, where it was ready too, issues next (R37, R63). -/
def State.noteIssue (s : State) (gid : Nat) (slot : Bool) : State :=
  match s.group? gid with
  | none => s
  | some g => match s.team? g.team with
    | none => s
    | some t =>
      let isSecond := (s.part t.core g.part).second = some (gid, slot)
      let s1 := s.modPart t.core g.part fun p => { p with
        second := if !isSecond && g.slotReady s.cycle (!slot) then some (gid, !slot) else none }
      s1.modGroup gid fun g => { g with issuedAt := s.cycle }

/-! ### The replay queue (R252) -/

/-- Whether an instruction enters its partition's replay queue: OPC 0x40 to 0x75. -/
def Instr.replayed (i : Instr) : Bool := match i.xform with
  | some (opc, _) => decide (0x40 ≤ opc) && decide (opc ≤ 0x75)
  | none => false

/-- A source as lanes: its registers, a scalar or an immediate as its two halves, a predicate as bits. -/
def Env.operand (e : Env) (x : XArgs) (a : Src) : List Lanes :=
  match a with
  | .vec _ _ _ | .last _ => (List.range (if x.ty = .b64 then 2 else 1)).map (e.srcVec a)
  | .scal n => [List.replicate 96 ((e.s n).setWidth 32), List.replicate 96 ((e.s n >>> 32).setWidth 32)]
  | .imm => let v := immOf x .int x.ty
    [List.replicate 96 (v.setWidth 32), List.replicate 96 ((v >>> 32).setWidth 32)]
  | .pred n => let p := e.g.regs.pred n.toNat
    [mkLanes fun l => if p.getLsbD l then 1 else 0]
  | .tile _ | .greg _ => []

/-- The operands of a vector instruction as they stand at its issue: the lanes it runs for, and A, B and C (R252). -/
def Env.operands (e : Env) (x : XArgs) : List Lanes :=
  (mkLanes fun l => if (e.active x).getLsbD l then 1 else 0) :: ([x.a, x.b, x.c].map (e.operand x)).flatten

/-- A vector instruction that issued enters its partition's queue of the 16 most recent; `e` is its view at its
issue, and it is issued where its slot does not wait. -/
def State.replayEnter (s : State) (e : Env) (i : Instr) : State :=
  match i.xform, s.group? e.gid with
  | some (_, x), some g =>
    if Instr.replayed i && (g.slot e.slot).wait = .ready then
      s.modPart e.t.core e.g.part fun p => { p with replay := ((e.gid, i, e.operands x) :: p.replay).take 16 }
    else s
  | _, _ => s

/-! ### Moves when none is named -/

/-- Keys of a context whose queue is not empty. -/
def State.queuedKeys (s : State) : List (Nat × KeyId) :=
  (s.ctxs.map fun p => (p.2.keys.filter fun k => k.2.queue ≠ []).map fun k => (p.1, k.1)).flatten

/-- Partitions where some ACQR waits. -/
def State.queuedParts (s : State) : List (Nat × Nat) :=
  (s.cores.map fun p => ((List.range 4).filter fun i => (p.2.parts.getD i {}).acqr ≠ []).map fun i => (p.1, i)).flatten

/-- Internal steps that may have something to do. -/
def State.pendingEvents (s : State) : List Instr :=
  let ofGroup (n : Nat) (g : Group) : List Instr :=
    (g.loads.map fun l => Instr.loadCompletion n l.id l.lanes)
      ++ (List.range 4).filterMap (fun c => ((g.eng.getD c []).findIdx? fun o => !o.fin && o.parked.isNone).map fun k =>
          Instr.engineCompletion n (BitVec.ofNat 2 c) k 65536)
      ++ ((g.mat.zipIdx.filter (·.1.parked.isNone)).map fun p => Instr.matrixCompletion n p.2 384)
      ++ (if g.life = .retiring || (g.life = .ended && g.replays) then [.groupRetire n] else [])
      ++ (match g.life with
        | .suspended r => if r.met then [.suspResume n] else []
        | _ => [])
  (s.pend.map fun p => Instr.storePerformed p.id .pod)
    ++ (s.groups.map fun p => ofGroup p.1 p.2).flatten
    ++ (s.signals.zipIdx.filter (·.1.parked.isNone)).map (fun p => Instr.completionSignal p.2)
    ++ s.queuedKeys.map (fun p => Instr.keyGrant p.1 p.2)
    ++ s.queuedParts.map (fun p => Instr.acqrGrant p.1 p.2)
    ++ (if s.ctxs.any (fun p => p.2.fifos.any (· ≠ [])) then [.dispatchTeam] else [])

/-- The slots that may be named by an issue: those that their partitions select, and those that wait and may test again. -/
def State.issuable (s : State) : List Move :=
  let may (gid : Nat) (g : Group) (slot : Bool) : Bool :=
    g.mayAct slot && !(g.slot slot).wait.rests && ((g.slot slot).wait ≠ .ready || s.selects gid slot)
  (s.groups.map fun p => ([false, true].filter (may p.1 p.2)).map fun b => Move.issue p.1 b).flatten

/-! ### What is due (R64) -/

/-- The youngest group of a list. -/
def State.youngest (s : State) (gids : List Nat) : Option Nat :=
  youngestOf (gids.filterMap fun n => (s.group? n).map fun g => (n, g))

/-- Pending groups that displace an active one now (R64). Of several of one partition that are due at once the first of its pending set
goes first: R64 leaves it open (DESIGN CHOICE, log 132). -/
def State.displacements (s : State) : List (Nat × Instr) :=
  (s.cores.map fun p => ((List.range 4).map fun i => (s.part p.1 i).pending.filterMap fun n =>
    match (s.group? n).bind (·.readySince), s.youngest (s.part p.1 i).active with
    | some c, some _ => if c + 4032 ≤ s.cycle then some (c + 4032, Instr.pendingDisplace p.1 i n) else none
    | _, _ => none).flatten).flatten

end Sys2Proof.Machine
end

