-- ==== Sys2Proof/Machine/MatrixRun.lean ====
section
/-! DEFINITION. The arithmetic of matrix operations and their completion (R131, R158 to R161, R217 to R219, R352,
R355 to R359, R364, R365). -/

namespace Sys2Proof.Machine

/-! ### Fragments (R160, R161) -/

/-- Element (r, c) of a tile. -/
def tileElem (t : List Lanes) (r c : Nat) : Nat := (lane (t.getD (c / 3) []) (3 * r + c % 3)).toNat

/-- The tile of a function of row and column. -/
def mkTile (f : Nat → Nat → Nat) : List Lanes :=
  (List.range 16).map fun j => mkLanes fun l => BitVec.ofNat 32 (f (l / 3) (3 * j + l % 3))

/-- Element j of a lane's word at a type (R120). -/
def subElem (ty : Ty) (w : Word) (j : Nat) : Nat := w.toNat / 2 ^ (ty.width * j) % 2 ^ ty.width

/-- Elements of a type in a 32-bit lane. -/
def perLane (ty : Ty) : Nat := 32 / ty.width

/-- Element (r, k) of an A fragment of K columns. -/
def elemA (ty : Ty) (cols : Nat) (a : List Lanes) (r k : Nat) : Nat :=
  let e := perLane ty
  let q := cols / 8
  subElem ty (lane (a.getD (k / q) []) (3 * r + k % q / e)) (k % e)

/-- Element (k, c) of a B fragment. -/
def elemB (ty : Ty) (b : List Lanes) (k c : Nat) : Nat :=
  let e := perLane ty
  subElem ty (lane (b.getD (c / 4) []) (24 * (c % 4) + k / e)) (k % e)

/-- The column within its block of 32 of stored value v of row r: five bits of the 160 of its lane (R161). -/
def sparseIdx (idx : List Lanes) (r v : Nat) : Nat :=
  let l := 3 * r + v % 12 / 4
  let q := 4 * (v / 12) + v % 4
  let str := (List.range 5).foldl (fun n j => n + (lane (idx.getD j []) l).toNat * 2 ^ (32 * j)) 0
  str / 2 ^ (5 * q) % 32

/-- One accumulation (R131, R358). -/
def accumulate (ty : Ty) (acc a b : Nat) : Nat :=
  match ty with
  | .bf16 | .f16 | .dl8 => (f32.addV .rne (mulV (tyValue ty a) (tyValue ty b)) (f32.decode acc)).1
  | _ =>
    let v (x : Nat) : Int := if tySigned ty then sextInt x ty.width else x
    wrap (acc + v a * v b) 32

/-- Columns K of A at a type (R357). -/
def innerK (ty : Ty) : Nat := 24 * perLane ty

/-- The dense product added to a tile. -/
def mmaTile (ty : Ty) (t a b : List Lanes) : List Lanes :=
  mkTile fun r c => (List.range (innerK ty)).foldl (fun acc k =>
    accumulate ty acc (elemA ty (innerK ty) a r k) (elemB ty b k c)) (tileElem t r c)

/-- The sparse product added to a tile, N of 32 stored (R161, R359). -/
def mmasTile (ty : Ty) (n : Nat) (t a b idx : List Lanes) : List Lanes :=
  mkTile fun r c => (List.range 96).foldl (fun acc v =>
    let k := 32 * (v / n) + sparseIdx idx r v
    accumulate ty acc (elemA ty 96 a r v) (elemB ty (b.drop (12 * (k / 96))) (k % 96) c)) (tileElem t r c)

/-- Whether MQK masks an element (R217). -/
def mqkMasked (mode : Nat) (x : BitVec 64) (rows : List Nat) (r c : Nat) : Bool :=
  match mode with
  | 0 => false
  | 1 => (r : Int) < c + sextInt x.toNat 32
  | _ =>
    let b := x.toNat / 2 ^ 32 + c
    95 < b || !bit (rows.getD r 0) b

/-- The masked product (R217). -/
def mqkTile (ty : Ty) (mode : Nat) (x : BitVec 64) (rows : List Nat) (t a b : List Lanes) : List Lanes :=
  let p := mmaTile ty t a b
  mkTile fun r c => if mqkMasked mode x rows r c then 0xFF800000 else tileElem p r c

/-! ### Softmax (R218) -/

/-- A row of MSMX: its new entries, M, L and whether it is empty. -/
structure SoftRow where
  row : List Nat
  m : Nat
  l : Nat
  empty : Bool
  deriving DecidableEq, Repr

/-- A quotient of finite f32 numbers rounded by rne. -/
def divRne (a b : Nat) : Nat :=
  match f32.decode a, f32.decode b with
  | .fin n1 m1 e1, .fin n2 m2 e2 => if m2 = 0 then f32.nan else (f32.divFin .rne n1 m1 e1 n2 m2 e2).1
  | _, _ => f32.nan

/-- One row of 48 entries. -/
def softRow (part : Bool) (row : List Nat) : SoftRow :=
  let x := row.map fun v => if f32.isNan v then 0xFF800000 else v
  let m := x.foldl (f32.minMax true) 0xFF800000
  if m = 0xFF800000 then
    { row := row.map fun _ => 0, m, l := if part then 0 else 0xFF800000, empty := true }
  else
    -- equal as numbers: a zero of either sign equals a zero
    let same (v : Nat) : Bool := v = m || (v % 2 ^ 31 = 0 && m % 2 ^ 31 = 0)
    let e := x.map fun v => expRne (if same v then 0 else (f32.sub .rne v m).1)
    let sum := e.foldl (fun a v => (f32.add .rne a v).1) 0
    { row := if part then e else e.map fun v => divRne v sum
      m, l := if part then sum else (f32.add .rne m (lnRne sum)).1, empty := false }

/-- The rows of a tile. -/
def tileRows (t : List Lanes) : List (List Nat) :=
  (List.range 32).map fun r => (List.range 48).map fun c => tileElem t r c

/-- MSMX on a tile: the new tile, and the registers of M, L and Z (R218). -/
def softTile (part : Bool) (t : List Lanes) : List Lanes × List Lanes :=
  let rows := (tileRows t).map (softRow part)
  let at_ (r : Nat) : SoftRow := rows.getD r ⟨[], 0, 0, false⟩
  let z := (List.range 32).foldl (fun n r => if (at_ r).empty then n + 2 ^ r else n) 0
  (mkTile fun r c => (at_ r).row.getD c 0,
    [mkLanes fun l => BitVec.ofNat 32 (at_ (l / 3)).m, mkLanes fun l => BitVec.ofNat 32 (at_ (l / 3)).l,
      mkLanes fun _ => BitVec.ofNat 32 z])

/-! ### MLDT and MSTT (R355) -/

/-- The address of 16-byte unit u of a tile in memory. -/
def tileUnit (b : BitVec 64) (pitch u : Nat) : Nat := b.toNat + u / 12 * pitch + 16 * (u % 12)

/-- The four elements of unit u written. -/
def setUnit (t : List Lanes) (u : Nat) (bs : List Byte) : List Lanes :=
  let r := u / 12
  (List.range 4).foldl (fun t i =>
    let c := 4 * (u % 12) + i
    t.set (c / 3) ((t.getD (c / 3) []).set (3 * r + c % 3) (BitVec.ofNat 32 (leNat ((bs.drop (4 * i)).take 4))))) t

/-- The 16 bytes of unit u. -/
def tileUnitBytes (t : List Lanes) (u : Nat) : List Byte :=
  ((List.range 4).map fun i => leBytes 4 (tileElem t (u / 12) (4 * (u % 12) + i))).flatten

/-- What one attempt at a piece of an engine's or a matrix operation's memory comes to. -/
inductive Piece
  | done (bs : List Byte) (s : State)
  | park (w : PageWant) (s : State)
  | wait (s : State)
  | err (code : TrapCode) (s : State)

/-- The team, grid and context of a group, and what it sees. -/
structure Actor where
  gid : Nat
  g : Group
  t : Team
  gr : Grid
  c : Ctx

/-- The actor of a group. -/
def State.actor (s : State) (gid : Nat) : Option Actor :=
  match s.group? gid with
  | none => none
  | some g => match s.team? g.team with
    | none => none
    | some t => match s.grid? t.grid with
      | none => none
      | some gr => match s.ctx? gr.ctx with
        | none => none
        | some c => some { gid, g, t, gr, c }

/-- The group's view. -/
def Actor.viewer (a : Actor) : Viewer := .group a.gid a.g.team a.t.core

/-- A request of an engine or matrix operation sent to a page's home (R157, R205). -/
def State.sendEng (s : State) (a : Actor) (op part node va : Nat) (kind : FabKind) : State :=
  let req : FabReq := { node := s.node, id := s.nextId, ctxid := a.gr.ctx, va := BitVec.ofNat 64 va, kind, hops := 0 }
  let o : FabOut := { id := s.nextId, gid := a.gid, slot := false, eng := some (op, part), idx := part, dest := node, req }
  ({ s with nextId := s.nextId + 1, fabOut := s.fabOut ++ [o] }).sendTo node req

/-- A piece's remote part: its answer when it has come, else it is sent or awaited. A read of a lichen half's carries the bytes of
the page that the half holds (R250, R356). -/
def State.awayPiece (s : State) (a : Actor) (op part node va : Nat) (reps : List (Nat × FabRep)) (kind : FabKind) : Piece :=
  match reps.find? fun r => r.1 = part with
  | some (_, r) => match repTrap r with
    | some c => .err c s
    | none => .done (repBytes r) s
  | none =>
    -- a page whose earlier operation of the group is under way takes no later one (R206)
    if s.pageBusy a.gid va then .wait s
    else if !s.admits a.c.vf 1 then .wait s
    else .wait ((s.charge a.c.vf 1 128).sendEng a op part node va (if a.g.pair.isSome then carrying (s.ownBytes a.g.team va) kind else kind))

/-- HBM bytes of an access of n bytes that begins in the 64-byte unit its operation touched last, or in another one (R65). -/
def touched (fresh : Bool) (pa n : Nat) : Nat := unitBytes pa n - (if fresh then 0 else 64)

/-- Bytes read or written at a virtual address of device memory for an engine or matrix operation: `out` is none for
a read; a lichen half holds the write of a unit that is numbered (R352). -/
def State.devPiece (s : State) (a : Actor) (op part va n : Nat) (reps : List (Nat × FabRep)) (fresh : Bool)
    (out : Option (List Byte)) (unit : Option Nat := none) : Piece :=
  match s.translate a.gr.ctx a.c a.t.core va (if out.isSome then 5 else 4) with
  | (.ok pa _, s1) =>
    let s2 := s1.charge a.c.vf 0 (touched fresh pa n)
    match out with
    | none => .done (s2.bytes a.viewer none pa n) s2
    | some bs => .done [] (s2.addStore a.gid a.g.team a.t.core none pa bs (if unit.isSome then .group else .pod) unit.isSome va false unit)
  | (.access, s1) => .err .access s1
  | (.park w h m, s1) => .park w (s1.fault w h m)
  | (.deferred, s1) => .wait s1
  | (.remote node, s1) => match out, unit with
    | none, _ => s1.awayPiece a op part node va reps (.read n)
    | some bs, none => s1.awayPiece a op part node va reps (.write bs)
    | some bs, some u =>
      let o : AwayOp := { gid := a.gid, id := s1.nextId, node, va := BitVec.ofNat 64 va, kind := .write bs, unit := some u }
      .done [] ({ s1 with nextId := s1.nextId + 1 }.modTeam a.g.team fun t => { t with away := t.away ++ [o] })

/-- One 16-byte unit of an MLDT or MSTT. -/
def State.tilePiece (s : State) (a : Actor) (op : MatOp) (dev store : Bool) (va : Nat) (bs : List Byte) : Piece :=
  let unit := if store && a.g.pair.isSome then some op.id else none
  if dev then
    (if !s.admits a.c.vf 0 then .wait s
    else s.devPiece a op.id op.units va 16 op.reps (va % 64 = 0 || op.units % 12 = 0) (if store then some bs else none) unit)
  else if store then
    .done [] (s.addStore a.gid a.g.team a.t.core (some a.g.team) va bs .team unit.isSome va false unit)
  else .done (s.bytes a.viewer (some a.g.team) va 16) s

/-- What the group stored before it issued an engine or matrix operation is performed before the operation's first access; none
while an earlier access of the group at another module is under way (R157, R177, R186, R187, R356). -/
def State.afterEarlier (s : State) (a : Actor) (id : Nat) : Option State :=
  if s.fabOut.any fun o => o.gid = a.gid && o.id < id && o.eng.isNone && !o.signal then none
  else if s.pend.any fun p => p.gid = a.gid && !p.held && p.id < id then
    some (s.performAt .pod fun p => p.gid = a.gid && !p.held && p.id < id)
  else some s

/-! ### Completion -/

/-- An error's place among those kept, by issue (R352). -/
def insertErr (x : MatErr) : List MatErr → List MatErr
  | [] => [x]
  | y :: l => if x.id < y.id then x :: y :: l else y :: insertErr x l

/-- An operation of a group changed in place. -/
def Group.modMat (g : Group) (id : Nat) (f : MatOp → MatOp) : Group :=
  { g with mat := g.mat.map fun o => if o.id = id then f o else o }

/-- An operation is over: its error is kept, and instructions that wait for it go on. -/
def State.matDone (s : State) (gid : Nat) (op : MatOp) (err : Option (TrapCode × Nat)) : State :=
  (s.modGroup gid fun g => { g with
    mat := g.mat.filter fun o => o.id ≠ op.id
    matErr := match err with
      | some (c, va) => insertErr { id := op.id, tile := op.tile, batch := op.batch, code := c.num, addr := BitVec.ofNat 64 va } g.matErr
      | none => g.matErr }).wake gid fun w => w = .matrix || w = .loads || w = .engine

/-- The values of an MLDT enter the log entry that was kept for them, in ascending row and column (R243). -/
def Group.fillLog (g : Group) (i : Nat) (vals : List Nat) : Group :=
  match g.audit with
  | .selected log n => match log[i]? with
    | some x => { g with audit := .selected (log.set i { x with vals }) n }
    | none => g
  | _ => g

/-- MLDT and MSTT go on by at most `fuel` units. -/
def State.tileRun (s : State) (gid id : Nat) : Nat → State
  | 0 => s
  | fuel + 1 =>
    match s.actor gid with
    | none => s
    | some a => match a.g.mat.find? fun o => o.id = id with
      | none => s
      | some op =>
        let go (dev store : Bool) (b : BitVec 64) (pitch : Nat) (entry : Option Nat) : State :=
          let tile := a.g.regs.tile op.tile
          if op.parked.isSome then s
          else if 384 ≤ op.units then
            let s1 := match entry with
              | some i => s.modGroup gid fun g => g.fillLog i (tileRows tile).flatten
              | none => s
            s1.matDone gid op none
          else
            let va := tileUnit b pitch op.units
            match s.tilePiece a op dev store va (tileUnitBytes tile op.units) with
            | .done bs s1 =>
              let s2 := s1.modGroup gid fun g =>
                let g1 := g.modMat id fun o => { o with units := o.units + 1, parked := none, reps := [] }
                if store then g1 else { g1 with regs := g1.regs.setTile op.tile (setUnit tile op.units bs) }
              s2.tileRun gid id fuel
            | .park w s1 => s1.modGroup gid fun g => g.modMat id fun o => { o with parked := some w }
            | .wait s1 => s1
            | .err c s1 => s1.matDone gid op (some (c, va))
        match op.kind with
        | .mldt dev b pitch none entry => go dev false b pitch entry
        | .mstt dev b pitch => go dev true b pitch none
        | _ => s

/-- MLDT and MSTT go on, after what the group stored before them. -/
def State.tileMove (s : State) (gid id fuel : Nat) : State :=
  match s.actor gid with
  | none => s
  | some a => match s.afterEarlier a id with
    | none => s
    | some s1 => s1.tileRun gid id fuel

/-- A tile replaced, and the operation over. -/
def State.tileDone (s : State) (gid : Nat) (op : MatOp) (t : List Lanes) : State :=
  (s.modGroup gid fun g => { g with regs := g.regs.setTile op.tile t }).matDone gid op none

/-- MATRIX_COMPLETION: operation `idx` of a group, unless an earlier one names its tile, completes; MLDT and MSTT
move by at most `units` + 1 units (R159, R352). -/
def execMatrixCompletion (gid idx units : Nat) (s : State) : Host.Outcome State Fault Refusal :=
  .next (match s.group? gid with
    | none => s
    | some g => match g.mat[idx]? with
      | none => s
      | some op =>
        if g.life = .saved || (g.mat.take idx).any (fun o => o.tile = op.tile) then s
        else
          let t := g.regs.tile op.tile
          match op.kind with
          | .mma ty a b => s.tileDone gid op (mmaTile ty t a b)
          | .mmas ty n a b i => s.tileDone gid op (mmasTile ty n t a b i)
          | .mqk ty mode x rows a b => s.tileDone gid op (mqkTile ty mode x rows t a b)
          | .mzero => s.tileDone gid op (mkTile fun _ _ => 0)
          | .msmx part d lanes =>
            let (t', rs) := softTile part t
            (s.modGroup gid fun g => { g with regs := g.regs.setVecs d lanes rs }).tileDone gid op t'
          | .mldt _ _ _ (some vals) _ => s.tileDone gid op (mkTile fun r c => vals.getD (48 * r + c) 0)
          | .mstt _ _ _ => match g.audit with
            | .replay _ _ _ => s.matDone gid op none
            | _ => s.tileMove gid op.id (units + 1)
          | .mldt _ _ _ none _ => s.tileMove gid op.id (units + 1))

end Sys2Proof.Machine
end

