-- ==== Sys2Proof/Machine/EngineRun.lean ====
section
/-! DEFINITION. The progress of engine operations (R135, R142, R150, R151, R155 to R157, R312 to R320, R335, R392). -/

namespace Sys2Proof.Machine

/-! ### Pieces with the address of their element -/

/-- What an attempt at some elements comes to; an error names the element's address. -/
inductive Got
  | val (bs : List Byte) (s : State)
  | park (w : PageWant) (s : State)
  | wait (s : State)
  | err (code : TrapCode) (va : Nat) (s : State)

/-- A piece's outcome for the element at an address. -/
def Piece.at (va : Nat) : Piece → Got
  | .done bs s => .val bs s
  | .park w s => .park w s
  | .wait s => .wait s
  | .err c s => .err c va s

/-- What follows a value. -/
def Got.andThen (x : Got) (k : List Byte → State → Got) : Got :=
  match x with
  | .val bs s => k bs s
  | r => r

/-- Bytes read on the fabric side: here where the route names this module, else at the page's home (R205, R319). -/
def State.fabPiece (s : State) (a : Actor) (op part va n : Nat) (reps : List (Nat × FabRep)) (fresh : Bool) : Piece :=
  match s.destination a.gr.ctx a.c a.t.core va with
  | none => .err .access s
  | some node =>
    if node = s.node then s.devPiece a op part va n reps fresh none
    else s.awayPiece a op part node va reps (.read n)

/-- Bytes of one 16-byte unit written in one step, at offsets from the unit's address (R156). -/
def State.unitPiece (s : State) (a : Actor) (op part va : Nat) (reps : List (Nat × FabRep)) (fresh : Bool)
    (ps : List (Nat × List Byte)) : Piece :=
  match s.translate a.gr.ctx a.c a.t.core va 5 with
  | (.ok pa _, s1) => .done [] (ps.foldl (fun s p =>
      s.addStore a.gid a.g.team a.t.core none (pa + p.1) p.2 .pod false (va + p.1)) (s1.charge a.c.vf 0 (touched fresh pa 16)))
  | (.access, s1) => .err .access s1
  | (.park w h m, s1) => .park w (s1.fault w h m)
  | (.deferred, s1) => .wait s1
  | (.remote node, s1) => s1.awayPiece a op part node va reps (.unit ps)

/-! ### Elements (R151) -/

/-- An element as an engine delivers it: f32 bits (R151). -/
def Format.deliver (f : Format) (rd : Nat → Nat → Nat) (u i : Nat) : Nat :=
  let x := f.load rd u i
  if f.fmt = 5 then (convert .i32 .f32 .rne x).1 else x

/-- An f32 word as an engine encodes it into a page (R151). -/
def Format.encode (f : Format) (x : Nat) : List Byte :=
  if f.fmt = 5 then leBytes 1 (convert .f32 .i8 .rne x).1 else f.store .rne x

/-- The i-th element of a typed run of n from an address on this module; every fault of R150 is ACCESS (log 39). -/
def State.typedRead (s : State) (a : Actor) (op part va i n : Nat) (reps : List (Nat × FabRep)) (counted : Bool) : Piece :=
  match s.translate a.gr.ctx a.c a.t.core va 4 with
  | (.ok pa leaf, s1) =>
    let f := formatOf leaf
    if typedCheck f false (pa % 65536) n ≠ .ok then .err .access s1
    else
      let spot (k : Nat) : Nat := (pa + k * f.nibbles / 2) / 64
      let s2 := if counted && (i = 0 || spot i ≠ spot (i - 1)) then s1.charge a.c.vf 0 64 else s1
      let page := pa / 65536 * 65536
      .done (leBytes 4 (f.deliver (fun u k => s2.num a.viewer none (page + u) k) (pa % 65536) i)) s2
  | (.access, s1) => .err .access s1
  | (.park w h m, s1) => .park w (s1.fault w h m)
  | (.deferred, s1) => .wait s1
  | (.remote node, s1) => s1.awayPiece a op part node va reps (.engRead i n)

/-- Elements of a typed run of n, from element i on, written in one step. -/
def State.typedWrite (s : State) (a : Actor) (op part va i n : Nat) (reps : List (Nat × FabRep)) (fresh : Bool) (xs : List Nat) : Piece :=
  match s.translate a.gr.ctx a.c a.t.core va 5 with
  | (.ok pa leaf, s1) =>
    let f := formatOf leaf
    if typedCheck f true (pa % 65536) n ≠ .ok then .err .access s1
    else
      let at_ := pa + i * f.nibbles / 2
      let bs := (xs.map f.encode).flatten
      .done [] ((s1.charge a.c.vf 0 (touched fresh at_ bs.length)).addStore a.gid a.g.team a.t.core none at_ bs .pod false
        (va + i * f.nibbles / 2))
  | (.access, s1) => .err .access s1
  | (.park w h m, s1) => .park w (s1.fault w h m)
  | (.deferred, s1) => .wait s1
  | (.remote node, s1) => s1.awayPiece a op part node va reps (.engWrite i n (xs.map (BitVec.ofNat 32)))

/-- Whether an operation's record lies in fabric memory, and whether its destination does (R319). -/
def EngKind.srcFab : EngKind → Bool
  | .cpyf d => d ≠ 0
  | _ => false
def EngKind.dstFab : EngKind → Bool
  | .cpyf d => d = 0
  | _ => false
/-- Whether the dense side is scratchpad. -/
def EngKind.dense : EngKind → Bool
  | .cpy dev | .gath dev | .scat dev => !dev
  | .cpyf d => d = 1
  | .coll _ _ => false

/-- The run of the record that the k-th dense run pairs with. -/
def EngOp.runNo (op : EngOp) (k : Nat) : Nat :=
  match op.kind with
  | .gath _ | .scat _ => op.runs.getD k 0
  | _ => k
/-- Elements of the operation. -/
def EngOp.total (op : EngOp) : Nat :=
  let r := op.record.toNat
  recSize r 0 * (match op.kind with
    | .gath _ | .scat _ => op.runs.length
    | _ => recRuns r)
/-- Where the record's run starts for the k-th dense run. -/
def EngOp.start (op : EngOp) (k : Nat) : Int :=
  let r := op.record.toNat
  recStart r ((BitVec.ofNat 64 (recBase r) + op.off).toNat : Int) (op.runNo k)
/-- Where element n lies on the dense side. -/
def EngOp.dense (op : EngOp) (n : Nat) : Nat :=
  let r := op.record.toNat
  op.other.toNat + n / recSize r 0 * recPitch r + n % recSize r 0 * recZ r

/-- The bytes of element i of a record's run that starts at rs, raw or delivered as f32. `counted`: the 64-byte unit that it
begins counts in the HBM budget. A raw record's bytes are read whatever GEOM their entry has: R196 has raw accesses use it
normally, where R147 names every engine read (DEDUCED, log 136). -/
def State.recordElem (s : State) (a : Actor) (op : EngOp) (part : Nat) (rs : Int) (i : Nat) (counted : Bool) : Got :=
  let r := op.record.toNat
  let z := recZ r
  let va : Int := if recTyped r then rs else rs + i * recStride r 0
  if va < 0 || 2 ^ 56 < va + z then .err .access va.toNat s
  else
    let v := va.toNat
    if recTyped r then
      let n := recSize r 0
      let local_ : Piece := s.typedRead a op.id part v i n op.reps counted
      (if op.kind.srcFab then
        match s.destination a.gr.ctx a.c a.t.core v with
        | none => Piece.err .access s
        | some node => if node = s.node then local_ else s.awayPiece a op.id part node v op.reps (.engRead i n)
      else local_).at v
    else
      let fresh : Bool := counted && (i = 0 || (va - recStride r 0) / 64 ≠ va / 64)
      (if op.kind.srcFab then s.fabPiece a op.id part v z op.reps fresh else s.devPiece a op.id part v z op.reps fresh none).at v

/-- Element i of the k-th run as the destination receives it, rotated where the record says (R135, R151, R316). -/
def State.readElem (s : State) (a : Actor) (op : EngOp) (n : Nat) : Got :=
  let r := op.record.toNat
  let len := recSize r 0
  let (k, i) := (n / len, n % len)
  let rs := op.start k
  if !recRot r then s.recordElem a op (8 * n) rs i true
  else
    let half := len / 2
    let (pair, x, y) := if recHalves r then (i % half, i % half, i % half + half) else (i / 2, i / 2 * 2, i / 2 * 2 + 1)
    (s.recordElem a op (8 * n) rs x (i = x)).andThen fun bx s1 =>
      (s1.recordElem a op (8 * n + 1) rs y (i = y)).andThen fun by_ s2 =>
        let fva := recRfrq r + 4 * pair
        if 2 ^ 56 < fva + 4 then .err .access fva s2
        else
          let fresh : Bool := i = x && (pair = 0 || fva % 64 = 0)
          ((s2.devPiece a op.id (8 * n + 2) fva 4 op.reps fresh none).at fva).andThen fun bf s3 =>
            let pos := recRpos0 r + recIndex r (op.runNo k) (recRdim r)
            let out := rotatePair (pos * leNat bf % 2 ^ 32) (leNat bx) (leNat by_)
            .val (leBytes 4 (if i = x then out.1 else out.2)) s3

/-! ### Copies (R156, R316) -/

/-- The 16-byte unit that a copy writes next: that of the first element not written whole, or the one after the last unit
written, where that element goes on there. -/
def EngOp.unit (op : EngOp) : Nat := max (op.dense op.done / 16) op.stage

/-- Elements from n on that begin before the end of a unit. -/
def EngOp.unitFrom (op : EngOp) (unit n : Nat) : Nat → List Nat
  | 0 => []
  | fuel + 1 => if n < op.total && op.dense n < 16 * (unit + 1) then n :: op.unitFrom unit (n + 1) fuel else []

/-- The elements with bytes in the unit that a copy writes next. -/
def EngOp.unitElems (op : EngOp) : List Nat := op.unitFrom op.unit op.done 17

/-- Those of an element's bytes, at a dense address, that lie in a unit: their offset in the unit, and the bytes. -/
def clipUnit (unit va : Nat) (bs : List Byte) : Nat × List Byte :=
  let lo := max va (16 * unit)
  (lo - 16 * unit, (bs.drop (lo - va)).take (16 * (unit + 1) - lo))

/-- The operation past its next unit. -/
def EngOp.pass (op : EngOp) : EngOp :=
  let z := recZ op.record.toNat
  { op with done := op.done + (op.unitElems.filter fun n => op.dense n + z ≤ 16 * (op.unit + 1)).length
            stage := op.unit + 1, parked := none, reps := [] }

/-- The bytes of several elements, each with its dense address. -/
def State.readUnit (s : State) (a : Actor) (op : EngOp) : List Nat → List (Nat × List Byte) →
    (List (Nat × List Byte) → State → Got) → Got
  | [], out, k => k out s
  | n :: ns, out, k => (s.readElem a op n).andThen fun bs s1 => s1.readUnit a op ns (out ++ [(op.dense n, bs)]) k

/-- Dense bytes of one unit written, in one step (R156). -/
def State.writeUnit (s : State) (a : Actor) (op : EngOp) (ps : List (Nat × List Byte)) : Got :=
  let va := 16 * op.unit
  let fresh : Bool := op.stage = 0 || va % 64 = 0 || 16 * op.stage < va
  if op.kind.dense then
    .val [] (ps.foldl (fun s p => s.addStore a.gid a.g.team a.t.core (some a.g.team) (va + p.1) p.2 .team false (va + p.1)) s)
  else if 2 ^ 56 ≤ va then .err .access va s
  else
    let part := 8 * op.done + 5
    let here := s.unitPiece a op.id part va op.reps fresh ps
    (if op.kind.dstFab then match s.destination a.gr.ctx a.c a.t.core va with
      | none => Piece.err .access s
      | some node => if node = s.node then here else s.awayPiece a op.id part node va op.reps (.unit ps)
    else here).at va

/-- Whether the page of a unit can be written before any of its elements is read. -/
def State.unitReady (s : State) (a : Actor) (op : EngOp) (va : Nat) : Got :=
  if op.kind.dense || op.kind.dstFab || 2 ^ 56 ≤ va then .val [] s
  else match s.translate a.gr.ctx a.c a.t.core va 5 with
    | (.park w h m, s1) => .park w (s1.fault w h m)
    | (.deferred, s1) => .wait s1
    | (_, s1) => .val [] s1

/-- The next unit of a copy: its elements are read, and its bytes written; the value is as long as they are. -/
def State.copyUnit (s : State) (a : Actor) (op : EngOp) : Got :=
  (s.unitReady a op (16 * op.unit)).andThen fun _ s0 =>
    s0.readUnit a op op.unitElems [] fun vals s1 =>
      let ps := vals.map fun p => clipUnit op.unit p.1 p.2
      (s1.writeUnit a op ps).andThen fun _ s2 => .val (ps.map (·.2)).flatten s2

/-! ### Scatters (R392) -/

/-- An element of the dense source, which may lie in two pages. -/
def State.denseElem (s : State) (a : Actor) (op : EngOp) (n : Nat) : Got :=
  let z := recZ op.record.toNat
  let va := op.dense n
  if op.kind.dense then .val (s.bytes a.viewer (some a.g.team) va z) s
  else if 2 ^ 56 < va + z then .err .access va s
  else
    let k := min z (65536 - va % 65536)
    let fresh : Bool := n = 0 || (op.dense (n - 1) + z - 1) / 64 ≠ va / 64
    ((s.devPiece a op.id (8 * n + 3) va k op.reps fresh none).at va).andThen fun b s1 =>
      if k = z then .val b s1
      else ((s1.devPiece a op.id (8 * n + 4) (va + k) (z - k) op.reps true none).at (va + k)).andThen fun b2 s2 => .val (b ++ b2) s2

/-- Where element n of a scatter lies, on pages of a format. -/
def EngOp.scatAt (op : EngOp) (f : Format) (n : Nat) : Int :=
  let r := op.record.toNat
  let i := n % recSize r 0
  op.start (n / recSize r 0) + (if recTyped r then ((i * f.nibbles / 2 : Nat) : Int) else i * recStride r 0)

/-- The elements of a scatter that are written in one step with element `done`: those of its 16-byte unit; none where an earlier
element's step wrote it (R156). -/
def EngOp.scatElems (op : EngOp) (f : Format) : List Nat :=
  let r := op.record.toNat
  let page (n : Nat) : Int := if recTyped r then op.start (n / recSize r 0) / 65536 else 0
  let same (m : Nat) : Bool := page m = page op.done && op.scatAt f m / 16 = op.scatAt f op.done / 16
  if (List.range op.done).any same then [] else ((List.range (op.total - op.done)).map (op.done + ·)).filter same

/-- The format of the page that element `done` of a scatter goes to, and the module that holds it where that is another one, which
is asked once a page (R151, R205). A raw record's elements have none. -/
def State.scatFormat (s : State) (a : Actor) (op : EngOp) (va : Nat) (k : Format → Option Nat → State → Got) : Got :=
  let r := op.record.toNat
  let raw : Format := { fmt := 0, geom := 0 }
  if !recTyped r then k raw none s
  else match s.translate a.gr.ctx a.c a.t.core va 5 with
    | (.ok _ leaf, s1) => k (formatOf leaf) none s1
    | (.access, s1) => .err .access va s1
    | (.park w h m, s1) => .park w (s1.fault w h m)
    | (.deferred, s1) => .wait s1
    | (.remote node, s1) => match op.fmtAt.filter fun p => p.1 = va / 65536 with
      | some p => k { fmt := p.2, geom := 0 } (some node) s1
      | none => ((s1.awayPiece a op.id (8 * op.done + 6) node va op.reps (.probe 5 (recSize r 0))).at va).andThen fun bs s2 =>
        let fmt := (bs.headD 0).toNat
        k { fmt, geom := 0 } (some node) (s2.modGroup a.gid fun g => { g with
          eng := g.eng.map fun q => q.map fun o => if o.id = op.id then { o with fmtAt := some (va / 65536, fmt) } else o })

/-- Typed elements written one after the other, in one step. -/
def State.scatTyped (s : State) (a : Actor) (op : EngOp) : List (Nat × List Byte) → Bool → Got
  | [], _ => .val [] s
  | (n, bs) :: rest, fresh =>
    let r := op.record.toNat
    let rs := (op.start (n / recSize r 0)).toNat
    ((s.typedWrite a op.id (8 * op.done + 5) rs (n % recSize r 0) (recSize r 0) op.reps fresh [leNat bs]).at rs).andThen
      fun _ s1 => s1.scatTyped a op rest false

/-- The next step of a scatter: the elements of a unit are read and written; the value is as long as their bytes. A unit of typed
elements on another module is encoded here and sent as one write (R156). -/
def State.scatUnit (s : State) (a : Actor) (op : EngOp) : Got :=
  let r := op.record.toNat
  let (rs, i) := (op.start (op.done / recSize r 0), op.done % recSize r 0)
  let va : Int := if recTyped r then rs else rs + i * recStride r 0
  if va < 0 || 2 ^ 56 < va + recZ r then .err .access va.toNat s
  else s.scatFormat a op va.toNat fun f node s0 =>
    let ns := op.scatElems f
    if ns = [] then .val [] s0
    else
      let read := ns.foldl (fun (acc : Option (List (Nat × List Byte)) × Got) n => match acc with
        | (some out, .val _ s1) => match s1.denseElem a op n with
          | .val bs s2 => (some (out ++ [(n, bs)]), .val [] s2)
          | g => (none, g)
        | x => x) (some [], .val [] s0)
      match read with
      | (some vals, .val _ s1) =>
        let moved := (vals.map (·.2)).flatten
        let part := 8 * op.done + 5
        let unit := 16 * ((op.scatAt f op.done).toNat / 16)
        let place (enc : List Byte → List Byte) : List (Nat × List Byte) :=
          vals.map fun p => ((op.scatAt f p.1).toNat - unit, enc p.2)
        (match recTyped r, node with
        | false, _ => (s1.unitPiece a op.id part unit op.reps true (place id)).at va.toNat
        | true, none => s1.scatTyped a op vals true
        | true, some n => match ns.find? fun m => typedCheck f true ((op.start (m / recSize r 0)).toNat % 65536) (recSize r 0) ≠ TypedCheck.ok with
          | some m => .err .access (op.start (m / recSize r 0)).toNat s1
          | none => (s1.awayPiece a op.id part n unit op.reps (.unit (place fun bs => f.encode (leNat bs)))).at va.toNat).andThen
            fun _ s2 => .val moved s2
      | (_, g) => g

/-- A scatter past an element; the others of its unit are passed when they are met. -/
def EngOp.scatPass (op : EngOp) : EngOp := { op with done := op.done + 1, parked := none, reps := [] }

/-! ### Collectives (R312, R313, R314) -/

/-- The reduction of one element over the ranks in ascending order (R313). -/
def collReduce (fn : Nat) (ty : Ty) (xs : List Nat) : Nat :=
  let sum (acc x : Nat) : Nat := match ty with
    | .f32 | .bf16 => (f32.add .rne acc x).1
    | _ => (acc + x) % 2 ^ 32
  let pick (isMax : Bool) (acc x : Nat) : Nat := match ty with
    | .f32 => f32.minMax isMax acc x
    | .bf16 => bf16.minMax isMax acc x
    | .i32 => if (sextInt acc 32 < sextInt x 32) = isMax then x else acc
    | _ => if (acc < x) = isMax then x else acc
  match xs with
  | [] => 0
  | x :: rest =>
    if fn = 1 || fn = 2 then
      -- min and max: two NaN, or one alone, give the canonical NaN
      (match ty with
        | .f32 => rest.foldl (pick (fn = 1)) (f32.minMax true x x)
        | .bf16 => rest.foldl (pick (fn = 1)) (bf16.minMax true x x)
        | _ => rest.foldl (pick (fn = 1)) x)
    else match ty with
      | .bf16 =>
        let w (v : Nat) : Nat := (convert .bf16 .f32 .rne v).1
        (convert .f32 .bf16 .rne (rest.foldl (fun acc v => sum acc (w v)) (w x))).1
      | _ => rest.foldl sum x

/-- Destination elements of a collective (R313). -/
def EngOp.collCount (op : EngOp) (fn : Nat) : Nat :=
  let e := recElems op.record.toNat
  match fn with
  | 3 => op.peers.length * e
  | 4 => e / op.peers.length
  | _ => e

/-- Element k of the destination from the ranks' elements (R313). -/
def EngOp.collElem (op : EngOp) (fn : Nat) (ty : Ty) (data : List (List Byte)) (k : Nat) : Nat :=
  let z := collZ ty
  let e := recElems op.record.toNat
  let x (r i : Nat) : Nat := leNat (((data.getD r []).drop (z * i)).take z)
  let all (i : Nat) : List Nat := (List.range op.peers.length).map fun r => x r i
  match fn with
  | 3 => x (k / e) (k % e)
  | 4 => collReduce 0 ty (all (op.rank * (e / op.peers.length) + k))
  | 5 => x op.root k
  | _ => collReduce fn ty (all k)

/-- The contribution of rank r to an operation, if it has come. A context of this module that is terminated has
withdrawn, and so has one that a reset of its VF removed (R270, R314). -/
def State.collOf (s : State) (op : EngOp) (r : Nat) : Option CollIn :=
  let (ctx, node) := op.peers.getD r (0, 0)
  match s.collIn.find? fun x => x.cid = op.cid && x.q = op.seqNo && x.rank = r && x.node = node && x.ctx = ctx with
  | some x => some x
  | none =>
    if node = s.node && (((s.ctx? ctx).map (·.cst)) = some 3 || s.resetCtxs.contains ctx) then
      some { cid := op.cid, q := op.seqNo, rank := r, node, ctx, out := true }
    else none

/-- The other modules that ranks of an operation lie on. -/
def EngOp.others (op : EngOp) (node : Nat) : List Nat := ((op.peers.map (·.2)).filter (· ≠ node)).dedup

/-- This rank's elements are brought to the operation, here and to the other modules, charged to fabric egress in flits
(R65, R312, R315). -/
def State.contribute (s : State) (a : Actor) (op : EngOp) (fn : Nat) (ty : Ty) : State :=
  let e := recElems op.record.toNat
  let data := op.data.getD []
  let mine : CollIn := { cid := op.cid, q := op.seqNo, rank := op.rank, node := s.node, ctx := a.gr.ctx, out := false
                         fn, ty := ty.code, e, data }
  let away := op.others s.node
  let s1 := s.charge a.c.vf 1 (away.length * ((data.length + 127) / 128 * 128))
  away.foldl (fun s n => s.sendTo n
    { node := s.node, id := 0, ctxid := a.gr.ctx, va := 0, kind := .coll op.cid op.seqNo op.rank fn ty.code e (some data), hops := 0 })
    { s1 with collIn := s1.collIn ++ [mine] }

/-- This rank is done with an operation; contributions that every rank of this module is done with are forgotten. -/
def State.collTaken (s : State) (a : Actor) (op : EngOp) : State :=
  let same (x : CollIn) : Bool := x.cid = op.cid && x.q = op.seqNo
  let l := s.collIn.map fun x => if same x && x.rank = op.rank && x.node = s.node && x.ctx = a.gr.ctx then { x with taken := true } else x
  let here := (op.peers.filter fun p => p.2 = s.node).length
  let taken := (l.filter fun x => same x && x.node = s.node && x.taken).length
  { s with collIn := if here ≤ taken then l.filter fun x => !same x else l }

/-- The status word, the operation's last write (R312). -/
def State.collStatus (s : State) (a : Actor) (op : EngOp) (code : Nat) : Got :=
  let va := op.comm.toNat + 24
  (s.devPiece a op.id 0 va 8 op.reps true (some (leBytes 8 (code + op.seqNo % 2 ^ 56 * 256)))).at va

/-! ### Progress -/

/-- An operation of a class changed in place. -/
def Group.modEng (g : Group) (cls id : Nat) (f : EngOp → EngOp) : Group :=
  { g with eng := g.eng.set cls ((g.eng.getD cls []).map fun o => if o.id = id then f o else o) }

/-- An operation is over; reports follow in issue order, and instructions that wait for them go on (R155). -/
def State.engDone (s : State) (gid cls id : Nat) (err : Option (TrapCode × Nat)) : State :=
  (s.modGroup gid fun g =>
    (g.modEng cls id fun o => { o with
      fin := true, parked := none, reps := [], err := err.map fun e => (e.1.num, BitVec.ofNat 64 e.2) }).report cls 256).wakeAll
    fun w => w = .engine || w = .coll

/-- What an attempt does to the operation: `step` for progress, an end for an error. -/
def State.engGot (s : State) (a : Actor) (cls : Nat) (op : EngOp) (got : Got) (k : List Byte → State → State) : State :=
  -- an attempt that did not come to its end is charged when it is made again; one that ends in an error moved no bytes (R315)
  let was (k : Nat) (s1 : State) : State :=
    let v := s1.vf a.c.vf
    s1.setVf a.c.vf { v with left := v.left.set k ((s.vf a.c.vf).left.getD k none) }
  let uncharged (s1 : State) : State := was 0 (was 2 s1)
  match got with
  | .val bs s1 => k bs s1
  | .park w s1 => (uncharged s1).modGroup a.gid fun g => g.modEng cls op.id fun o => { o with parked := some w }
  | .wait s1 => uncharged s1
  | .err c va s1 =>
    let s2 := match op.kind with
      | .coll _ _ => ((was 2 s1).withdraw a.gr.ctx op).collTaken a op
      | _ => was 2 s1
    s2.engDone a.gid cls op.id (some (c, va))

/-- One unit of a collective: elements are read, brought to the others, and the result is written (R312). -/
def State.collStep (s : State) (a : Actor) (op : EngOp) (fn : Nat) (ty : Ty) : State :=
  let z := collZ ty
  let e := recElems op.record.toNat
  let upd (s : State) (f : EngOp → EngOp) : State := s.modGroup a.gid fun g => g.modEng 2 op.id f
  if op.parked.isSome || !s.admits a.c.vf 0 then s
  else if op.done + 1 = e && op.others s.node ≠ [] && !s.admits a.c.vf 1 then s
  else if op.done < e then
    s.engGot a 2 op (s.readElem a op op.done) fun bs s1 =>
      let data := op.data.getD [] ++ bs
      let s2 := upd s1 fun o => { o with data := some data, done := o.done + 1, parked := none, reps := [] }
      if op.done + 1 = e then s2.contribute a { op with data := some data } fn ty else s2
  else
    let got := (List.range op.peers.length).map (s.collOf op)
    let finish (code : Nat) : State := s.engGot a 2 op (s.collStatus a op code) fun _ s1 =>
      (s1.collTaken a op).engDone a.gid 2 op.id none
    if got.any fun x => (x.map (·.out)) = some true then finish 1
    else if got.any (·.isNone) then s
    else
      let ins := got.filterMap id
      if ins.any fun x => x.fn ≠ fn || x.ty ≠ ty.code || x.e ≠ e then finish 2
      else
        let bytes := z * op.collCount fn
        if bytes ≤ op.stage then finish 0
        else
          let va := op.other.toNat + op.stage
          let n := min (bytes - op.stage) (16 - va % 16)
          if 2 ^ 56 < va + n then s.engGot a 2 op (.err .access va s) fun _ s => s
          else if !s.admits a.c.vf 2 then s
          else
            let data := ins.map (·.data)
            -- elements are aligned to their size, so a unit holds whole ones
            let bs := ((List.range (n / z)).map fun i => leBytes z (op.collElem fn ty data (op.stage / z + i))).flatten
            let fresh : Bool := op.stage = 0 || va % 64 = 0
            s.engGot a 2 op (((s.charge a.c.vf 2 n).devPiece a op.id (op.stage + 1) va n op.reps fresh (some bs)).at va) fun _ s1 =>
              upd s1 fun o => { o with stage := o.stage + n, parked := none, reps := [] }

/-- An operation goes on by at most `fuel` units. -/
def State.engRun (s : State) (gid cls id : Nat) : Nat → State
  | 0 => s
  | fuel + 1 =>
    match s.actor gid with
    | none => s
    | some a => match (a.g.eng.getD cls []).find? fun o => o.id = id && !o.fin with
      | none => s
      | some op =>
        let go (got : Unit → Got) (past : EngOp → EngOp) : State :=
          if op.parked.isSome then s
          else if op.total ≤ op.done then s.engDone gid cls id none
          else if !s.admits a.c.vf 2 || (op.kind ≠ .cpyf 1 && !s.admits a.c.vf 0) then s
          else s.engGot a cls op (got ()) fun bs s1 =>
            ((s1.charge a.c.vf 2 bs.length).modGroup gid fun g => g.modEng cls id past).engRun gid cls id fuel
        match op.kind with
        | .cpy _ | .gath _ | .cpyf _ => go (fun _ => s.copyUnit a op) EngOp.pass
        | .scat _ => go (fun _ => s.scatUnit a op) EngOp.scatPass
        | .coll fn ty => s.collStep a op fn ty

/-- An operation goes on, after what the group stored before it. -/
def State.engMove (s : State) (gid cls id fuel : Nat) : State :=
  match s.actor gid with
  | none => s
  | some a => match s.afterEarlier a id with
    | none => s
    | some s1 => s1.engRun gid cls id fuel

/-- ENGINE_COMPLETION: operation `idx` of a class of a group goes on by at most `units` + 1 units (R155, R156). -/
def execEngineCompletion (gid : Nat) (cls : BitVec 2) (idx units : Nat) (s : State) : Host.Outcome State Fault Refusal :=
  .next (match s.group? gid with
    | none => s
    | some g => match (g.eng.getD cls.toNat [])[idx]? with
      | none => s
      | some op => if g.life = .saved then s else s.engMove gid cls.toNat op.id (units + 1))

end Sys2Proof.Machine
end

