-- ==== Sys2Proof/Machine/Begin.lean ====
section
/-! DEFINITION. The state a group starts with, its selection for audit, and its place on a core (R20, R24, R25, R62,
R112, R224, R242). -/

namespace Sys2Proof.Machine

/-- The divergence-stack base of a group (R112). -/
def startDstkb (gr : Grid) (tno gno : Nat) : BitVec 64 :=
  if gr.k.dsb = 0 then 0
  else gr.args + BitVec.ofNat 64 gr.k.dstko + BitVec.ofNat 64 ((tno * gr.k.gpt + gno) * gr.k.dsb)

/-- POPID at the start: this module's node and REQID in a step grid (R224). -/
def startPopid (node : Nat) (gr : Grid) (reqId : BitVec 32) : BitVec 32 :=
  if gr.step.isSome then BitVec.ofNat 32 (node * 65536 + reqId.toNat % 65536) else 0xFFFFFFFF

/-- The registers a group starts with (R20). -/
def startRegs (node : Nat) (gr : Grid) (reqId : BitVec 32) (tno gno : Nat) : Regs :=
  { s := gr.args :: gr.lrec :: List.replicate 59 0
    mdef := gr.k.mdef0, dstkb := startDstkb gr tno gno, popid := startPopid node gr reqId }

/-- The slot a group starts in: all lanes at the entry, the last-result file zero (R20). -/
def startSlot (k : Kernel) : Slot :=
  { live := true, pc := k.hdr + BitVec.ofNat 64 k.entry, mask := -1, l0 := .zero, l1 := .zero }

/-- A group at its start. With P = V it holds its full allotment, its tiles live and zero (R20, R25). -/
def startGroup (gr : Grid) (regs : Regs) (tid gno part cyc : Nat) : Group :=
  { team := tid, no := gno, part, regs, slot0 := startSlot gr.k, full := gr.k.preg = gr.k.freg, bound := gr.k.preg
    since := cyc, issuedAt := cyc }

/-- Whether an eligible group is selected for audit (R242). -/
def auditSelects (c : Ctx) (gr : Grid) (tno gno : Nat) : Bool :=
  let h := crcFeeds (-1) (leBytes 4 gr.id.toNat ++ leBytes 4 tno ++ leBytes 4 gno ++ leBytes 4 c.aseed.toNat)
  gr.k.audit && !gr.k.pair && h.toNat % 256 < c.afrac

/-- A group takes its place and its starting slots on its partition (R24, R62). -/
def State.admitGroup (s : State) (core part gid slots : Nat) : State :=
  s.modPart core part fun p => { p.enter gid with used := p.used + slots }

end Sys2Proof.Machine
end

