-- ==== Sys2Proof/Machine/Deliver.lean ====
section
/-! DEFINITION. What a home's answer does at the sender, and how a home answers (R155, R205, R416). -/

namespace Sys2Proof.Machine

/-- The bytes that a read asks for; 0 for any other operation. -/
def readLength : FabKind → Nat
  | .read n _ => n
  | _ => 0

/-- An answer without the route hint that came with it. -/
def bareRep : FabRep → FabRep
  | .hint _ r => r
  | r => r

/-- An answer for a part of an engine or matrix operation, kept until the operation goes on. -/
def Group.addRep (g : Group) (op part : Nat) (rep : FabRep) : Group :=
  { g with
    eng := g.eng.map fun q => q.map fun o => if o.id = op then { o with reps := o.reps ++ [(part, rep)] } else o
    mat := g.mat.map fun o => if o.id = op then { o with reps := o.reps ++ [(part, rep)] } else o
    tier := match bareRep rep with
      | .quota n => n
      | _ => g.tier }

/-- A slot's waits that end when no fabric operation of it is outstanding. -/
def Wait.fabricEnds : Wait → Bool
  | .fabric | .key => true
  | _ => false

/-- The answer to an access of Crozier or of a launch unit is kept until that unit looks for it (R53, R282). -/
def State.modAnswer (s : State) (r : FabReq) (rep : FabRep) : State :=
  { s with modFab := s.modFab.map fun x =>
      if x.ctx = r.ctxid && x.va = r.va.toNat && x.len = readLength r.kind then { x with rep := some (bareRep rep) } else x }

/-- What an answered write of a group lets go on: the home keeps the group in its detector tables, the host may be told of a
terminated context, and the grid of a halted group may retire (R178, R181, R274). -/
def State.written (s : State) (o : FabOut) (home : Nat) : State :=
  if !o.writes then s
  else
    let s1 := (if o.req.acc.isSome then s.modGroup o.gid fun g => { g with told := if g.told.contains home then g.told else g.told ++ [home] }
      else s).tellEnded
    match s1.group? o.gid with
    | some g => match s1.team? g.team with
      | some t => if g.halts then s1.gridTry t.grid 11 else s1
      | none => s1
    | none => s1

/-- A fabric operation of this module is answered (R205): the answer is kept for the slot or the operation that sent
it, with a route hint where one came; a failed addition to a counter is dropped (R416). -/
def State.deliver (s : State) (id : Nat) (rep : FabRep) : State :=
  match s.fabOut.find? fun o => o.id = id with
  | none => s
  | some o =>
    let s0 := { s with fabOut := s.fabOut.filter fun o => o.id ≠ id }.written o (match rep with
      | .hint node _ => node
      | _ => o.dest)
    if o.idx = modTaker then s0.modAnswer o.req rep
    else if o.signal then
      (if (repTrap rep).isSome then s0.tell (.dropped o.req.ctxid o.req.va o.idx) else s0)
    else
      let core := (((s0.group? o.gid).bind fun g => s0.team? g.team).map (·.core)).getD 0
      let s1 := match rep with
        | .hint node _ => s0.addHint o.req.ctxid core (o.req.va.toNat / 65536) node
        | _ => s0
      match o.eng with
      | some (op, part) => s1.modGroup o.gid fun g => g.addRep op part rep
      | none =>
        let s2 := if o.idx < noTaker then
          s1.modGroup o.gid fun g => g.modSlot o.slot fun x => { x with reps := x.reps ++ [(o.idx, rep)] } else s1
        let more := s2.fabOut.any fun p => p.gid = o.gid && p.slot = o.slot && p.eng.isNone
        let s3 := s2.wake o.gid fun w => w = .stores || w = .fabric
        if more then s3 else s3.wake o.gid Wait.fabricEnds

/-- A home answers a request: to another module by a message, to this one at once. Requests numbered 0 take none. -/
def State.answer (s : State) (r : FabReq) (rep : FabRep) : State :=
  if r.id = 0 then s
  else if r.node = s.node then s.deliver r.id rep
  else s.post r.node (.reply r.node r.id (match rep, decide (0 < r.hops) with
    | .hint n x, _ => .hint n x
    | x, true => .hint s.node x
    | x, false => x))

end Sys2Proof.Machine
end

