-- ==== Sys2Proof/Machine/EvComplete.lean ====
section
/-! DEFINITION. Internal steps that end what instructions began: loads, full/empty waits, grants of registers and
keys, retirement, completion signals, performed stores (R23, R26, R35, R36, R144, R172, R173, R344, R416). -/

namespace Sys2Proof.Machine

/-! ### Loads and full/empty waits -/

/-- A load without the lanes that have arrived. -/
def Load.without (l : Load) (lanes : LaneMask) : Load := { l with lanes := l.lanes &&& ~~~lanes }

/-- LOAD_COMPLETION: lanes of a load arrive, and their destination registers are written (R344). -/
def execLoadCompletion (gid id : Nat) (lanes : LaneMask) (s : State) : Host.Outcome State Fault Refusal :=
  .next (match s.group? gid with
    | none => s
    | some g => match g.loads.find? fun l => l.id = id with
      | none => s
      | some ld =>
        let g1 := { g with
          regs := g.regs.setVecs ld.reg (ld.lanes &&& lanes) ld.vals
          loads := (g.loads.map fun l => if l.id = id then l.without lanes else l).filter fun l => l.lanes ≠ 0 }
        (s.setGroup gid g1).wake gid fun w => w = .loads)

/-- The state an outcome goes on with. -/
def outState (s : State) : Host.Outcome State Fault Refusal → State
  | .next s' => s'
  | _ => s

/-- A scratchpad load or store of the fetched unit is run. -/
def State.runScratch (s : State) : Instr → State
  | .lds x => outState s (execLds x s)
  | .sts x => outState s (execSts x s)
  | _ => s

/-- FULL_EMPTY_WAKE: an instruction that waits for granules goes on where they have reached their states (R144). -/
def execFullEmptyWake (gid : Nat) (slot : Bool) (s : State) : Host.Outcome State Fault Refusal :=
  .next (match s.group? gid with
    | none => s
    | some g =>
      if !g.mayAct slot || (g.slot slot).wait ≠ .granule then s
      else
        let s1 := match s.fetchUnit gid slot with
          | .over s1 => s1
          | .run (.mpx p) s1 =>
            let s2 := outState s1 (execMpx p s1)
            (match s2.cur with
              | some { pfx := some _, next := some i, .. } => s2.runScratch i
              | _ => s2)
          | .run i s1 => s1.runScratch i
        { s1 with cur := none })

/-! ### Grants -/

/-- ACQR_GRANT: the oldest waiting ACQR is granted when the pool holds what it lacks (R26). -/
def execAcqrGrant (core part : Nat) (s : State) : Host.Outcome State Fault Refusal :=
  let p := s.part core part
  .next (match p.acqr with
    | [] => s
    | (gid, _) :: rest =>
      let drop (s : State) (l : List (Nat × Bool)) : State :=
        (s.modPart core part fun p => { p with acqr := l }).wake gid fun w => w = .acqr
      match s.group? gid with
      | none => drop s rest
      | some g => match s.actor gid with
        | none => drop s rest
        | some a =>
          if g.full then drop s rest
          else if a.gr.k.fullSlots - a.gr.k.preg ≤ p.pool then
            drop (s.grantFull gid) (rest.filter fun q => q.1 ≠ gid)
          else s)

/-- The grant of a queued key request (R170 to R172). A binding of this module's takes effect when its instruction
issues again, and holds the key until then; one of another module takes effect now. -/
def State.grantKey (s : State) (cid : Nat) (k : KeyId) (q : KeyReq) : State :=
  match s.ctx? cid with
  | none => s
  | some c =>
    let status := (c.key k).abandoned.toNat
    match q.bind, q.remote with
    | true, some r => match r.kind with
      | .key _ _ base len => match s.rebind cid k base.toNat len.toNat with
        | some s1 => (s1.tellBinds cid k (c.boundTo k)).answer r (.data (s1.keyAnswer cid k 0))
        | none => s.answer r .access
      | _ => s
    | false, some r => (s.modCtx cid fun c => c.modKey k fun x => x.take q.who q.ex).answer r (.data (s.keyAnswer cid k status))
    | _, none =>
      let s1 := s.modCtx cid fun c => c.modKey k fun x =>
        if q.bind then { x with holders := x.holders ++ [(q.who, true)] } else x.take q.who q.ex
      (s1.modGroup q.who fun g => g.modSlot q.slot fun x =>
        { x with granted := some (if q.bind then 0 else BitVec.ofNat 64 status) }).wake q.who fun w => w = .key

/-- KEY_GRANT: the request at the head of a key's queue is granted beside the present holders (R172). -/
def execKeyGrant (cid : Nat) (k : KeyId) (s : State) : Host.Outcome State Fault Refusal :=
  .next (match s.ctx? cid with
    | none => s
    | some c => match (c.key k).queue with
      | [] => s
      | q :: rest =>
        if (c.key k).grantable q.ex then
          (s.modCtx cid fun c => c.modKey k fun x => { x with queue := rest }).grantKey cid k q
        else s)

/-! ### Retirement -/

/-- Whether a group's engine and matrix operations are complete and its stores performed (R35). -/
def State.idle (s : State) (gid : Nat) (g : Group) : Bool :=
  g.eng.all (fun q => q.all (·.fin)) && g.mat = [] && s.settledAt gid .pod && !(s.fabOut.any fun o => o.gid = gid)

/-- The audit of a selected group is queued (R244). -/
def State.queueAudit (s : State) (a : Actor) : State :=
  match a.g.audit with
  | .selected log _ =>
    let (slotId, reqId, _) := s.place a.gr a.t
    let j : AuditJob := {
      gid := a.gid, ctx := a.gr.ctx, vf := a.c.vf, grid := a.gr, team := a.t.no, gno := a.g.no
      regs := startRegs s.node a.gr reqId a.t.no a.g.no, core := a.t.core, sigO := a.g.sig, log
      rid := if a.gr.step.isSome then reqId.toNat else 0xFFFF, stepNo := a.gr.stepNo, slotId }
    { s with audits := s.audits ++ [j] }
  | _ => s

/-- The end of a re-execution: its signature, the third one where there is a second (R244, R247). -/
def State.endReplay (s : State) (gid : Nat) (g : Group) (job : Nat) : State :=
  let grid := (s.team? g.team).map (·.grid)
  let s1 := if g.life = .ended then s else s.vacate gid
  { s1 with
    audits := s1.audits.map fun j => if j.gid = job && j.runner = some gid then
      (match j.sigR with
        | none => { j with sigR := some g.sig, runner := none }
        | some _ => { j with sigT := some g.sig, runner := none }) else j
    groups := Map.del s1.groups gid
    teams := Map.del s1.teams g.team
    grids := s1.grids.filter fun p => some p.1 ≠ grid }

/-- Groups and teams of grids that are gone, forgotten. -/
def State.sweep (s : State) : State :=
  let dead (t : Team) : Bool := (s.grid? t.grid).isNone
  let tids := (s.teams.filter fun p => dead p.2).map (·.1)
  if tids = [] then s
  else { s with
    groups := s.groups.filter fun p => !tids.contains p.2.team
    teams := s.teams.filter fun p => !tids.contains p.1 }

/-- GROUP_RETIRE: a group whose lanes have retired gives back what it holds once its work is complete (R35, R36,
R180, R244). A re-execution ends with its signature. -/
def execGroupRetire (gid : Nat) (s : State) : Host.Outcome State Fault Refusal :=
  .next (match s.actor gid with
    | none => s
    | some a => match a.g.audit with
      | .replay job _ _ =>
        if a.g.life = .retiring || a.g.life = .ended then s.endReplay gid a.g job else s
      | _ =>
        if a.g.life ≠ .retiring || !s.idle gid a.g then s
        else
          let s1 := ((s.queueAudit a).dropKeys a.gr.ctx gid false).vacate gid
          let s2 := (s1.dropDetector a.gr.ctx gid).modGroup gid fun g => { g with life := .retired, audit := .off, loads := [] }
          (s2.teamTry a.g.team).sweep)

/-! ### Signals -/

/-- A pending addition removed. -/
def State.eraseSignal (s : State) (i : Nat) : State := { s with signals := s.signals.eraseIdx i }

/-- The addition sent to the counter's home, charged to fabric egress (R65). -/
def State.sendSignal (s : State) (g : Signal) (vf node : Nat) : State :=
  let req : FabReq := { node := s.node, id := s.nextId, ctxid := g.ctx, va := g.addr, kind := .signal, hops := 0 }
  let o : FabOut := { id := s.nextId, gid := 0, slot := false, signal := true, idx := g.src, dest := node, req }
  { s with nextId := s.nextId + 1, fabOut := s.fabOut ++ [o] }.sendFor vf node req

/-- COMPLETION_SIGNAL: an addition of 1 meets its counter's page (R416), once the HBM budget admits it (R66), and what a lichen half
holds there is released (log 127). -/
def execCompletionSignal (i : Nat) (s : State) : Host.Outcome State Fault Refusal :=
  .next (match s.signals[i]? with
    | none => s
    | some g =>
      let s1 := s.eraseSignal i
      if g.parked.isSome then s
      else if g.addr.toNat % 8 ≠ 0 || 2 ^ 56 ≤ g.addr.toNat then s1.tell (.dropped g.ctx g.addr g.src)
      else match s.ctx? g.ctx with
        | none => s1.tell (.dropped g.ctx g.addr g.src)
        | some c =>
          let (t, s0) := s.translateAt g.ctx c g.addr.toNat 2
          let s1 := s0.eraseSignal i
          match t with
          | .ok pa _ =>
            if !s.admits c.vf 0 || s.pinnedBy 0 none pa 8 then s
            else ((s1.charge c.vf 0 (unitBytes pa 8)).addCounter 0 0 0 pa 1).2
          | .remote node => s1.sendSignal g c.vf node
          | .park w host mal => { s0.fault w host mal with signals := s0.signals.set i { g with parked := some w } }
          | .deferred => s
          | .access => s1.tell (.dropped g.ctx g.addr g.src))

/-! ### Stores -/

/-- STORE_PERFORMED: a store is performed at a scope, and what waits for it goes on (R166, R173). -/
def execStorePerformed (id : Nat) (scope : Scope) (s : State) : Host.Outcome State Fault Refusal :=
  .next (match s.pend.find? fun p => p.id = id with
    | none => s
    | some p =>
      let s1 := (s.performAt scope fun q => q.id = id).wake p.gid fun w => w = .stores
      match p.sp with
      | none => s1
      | some t => match s1.team? t with
        | none => s1
        | some x => x.groups.foldl (fun s g => s.wake g fun w => w = .granule) s1)

end Sys2Proof.Machine
end

