-- ==== Sys2Proof/Machine/EvFabric.lean ====
section
/-! DEFINITION. Fabric operations at their home, and the answers that come back (R169 to R173, R205, R206, R226, R312,
R314, R416). -/

namespace Sys2Proof

/-- The access kind of R202 that a fabric operation makes. -/
def FabKind.kind : FabKind → Nat
  | .write _ | .typedWrite _ _ => 1
  | .atomic _ _ _ _ | .signal => 2
  | .engRead _ _ _ => 4
  | .engWrite _ _ _ | .unit _ => 5
  | .probe kind _ => kind
  | _ => 0

/-- Elements of the typed access that an operation makes, or tests: 0 where it is raw. -/
def FabKind.elems : FabKind → Nat
  | .typedRead n _ | .engRead _ n _ | .engWrite _ n _ => n
  | .typedWrite vals _ => vals.length
  | .probe _ n => n
  | _ => 0

/-- Bytes that an operation reads or writes at a page of a format. -/
def FabKind.span (f : Machine.Format) : FabKind → Nat
  | .read n _ => n
  | .write bs => bs.length
  | .atomic _ ty _ _ => if ty = .b64 then 8 else 4
  | .signal => 8
  | .engRead _ _ _ => max 1 (f.nibbles / 2)
  | .engWrite _ _ xs => (xs.length * f.nibbles + 1) / 2
  | .unit _ => 16
  | k => (k.elems * f.nibbles + 1) / 2

end Sys2Proof

namespace Sys2Proof.Machine

/-! ### At the home -/

/-- What a home does with an operation now. -/
inductive Ingress
  | answer (rep : FabRep) (s : State)
  | hold (s : State)
  | forward (node : Nat) (s : State)
  | notHome (s : State)
  | silent (s : State)

/-- The answer of a typed access that fails its checks (R150). -/
def TypedCheck.rep : TypedCheck → FabRep
  | .misalign => .misalign
  | _ => .element

/-- An atomic of another module performed: its old value's bytes, and whether it wrote (R295). -/
def State.fabAtomic (s : State) (pa : Nat) (op : BitVec 3) (ty : Ty) (x e : BitVec 64) : List Byte × Option (List Byte) × State :=
  let n := if ty = .b64 then 8 else 4
  let s1 := s.settleBytes none pa n .pod
  let old := s1.num .pod none pa n
  (leBytes n old, (atomicNew op.toNat (ty = .i32) (8 * n) old x.toNat e.toNat).map (leBytes n), s1)

/-- Whether an operation writes at an address now: a compare and swap that fails does not. -/
def State.fabWrote (s : State) (pa : Nat) : Sys2Proof.FabKind → Bool
  | .atomic op ty x e => (s.fabAtomic pa op ty x e).2.1.isSome
  | _ => true

/-- A byte of a page as the sender of a read sees it: the last one that its lichen half holds there, else what is stored (R250). -/
def withOwn (own : List (Nat × Byte)) (place : Nat) (b : Byte) : Byte := own.foldl (fun b p => if p.1 = place then p.2 else b) b

/-- Bytes from a physical address as the sender of a read sees them. -/
def State.ownedBytes (s : State) (own : List (Nat × Byte)) (pa n : Nat) : List Byte :=
  (s.bytes .pod none pa n).zipIdx.map fun p => withOwn own ((pa + p.2) % 65536) p.1

/-- An access performed at a physical address of this module, with its answer (R149, R150, R295). That of a typed access also
tells the page's FMT, a load's after its elements. -/
def State.fabAccess (s : State) (pa : Nat) (leaf : BitVec 64) : Sys2Proof.FabKind → FabRep × State
  | .read n own => (.data (s.ownedBytes own pa n), s)
  | .write bs => (.data [], s.modWrite pa bs)
  | .atomic op ty x e =>
    let (old, new, s1) := s.fabAtomic pa op ty x e
    (.data old, match new with
      | some bs => s1.modWrite pa bs
      | none => s1)
  | .signal => (.data [], (s.addCounter 0 0 0 pa 1).2)
  | .typedRead n own =>
    let page := pa / 65536 * 65536
    (.data (((List.range n).map fun i =>
      leBytes 4 ((formatOf leaf).load (fun u k => leNat (s.ownedBytes own (page + u) k)) (pa % 65536) i)).flatten
      ++ [BitVec.ofNat 8 (leafFmt leaf)]), s)
  | .typedWrite vals rm =>
    (.data [BitVec.ofNat 8 (leafFmt leaf)], s.modWrite pa (vals.map fun v => (formatOf leaf).store rm v.toNat).flatten)
  | .engRead i _ own =>
    let page := pa / 65536 * 65536
    (.data (leBytes 4 ((formatOf leaf).deliver (fun u k => leNat (s.ownedBytes own (page + u) k)) (pa % 65536) i)), s)
  | .engWrite i _ xs =>
    let f := formatOf leaf
    (.data [], s.modWrite (pa + i * f.nibbles / 2) (xs.map fun x => f.encode x.toNat).flatten)
  | .unit ps => (.data [], ps.foldl (fun s p => s.modWrite (pa + p.1) p.2) s)
  | _ => (.data [], s)

/-- An access at a page of this module: a typed run's checks, the race detector's, the budget of HBM, and the access itself
(R65, R66, R150, R181, R182); none where it waits for the budget, or an atomic for what a lichen half holds there (log 127). -/
def State.fabPerform (s : State) (c : Ctx) (r : FabReq) (pa : Nat) (leaf : BitVec 64) : Option (FabRep × State) :=
  let n := r.kind.elems
  let check := if n = 0 then TypedCheck.ok else typedCheck (formatOf leaf) (kindWrites r.kind.kind) (pa % 65536) n
  let span := r.kind.span (formatOf leaf)
  let write := kindWrites r.kind.kind
  let racer := r.acc.map fun a => FabReq.racer r c a
  let s0 := match racer with
    | some x => s.heard r.ctxid x false
    | none => s
  if check ≠ .ok then some (if r.kind.kind < 4 then check.rep else .access, s0)
  else if c.racet && leafWatch leaf && (racer.bind fun x => s0.raceOf x write r.va.toNat pa span).isSome then some (.race, s0)
  else match r.kind with
    | .probe _ _ => some (.data [BitVec.ofNat 8 (leafFmt leaf)], s0)
    | k =>
      if !s0.admits c.vf 0 || (r.kind.kind = 2 && s0.pinnedBy 0 none pa span) then none
      else
        let s1 := match racer with
          | some x => s0.watch x write (s0.fabWrote pa k) span r.va.toNat pa leaf
          | none => s0
        some ((s1.charge c.vf 0 (unitBytes pa span)).fabAccess pa leaf k)

/-- A key operation of another module at the key's home (R169 to R173, R180). A grant tells the sectors bound to the key (log 125). -/
def State.fabKey (s : State) (cid : Nat) (c : Ctx) (r : FabReq) (req : BitVec 2) (who : Nat) (base len : BitVec 64) : Ingress :=
  let k : KeyId := { space := 2, team := 0, addr := r.va }
  let x := c.key k
  let me := farPlace r.node who
  let queue (ex bind : Bool) : Ingress := .silent (s.modCtx cid fun c => c.modKey k fun x =>
    { x with queue := x.queue ++ [{ who := me, slot := false, ex, bind, remote := some r }] })
  match req.toNat with
  | 3 => .answer (.data []) (s.modCtx cid fun c => c.modKey k fun x =>
    { x.drop me (len ≠ 0) with queue := x.queue.filter fun q => q.who ≠ me })
  | 2 => match s.rebind cid k base.toNat len.toNat with
    | none => .answer .access s
    | some s1 =>
      if x.holders.contains (me, false) then .answer .access s
      else if x.holders.contains (me, true) || (x.queue = [] && x.grantable true) then
        .answer (.data (s1.keyAnswer cid k 0)) (s1.tellBinds cid k (c.boundTo k))
      else queue true true
  | n =>
    let ex : Bool := n = 1
    if !c.binds.any fun b => b.1 = k then .answer .access s
    else if x.queue = [] && x.grantable ex then
      .answer (.data (s.keyAnswer cid k x.abandoned.toNat)) (s.modCtx cid fun c => c.modKey k fun x => x.take me ex)
    else queue ex false

/-- A population operation at its home (R226 to R228, R235, R237), once the budgets admit its block (R66). -/
def State.fabPopulation (s : State) (cid rid : Nat) (k : Sys2Proof.FabKind) : Ingress :=
  if !s.popOk cid rid || s.popSize rid ≤ popParticle k then .answer .access s
  else if k = .popRecord then .answer (.data []) s
  else if !s.blockReady (s.req rid).vf then .hold s
  else match s.popDo rid k with
    | (.done v, s1) => .answer (.data (leBytes 32 v)) s1
    | (.wait, _) => .hold s
    | (.access, s1) => .answer .access s1

/-- An operation at this module, which translates it in its own table (R205). -/
def State.ingress (s : State) (r : FabReq) : Ingress :=
  match s.ctx? r.ctxid with
  | none => .notHome s
  | some c =>
    if c.cst ≠ 1 && c.cst ≠ 2 then .notHome s
    else match r.kind with
      | .coll cid q rank fn ty e data =>
        let x : CollIn := { cid, q, rank, node := r.node, ctx := r.ctxid, out := data.isNone, fn, ty, e, data := data.getD [] }
        .silent { s with collIn := (s.collIn.filter fun y =>
          !(y.cid = cid && y.q = q && y.rank = rank && y.node = r.node && y.ctx = r.ctxid)) ++ [x] }
      | .plwadd _ _ | .plwrd _ | .rsmp _ _ | .pmap _ | .popProbe _ | .popEntry _ | .popRecord =>
        s.fabPopulation r.ctxid r.va.toNat r.kind
      | .racer retired => .silent (match r.acc with
        | some a => s.heard r.ctxid (FabReq.racer r c a) retired
        | none => s)
      | .keyBinds l => .silent (s.knowBinds r.ctxid { space := 2, team := 0, addr := r.va } l)
      | kind =>
        match (s.walk c r.va.toNat).1, s.translateAt r.ctxid c r.va.toNat kind.kind with
        | _, (.deferred, _) => .hold s
        | .moved node, (_, s1) => .forward node s1
        | w, (t, s1) =>
          match kind with
          | .key req who base len => s1.fabKey r.ctxid c r req who base len
          | _ =>
            if w = .absent && s.route c r.va.toNat ≠ some s.node then .notHome s1
            else match t with
              | .ok pa leaf => match s1.fabPerform c r pa leaf with
                | some (rep, s2) => .answer rep s2
                | none => .hold s1
              | .park w host mal => .hold (s1.fault w host mal)
              | .remote node => .forward node s1
              | _ => .answer .access s1

/-- An operation taken in: performed and answered, held, forwarded, or answered "not home"; the walk that it took stays charged
(R198). The fourth forward fails instead, with a host event (R205). -/
def State.takeIn (s : State) (r : FabReq) : State :=
  match s.ingress r with
  | .answer rep s1 => s1.answer r rep
  | .hold s1 => { s1 with fabHeld := s1.fabHeld ++ [r] }
  | .silent s1 => s1
  | .forward node s1 =>
    if 3 ≤ r.hops then (s1.tell (.forwardLimit r.ctxid r.va)).answer r .xlfail
    else s1.sendFor (((s1.ctx? r.ctxid).map (·.vf)).getD 0) node { r with hops := r.hops + 1 }
  | .notHome s1 => if r.id = 0 then s1 else if r.node = s1.node then s1.answer r .xlfail else s1.post r.node (.notHome r.node r.id)

/-- Operations that wait at this home are tried again, in arrival order. -/
def State.retryHeld (s : State) : State :=
  s.fabHeld.foldl (fun s r => s.takeIn r) { s with fabHeld := [] }

/-- Whether a fabric operation names a population, whose home no route names. -/
def FabKind.population : Sys2Proof.FabKind → Bool
  | .plwadd _ _ | .plwrd _ | .rsmp _ _ | .pmap _ | .popProbe _ | .popEntry _ | .popRecord => true
  | _ => false

/-- "Not home" for an operation: the hint is dropped and the operation sent by the route table; the second reply in a row fails it
(R205). A route to this module sends it through this module's own table. -/
def State.notHome (s : State) (id : Nat) : State :=
  match s.fabOut.find? fun o => o.id = id with
  | none => s
  | some o =>
    let s0 := s.dropHint o.req.ctxid (o.req.va.toNat / 65536)
    if 1 ≤ o.misses then s0.deliver id .xlfail
    else
      let dest : Option Nat :=
        if FabKind.population o.req.kind then some o.dest else (s0.ctx? o.req.ctxid).bind fun c => s0.route c o.req.va.toNat
      match dest with
      | none => s0.deliver id .access
      | some n =>
        let s1 := { s0 with fabOut := s0.fabOut.map fun (p : FabOut) => if p.id = id then { p with dest := n, misses := p.misses + 1 } else p }
        if n = s.node then s1.takeIn o.req else s1.sendFor (((s1.ctx? o.req.ctxid).map (·.vf)).getD 0) n o.req

/-! ### Arrivals (R205, R279) -/

/-- The module that an arrival comes from. -/
def State.source (s : State) : Arrival → Nat
  | .request r => r.node
  | .reply id _ | .notHome id => ((s.fabOut.find? fun o => o.id = id).map (·.dest)).getD s.node

/-- Whether an operation has not left this module: its port or its budget keeps it. -/
def State.unsent (s : State) (id : Nat) : Bool :=
  (s.portWait.any fun p => match p.2 with
    | .sent _ r => r.node = s.node && r.id = id
    | _ => false) || s.egress.any fun x => x.2.2.node = s.node && x.2.2.id = id

/-- What an arrival does: an operation is taken in, and an answer given; to an operation that has not left there is none. -/
def State.arrived (s : State) : Arrival → State
  | .request r => s.takeIn r
  | .reply id rep => if s.unsent id then s else s.deliver id rep
  | .notHome id => if s.unsent id then s else s.notHome id

/-- Traffic that comes by a port which is not up waits until it is, in its order (R279; logs 99, 107). -/
def State.comes (s : State) (x : Arrival) : State :=
  let p := Config.portOf (s.source x)
  if s.source x ≠ s.node && ((s.dev.ports.getD p {}).link ≠ 2 || s.portIn.any (·.1 = p)) then { s with portIn := s.portIn ++ [(p, x)] }
  else s.arrived x

/-- FABRIC_INGRESS: an operation arrives, or one that waits is tried again (R205). -/
def execFabricIngress (r : FabReq) (s : State) : Host.Outcome State Fault Refusal :=
  let mine (x : FabReq) : Bool := x.node = r.node && x.id = r.id && r.id ≠ 0
  .next (if s.fabHeld.any mine then { s with fabHeld := s.fabHeld.filter fun x => !mine x }.takeIn r else s.comes (.request r))

/-- FABRIC_REPLY: the home's answer (R205). -/
def execFabricReply (id : Nat) (rep : FabRep) (s : State) : Host.Outcome State Fault Refusal := .next (s.comes (.reply id rep))

/-- NOT_HOME: the other answer of a home (R205). -/
def execNotHome (id : Nat) (s : State) : Host.Outcome State Fault Refusal := .next (s.comes (.notHome id))

end Sys2Proof.Machine
end

