-- ==== Sys2Proof/Machine/EvLaunch.lean ====
section
/-! DEFINITION. Frames that a VF owns, memory as Crozier and the launch units read it, and host launches (R53, R282,
R417). -/

namespace Sys2Proof.Machine

/-! ### Reads of a context's memory by the module -/

/-- What an access of a unit of the module's own to a moved page comes to: it is carried to the new home (R205). -/
inductive ModAway
  | answer (bytes : List Byte)
  | wait (s : State)
  | failed

/-- The access at a moved page of a context: sent once the budget of fabric egress admits it, awaited, or answered (R65, R66). `len`
is 0 for a write. -/
def State.modAway (s : State) (cid node va len : Nat) (kind : FabKind) : ModAway :=
  match ((s.modFab.find? fun x => x.ctx = cid && x.va = va && x.len = len).map ModFab.rep : Option (Option FabRep)) with
  | some (some (.data bs)) => .answer bs
  | some (some _) => .failed
  | some none => .wait s
  | none =>
    let vf := ((s.ctx? cid).map (·.vf)).getD 0
    if !s.admits vf 1 then .wait s
    else
    let s := s.charge vf 1 128
    let req : FabReq := { node := s.node, id := s.nextId, ctxid := cid, va := BitVec.ofNat 64 va, kind, hops := 0 }
    let o : FabOut := { id := s.nextId, gid := 0, slot := false, idx := modTaker, dest := node, req }
    .wait ({ s with modFab := s.modFab ++ [({ ctx := cid, va, len } : ModFab)] }.sendOut o)

/-- Answers that a unit needs no more: those of a context at the given addresses. -/
def State.modForget (s : State) (cid : Nat) (vas : List Nat) : State :=
  { s with modFab := s.modFab.filter fun x => !(x.ctx = cid && x.rep.isSome && vas.contains x.va) }

/-- What a read comes to: a number, the page it waits for, a wait for the budget of walks or for another module, or a page that
a load of the context could not read. -/
inductive ModRead
  | num (x : Nat)
  | park (w : PageWant)
  | wait
  | unreadable
  deriving DecidableEq, Repr

/-- n aligned bytes of a context's device memory, n a multiple of 64, read as a load of the context, by an access that the budgets
admitted (R65, R198, R205). -/
def State.modRead (s : State) (cid : Nat) (c : Ctx) (va n : Nat) : ModRead × State :=
  if 2 ^ 56 ≤ va then (.unreadable, s)
  else match s.walkAt cid c va 0 with
    | (.ok pa _, s1) => (.num (s1.num .module none pa n), s1.charge c.vf 0 n)
    | (.park w host mal, s1) => (.park w, s1.fault w host mal)
    | (.deferred, s1) => (.wait, s1)
    | (.access, s1) => (.unreadable, s1)
    | (.remote node, s1) => match s1.modAway cid node va n (.read n) with
      | .answer bs => (.num (leNat bs), s1)
      | .wait s2 => (.wait, s2)
      | .failed => (.unreadable, s1)

/-- What the reading of a launch record and its header comes to: both, a status that the record alone gives, a wait, or a page
that cannot be read. -/
inductive LaunchRead
  | both (r h : Nat)
  | badRecord
  | park (w : PageWant)
  | wait
  | unreadable
  deriving DecidableEq, Repr

/-- The record at an address and its header, read as one transfer, once the budgets of walks and of HBM admit it (R66; log 53). -/
def State.readLaunch (s : State) (cid : Nat) (c : Ctx) (lrec : Nat) : LaunchRead × State :=
  if !s.blockReady c.vf then (.wait, s)
  else match s.modRead cid c lrec 128 with
  | (.park w, s1) => (.park w, s1)
  | (.wait, s1) => (.wait, s1)
  | (.unreadable, s1) => (.unreadable, s1.modForget cid [lrec])
  | (.num r, s1) =>
    if !lrOk r then (.badRecord, s1.modForget cid [lrec])
    else match s1.modRead cid c (lrKhdr r) 64 with
      | (.park w, s2) => (.park w, s2)
      | (.wait, s2) => (.wait, s2)
      | (.unreadable, s2) => (.unreadable, s2.modForget cid [lrec, lrKhdr r])
      | (.num h, s2) => (.both r h, s2.modForget cid [lrec, lrKhdr r])

/-! ### HLAUNCH (R282) -/

def hlStat (cmd : BitVec 256) : BitVec 64 := BitVec.ofNat 64 (bits cmd.toNat 255 192)
def hlRec (cmd : BitVec 256) : BitVec 64 := BitVec.ofNat 64 (bits cmd.toNat 191 128)
def hlCtx (cmd : BitVec 256) : Nat := bits cmd.toNat 127 96

/-- The context that a command may launch into: a running one of the VF, by a well-formed command. -/
def State.hlContext (s : State) (vf : Nat) (cmd : BitVec 256) : Option Ctx :=
  if bits cmd.toNat 95 0 ≠ 0 || (hlRec cmd).toNat % 128 ≠ 0 || 2 ^ 56 ≤ (hlRec cmd).toNat then none
  else (s.ctx? (hlCtx cmd)).filter fun c => c.vf = vf && c.cst = 1

/-- A host launch's status written. -/
def State.hlStatus (s : State) (cmd : BitVec 256) (status : Nat) : State :=
  s.modWriteNum (hlStat cmd).toNat 8 (2 ^ 63 + status)

/-- The oldest waiting host launch of a VF tried: the state and whether it is over. -/
def State.tryLaunch (s : State) (vf : Nat) (x : HostLaunch) : Bool × State :=
  match s.hlContext vf x.cmd with
  | none => (true, s.hlStatus x.cmd 5)
  | some c =>
    if x.failed then (true, s.hlStatus x.cmd 6)
    else if x.parked.isSome then (false, s)
    else
      let cid := hlCtx x.cmd
      match s.readLaunch cid c (hlRec x.cmd).toNat with
      | (.badRecord, s1) => (true, s1.hlStatus x.cmd 1)
      | (.unreadable, s1) => (true, s1.hlStatus x.cmd 6)
      | (.wait, s1) => (false, s1)
      | (.park w, s1) =>
        let v := s1.vf vf
        (false, s1.setVf vf { v with launches := { x with parked := some w } :: v.launches.drop 1 })
      | (.both r h, s1) =>
        let f : LaunchFrom := { ctx := cid, lrec := hlRec x.cmd, depth := 1, nest := none, parent := none, stat := some (hlStat x.cmd) }
        let (status, _, s2) := s1.launch c f r h
        (true, if status = 0 then s2 else s2.hlStatus x.cmd status)

/-- Waiting host launches of a VF, in the order they were written. -/
def State.hostLaunches (s : State) (vf : Nat) : Nat → State
  | 0 => s
  | fuel + 1 =>
    match (s.vf vf).launches with
    | [] => s
    | x :: _ =>
      match s.tryLaunch vf x with
      | (false, s1) => s1
      | (true, s1) =>
        let v := s1.vf vf
        (s1.setVf vf { v with launches := v.launches.drop 1 }).hostLaunches vf fuel

/-- Host launches that wait for nothing more are tried again, of every VF. -/
def State.retryLaunches (s : State) : State :=
  s.vfs.foldl (fun s p => if p.2.launches = [] then s else s.hostLaunches p.1 p.2.launches.length) s

/-- HLAUNCH (R282). -/
def execHlaunch (vf : Nat) (cmd : BitVec 256) (s : State) : Host.Outcome State Fault Refusal :=
  .next (if !s.dev.ready then s
    else if !s.wordOk vf (hlStat cmd) then s.discard vf
    else
      let v := s.vf vf
      let x : HostLaunch := { cmd }
      let l := v.launches ++ [x]
      (s.setVf vf { v with launches := l }).hostLaunches vf l.length)

end Sys2Proof.Machine
end

