-- ==== Sys2Proof/Machine/EvPages.lean ====
section
/-! DEFINITION. How faults end: growth, copies of shared pages, and the host's replies (R199 to R204, R208, R212). -/

namespace Sys2Proof.Machine

/-! ### What waits for a page -/

/-- Whether a want is for a page of a context's address space. -/
def PageWant.hits (w : PageWant) (cid page : Nat) : Bool := asidOf w.ctx = asidOf cid && w.page = page

/-- The pages a slot waits for. -/
def Slot.wants (x : Slot) : List PageWant :=
  match x.wait with
  | .page ws => ws
  | _ => []

/-- Everything that waits for a page: slots, units, additions to counters, Crozier, host launches, and operations of
other modules. -/
def State.wants (s : State) : List PageWant :=
  (s.groups.map fun p => p.2.slot0.wants ++ p.2.slot1.wants ++ (p.2.eng.map fun q => q.filterMap (·.parked)).flatten
      ++ p.2.mat.filterMap (·.parked)).flatten
    ++ s.signals.filterMap (·.parked)
    ++ (s.vfs.map fun p => p.2.streams.filterMap (·.parked) ++ p.2.launches.filterMap (·.parked)).flatten
    ++ s.fabHeld.map fun r => { ctx := r.ctxid, page := r.va.toNat / 65536, va := r.va.toNat, kind := FabKind.kind r.kind }

/-- A page want that has ended. -/
def endWant (cid page : Nat) (w : Option PageWant) : Option PageWant := w.filter fun w => !w.hits cid page

/-- Whether a slot's wait ends with a page. -/
def Wait.onPage (cid page : Nat) : Wait → Bool
  | .page ws => ws.any (·.hits cid page)
  | _ => false

/-- The units of a group wait for a page no more. -/
def Group.endWants (g : Group) (cid page : Nat) : Group :=
  { g with
    eng := g.eng.map fun q => q.map fun (o : EngOp) => { o with parked := endWant cid page o.parked }
    mat := g.mat.map fun (o : MatOp) => { o with parked := endWant cid page o.parked } }

/-- Crozier and the host launches of a VF wait for a page no more; `failed` says that its fault failed. -/
def Vf.endWants (v : Vf) (cid page : Nat) (failed : Bool) : Vf :=
  let hit (w : Option PageWant) : Bool := (w.filter (·.hits cid page)).isSome
  { v with
    streams := v.streams.map fun (x : Stream) =>
      if hit x.parked then { x with parked := none, unreadable := x.unreadable || failed } else x
    launches := v.launches.map fun (x : HostLaunch) =>
      if hit x.parked then { x with parked := none, failed := x.failed || failed } else x }

/-- Every access that waits for a page walks again (R200, R203). -/
def State.resolve (s : State) (cid page : Nat) : State :=
  let s1 := s.wakeAll (Wait.onPage cid page)
  let s2 := { s1 with
    groups := s1.groups.map fun (p : Nat × Group) => (p.1, p.2.endWants cid page)
    signals := s1.signals.map fun (g : Signal) => { g with parked := endWant cid page g.parked }
    vfs := s1.vfs.map fun (p : Nat × Vf) => (p.1, p.2.endWants cid page false) }
  let s3 := s2.retryHeld
  match s3.ctx? cid with
  | none => s3
  | some c => s3.hostLaunches c.vf (s3.vf c.vf).launches.length

/-- The trap of a slot that waited for a page (R203, R208): at the parked instruction, INFO the first lane's address. -/
def State.failSlot (s : State) (gid : Nat) (slot : Bool) (cid page : Nat) (code : TrapCode) (tier : Nat) : State :=
  match s.group? gid with
  | none => s
  | some g => match (g.slot slot).wants.find? (·.hits cid page) with
    | none => s
    | some w => match s.envOf { gid, slot, pc := (g.slot slot).pc, len := 4 } with
      | none => s
      | some e =>
        (s.modGroup gid fun g => { g with tier }).takeTrap { e with len := s.unitLen e } code (BitVec.ofNat 64 w.va)
          (if w.lanes = 0 then e.lanes else w.lanes)

/-- A group's engine and matrix operations that waited for a page end with an error (R156, R352). -/
def State.failUnits (s : State) (gid cid page : Nat) (code : TrapCode) (tier : Nat) : State :=
  match s.actor gid with
  | none => s
  | some a =>
    let hit (w : Option PageWant) : Option PageWant := w.filter (·.hits cid page)
    let s := if (a.g.eng.any fun q => q.any fun o => (hit o.parked).isSome) || a.g.mat.any fun o => (hit o.parked).isSome then
      s.modGroup gid fun g => { g with tier } else s
    let s1 := (List.range 4).foldl (fun s cls => (a.g.eng.getD cls []).foldl (fun s op => match hit op.parked with
      | some w => s.engGot a cls op (.err code w.va s) fun _ s => s
      | none => s) s) s
    a.g.mat.foldl (fun s op => match hit op.parked with
      | some w => s.matDone gid op (some (code, w.va))
      | none => s) s1

/-- Everything that waits for a page fails with a code: QUOTA under the trap setting, or a failure reply, which also
ends what the module's own units and other modules wait for; `tier` is that of QUOTA (R45, R203, R208, R282, R53, R416). -/
def State.failPage (s : State) (cid page : Nat) (code : TrapCode) (tier : Nat) : State :=
  let s1 := s.groups.foldl (fun s p => ((s.failUnits p.1 cid page code tier).failSlot p.1 false cid page code tier).failSlot p.1
    true cid page code tier) s
  let mine (r : FabReq) : Bool := asidOf r.ctxid = asidOf cid && r.va.toNat / 65536 = page
  if code ≠ .xlfail then
    let out := s1.fabHeld.filter fun r => mine r && r.kind ≠ .signal
    out.foldl (fun s r => s.answer r (.quota tier)) { s1 with fabHeld := s1.fabHeld.filter fun r => !out.contains r }
  else
    let out := s1.fabHeld.filter mine
    let s2 := out.foldl (fun s r => s.answer r .xlfail) { s1 with fabHeld := s1.fabHeld.filter fun r => !mine r }
    let hit (w : Option PageWant) : Bool := (w.filter (·.hits cid page)).isSome
    let gone := s2.signals.filter fun g => hit g.parked
    let s3 : State := gone.foldl (fun s g => s.tell (.dropped g.ctx g.addr g.src))
      { s2 with
        signals := s2.signals.filter fun g => !hit g.parked
        vfs := s2.vfs.map fun (p : Nat × Vf) => (p.1, p.2.endWants cid page true) }
    match s3.ctx? cid with
    | none => s3
    | some c => s3.hostLaunches c.vf (s3.vf c.vf).launches.length

/-! ### Allocation -/

/-- An allocation that did not give a frame: QUOTA under the trap setting, a page request, or the wait goes on (R208). -/
def State.notAllocated (s : State) (c : Ctx) (w : PageWant) : Alloc → State
  | .quota => if (s.vf c.vf).qtrap then s.failPage w.ctx w.page .quota 0 else s
  | .host => s.fault w true false
  | _ => s

/-- Whether a walk no longer ends at a fault for a want, and no request for the page is outstanding whose reply it would
await: the entry changed while the want waited for a frame (R200, R203). -/
def State.unasked (s : State) (c : Ctx) (w : PageWant) (x : Walk) : Bool :=
  !(s.pageReqs.any fun r => r.want.page = w.page && asidOf r.want.ctx = asidOf w.ctx && r.cgen = c.cgen) && (match x with
    | .leaf e l => match useLeaf c.privc w.ctx w.va w.kind e l with
      | .park _ _ _ => false
      | _ => true
    | .moved _ => true
    | _ => false)

/-- GROW_ALLOCATE: a fault on a grow placeholder takes a zeroed frame (R200, R208, R212). -/
def execGrowAllocate (cid page : Nat) (s : State) : Host.Outcome State Fault Refusal :=
  .next (match s.ctx? cid, s.wants.find? (·.hits cid page) with
    | some c, some w => match s.walk c (page * 65536) with
      | (.grow e, pa) => match s.allocate c.vf with
        | (.got f, s1) =>
          let s2 := s1.modWriteNum pa 8 (setBits (setBits (setBits (setBits e.toNat 0 1 1) 13 1 0) 16 32 f) 52 12 0)
          let s3 := match s2.kvOwner cid (page * 65536) with
            | some rid => s2.kvCount rid 1
            | none => s2
          s3.resolve cid page
        | (r, s1) => s1.notAllocated c w r
      | (x, _) => if s.unasked c w x then s.resolve cid page else s
    | _, _ => s)

/-- COW_COPY: a write to a copy-on-write 64 KiB page takes its frame over when it is the only reference, else a copy
(R201). -/
def execCowCopy (cid page : Nat) (s : State) : Host.Outcome State Fault Refusal :=
  .next (match s.ctx? cid, s.wants.find? fun w => w.hits cid page && kindWrites w.kind with
    | some c, some w => match s.walk c (page * 65536) with
      | (.leaf e 4, pa) =>
        if !leafCow e then (if s.unasked c w (.leaf e 4) then s.resolve cid page else s)
        else
          let own := setBits (setBits e.toNat 2 1 1) 14 1 0
          let finish (s : State) (entry : Nat) : State :=
            ((s.modWriteNum pa 8 entry).tlbDrop (asidOf cid) page (page + 1)).resolve cid page
          if s.countOf e = 1 then finish s own
          else if !s.admits c.vf 2 then s
          else match s.allocate c.vf with
            | (.got f, s1) =>
              let s2 := (s1.copyFrame (leafFrame e) f).charge c.vf 2 65536
              finish (s2.releaseEntry c.vf e) (setBits (setBits own 16 32 f) 52 12 0)
            | (r, s1) => s1.notAllocated c w r
      | _ => s
    | _, _ => s)

/-! ### Page replies (R203) -/

/-- A frame that a mapping by the host took for a request whose reply is stale goes back to the VF's list, and leaves USED,
where it is still mapped and the VF's. -/
def State.frameBack (s : State) (r : PageReq) : State :=
  let s1 := match r.frame with
    | some f => if (s.frame f).count ≠ 0 && (s.frame f).owner = some r.vf then s.freeFrame r.vf f else s
    | none => s
  match r.pool with
  | some f => s1.freePool r.vf f
  | none => s1

/-! ### Mappings by the host (R203, R208; log 106) -/

/-- The entry that a mapping writes: the bits it gives, valid, with a frame. -/
def mappedEntry (value : BitVec 64) (f : Nat) : Nat :=
  setBits (setBits (setBits (setBits (setBits value.toNat 0 2 3) 13 1 0) 48 1 0) 16 32 f) 52 12 0

/-- A mapping that got no frame: whether it waits for one, and what follows. It waits for a page that is freed, for USED to
fall, and for the fill of HBM, which never refuses it (R208, R275). -/
def State.notMapped (s : State) (c : Ctx) (m : HostMapping) : Alloc → Bool × State
  | .quota =>
    if (s.vf c.vf).qtrap then (false, s.failPage m.cid m.page .quota m.pool.toNat) else (true, s)
  | .host =>
    if !m.pool && !s.dev.fillDone then (true, s)
    else (false, match s.wants.find? (·.hits m.cid m.page) with
      | some w => s.fault w true false
      | none => s)
  | .reclaim => (true, s)
  | .got _ => (false, s)

/-- A VF's driver maps a 64 KiB page of a context that is not mapped, in HBM or in the pool tier, where the tables reach its
entry: the frame is allocated, and noted with the page's request where one is outstanding. Whether it waits, and what follows. -/
def State.hostMap (s : State) (m : HostMapping) : Bool × State :=
  let page := m.page
  match s.ctx? m.cid with
  | none => (false, s)
  | some c =>
    let (w, pa) := s.walk c (page * 65536)
    let mapped : Bool := match w with
      | .leaf _ _ | .moved _ => true
      | _ => false
    let asks (r : PageReq) : Bool := r.want.hits m.cid page && r.cgen = c.cgen
    let note (s : State) (f : PageReq → PageReq) : State :=
      { s with pageReqs := s.pageReqs.map fun r => if asks r then f r else r }
    if c.vf ≠ m.vf || mapped || s.walkLevel c (page * 65536) ≠ 4 then (false, s)
    else if m.pool then match s.allocatePool m.vf m.cid page with
      | (.got f, s1) => (false, note (s1.modWriteNum pa 8 (2 ^ 48 + f.1 % 4096 * 65536 + 2)) fun r => { r with pool := some f })
      | (.none r, s1) => s1.notMapped c m r
    else match s.allocate m.vf with
      | (.got f, s1) =>
        (false, (note (s1.modWriteNum pa 8 (mappedEntry m.value f)) fun r => { r with frame := some f }).kvRecount m.cid page)
      | (r, s1) => s1.notMapped c m r

/-- A mapping made, or put behind those that wait. -/
def State.mapOrWait (s : State) (m : HostMapping) : State :=
  match s.hostMap m with
  | (true, s1) => { s1 with mapq := s1.mapq ++ [m] }
  | (false, s1) => s1

/-- The mappings that wait, tried again in their order; a driver is not interrupted again. -/
def State.mapsRun (s : State) : State :=
  if s.mapq = [] then s
  else s.mapq.foldl (fun s m => match s.hostMap m with
    | (true, _) => { s with mapq := s.mapq ++ [m] }
    | (false, s1) => s1) { s with mapq := [] }

/-- PAGE_REPLY: a write to a VF's page-reply doorbell. -/
def execPageReply (vf : Nat) (reply : BitVec 128) (s : State) : Host.Outcome State Fault Refusal :=
  let n := reply.toNat
  .next (if !s.dev.ready then s
    else if bits n 127 66 ≠ 0 || 2 ≤ bits n 65 64 then
      { s with dev := { s.dev with badReplies := s.dev.badReplies + 1 } }
    else match s.pageReqs.find? fun r => r.vf = vf && r.posted && r.tag.toNat = bits n 31 0 with
      | none => s
      | some r =>
        let s1 := { s with pageReqs := s.pageReqs.filter fun q => q.tag ≠ r.tag }
        let live : Bool := match s.ctx? r.want.ctx with
          | some c => c.cgen = r.cgen && c.cst ≠ 3
          | none => false
        if r.cgen.toNat ≠ bits n 63 32 then s
        else
          let s2 := s1.postRequests s1.pageReqs []
          if !live then s2.frameBack r
          else if bits n 65 64 = 0 then (s2.kvRecount r.want.ctx r.want.page).resolve r.want.ctx r.want.page
          else s2.failPage r.want.ctx r.want.page .xlfail 0)

end Sys2Proof.Machine
end

