-- ==== Sys2Proof/Machine/EvTables.lean ====
section
/-! DEFINITION. Page migration and the invalidation queue (R207, R209, R210, R417). -/

namespace Sys2Proof.Machine

/-! ### Migration (R207) -/

/-- The history of a page's moves. -/
def State.movesOf (s : State) (cid page : Nat) : Moves :=
  ((s.moves.find? fun m => m.1 = (asidOf cid, page)).map (·.2)).getD {}

/-- The history of a page replaced. -/
def State.setMoves (s : State) (cid page : Nat) (m : Moves) : State :=
  { s with moves := (s.moves.filter fun x => x.1 ≠ (asidOf cid, page)) ++ [((asidOf cid, page), m)] }

/-- Cycles in 1 ms and in 8 ms (R207). -/
def moveWindow : Nat := 1050000
def rootPeriod : Nat := 8400000

/-- Whether the fourth most recent move is too recent. -/
def Moves.tooMany (m : Moves) (cyc : Nat) : Bool := match m.times[3]? with
  | some t => cyc - t < moveWindow
  | none => false

/-- A forwarding entry (R196). -/
def forwardEntry (dest : Nat) : Nat := 2 ^ 48 + dest % 4096 * 65536 + 2

/-- Stores of lichen halves to `n` 64 KiB pages that move go where they go: the frames from f on, mapped from a page on. -/
def State.moveHeld (s : State) (f page n dest : Nat) : State :=
  let hit (p : PStore) : Bool := p.held && p.touches none (f * 65536) (n * 65536)
  (s.pend.filter hit).foldl (fun s p => s.modTeam p.team fun t => { t with away := t.away ++
      [{ gid := p.gid, id := p.id, node := dest, va := BitVec.ofNat 64 (page * 65536 + (p.addr - f * 65536)), kind := .write p.bytes
         unit := p.unit, atomic := p.atomic, fence := p.fence }] })
    { s with pend := s.pend.filter fun p => !hit p }

/-- A refused move counted, and the page rooted at the first refusal (R207). -/
def State.refuseMove (s : State) (vf : Nat) : State :=
  let v := s.vf vf
  s.setVf vf { v with mref := v.mref + 1 }

/-- The module-wide budgets: whether class i is admitted, and a charge (R65). -/
def State.devAdmits (s : State) (i : Nat) : Bool := match s.dev.left.getD i none with
  | none => true
  | some x => 0 < x
def State.devCharge (s : State) (i n : Nat) : State := match s.dev.left.getD i none with
  | none => s
  | some x => { s with dev := { s.dev with left := s.dev.left.set i (some (x - n)) } }

/-- A move recorded: the times of the last four, newest first. -/
def State.noteMove (s : State) (cid page : Nat) : State :=
  let m := s.movesOf cid page
  s.setMoves cid page { m with times := (s.cycle :: m.times).take 4 }

/-- A page leaves this module: held accesses go on at the new home, its frames are free, and the move is recorded. `first` is
its first 64 KiB page. -/
def State.moveOut (s : State) (c : Ctx) (cid first dest pa : Nat) (e : BitVec 64) (level : Nat) : State :=
  let f := leafFrame e
  let n := levelPages level
  let s1 := (s.performAt .pod fun p => !p.held && p.touches none (f * 65536) (n * 65536)).moveHeld f first n dest
  let s2 := ((s1.tlbDrop (asidOf cid) first (first + n)).modWriteNum pa 8 (forwardEntry dest)).tell (.moved cid first dest)
  let s3 := ((s2.releaseLeaf c.vf e level).devCharge 2 (65536 * n)).noteMove cid first
  match s3.kvOwner cid (first * 65536), decide (level = 4) with
  | some rid, true => s3.kvCount rid (-1)
  | _, _ => s3

/-- A page of n 64 KiB pages, the first of which is given, comes to this module from its old home: it takes its frames, its bytes are
those that the old home copied, its entry has the old one's bits, and the move is recorded. Where no such frames are free the page
stays where it is (R207, R208; log 120). -/
def State.moveIn (s : State) (c : Ctx) (cid first pa n : Nat) (e : BitVec 64) (data : List Byte) : State :=
  match s.allocateRun c.vf n with
  | some (f, s1) =>
    let s2 := (s1.modWrite (f * 65536) (data.take (65536 * n))).modWriteNum pa 8 (mappedEntry e f)
    let s3 := ((s2.leavePool c.vf cid first).devCharge 2 (65536 * n)).noteMove cid first
    if n = 1 then s3.kvRecount cid first else s3
  | none => s

/-- PAGE_MIGRATE: a page moves to another module, unless it is rooted or moved too often; or it comes to this one, where this
module's entry names another home (R207). -/
def execPageMigrate (vf cid page : Nat) (at_ : MoveTo) (s : State) : Host.Outcome State Fault Refusal :=
  .next (match s.ctx? cid with
    | none => s
    | some c => match s.walk c (page * 65536) with
      | (.leaf e level, pa) =>
        let first := page / levelPages level * levelPages level
        let m := s.movesOf cid first
        if at_.node = s.node then s
        else if leafRoot e then s.refuseMove vf
        else if m.tooMany s.cycle then
          let s1 := (s.modWriteNum pa 8 (setBits e.toNat 15 1 1)).setMoves cid first { m with rooted := some (s.cycle + rootPeriod) }
          (s1.tlbDrop (asidOf cid) first (first + levelPages level)).refuseMove vf
        else if !s.devAdmits 2 then s
        else s.moveOut c cid first at_.node pa e level
      | (.moved _, pa) =>
        let n := levelPages (s.walkLevel c (page * 65536))
        if at_.node = s.node && s.devAdmits 2 then s.moveIn c cid (page / n * n) pa n at_.entry at_.data else s
      | _ => s)

/-- ROOT_EXPIRY: the hardware clears the ROOT it set, 8 ms later (R207). -/
def execRootExpiry (cid page : Nat) (s : State) : Host.Outcome State Fault Refusal :=
  let m := s.movesOf cid page
  .next (match m.rooted, s.ctx? cid with
    | some t, some c =>
      if s.cycle < t then s
      else
        let s1 := s.setMoves cid page { m with rooted := none }
        (match s1.walk c (page * 65536) with
          | (.leaf e level, pa) =>
            (s1.modWriteNum pa 8 (setBits e.toNat 15 1 0)).tlbDrop (asidOf cid) page (page + levelPages level)
          | _ => s1)
    | _, _ => s)

/-! ### The invalidation queue (R209, R210) -/

def invCmpl (c : BitVec 256) : BitVec 64 := BitVec.ofNat 64 (bits c.toNat 255 192)
def invLen (c : BitVec 256) : Nat := bits c.toNat 191 128
def invVa (c : BitVec 256) : Nat := bits c.toNat 127 64
def invAsid (c : BitVec 256) : Nat := bits c.toNat 63 48
def invHint (c : BitVec 256) : Nat := bits c.toNat 39 37
def invAll (c : BitVec 256) : Bool := bit c.toNat 36
def invOp (c : BitVec 256) : Nat := bits c.toNat 7 0

/-- Whether every field of a command is legal. -/
def invOk (c : BitVec 256) : Bool :=
  bits c.toNat 47 40 = 0 && bits c.toNat 35 8 = 0 && invHint c ≤ 4 && invVa c % 65536 = 0 && invVa c < 2 ^ 56
    && invLen c % 65536 = 0 && (!invAll c || invLen c = 0) && 1 ≤ invOp c && invOp c ≤ 3

/-- The pages of a command's range. -/
def invRange (c : BitVec 256) : Nat × Nat :=
  if invAll c then (0, 2 ^ 40) else (invVa c / 65536, (invVa c + invLen c) / 65536)

/-- The groups of an address space. -/
def State.asidGroups (s : State) (asid : Nat) : List Nat :=
  (s.groups.filter fun p => match s.ctxOf p.2 with
    | some cid => asidOf cid = asid
    | none => false).map (·.1)

/-- Translations of a range leave the TLBs, and every access of the address space that is not held is performed. -/
def State.invEffect (s : State) (c : BitVec 256) : State :=
  let (lo, hi) := invRange c
  let gids := s.asidGroups (invAsid c)
  (s.performAt .pod fun p => !p.held && p.sp.isNone && gids.contains p.gid).tlbDrop (invAsid c) lo hi

/-- The stores of lichen halves that used a translation of the range: they are performed at a compare point, or discarded. -/
def State.invHeld (s : State) (c : BitVec 256) : List Nat :=
  let (lo, hi) := invRange c
  let gids := s.asidGroups (invAsid c)
  (s.pend.filter fun p => p.held && p.sp.isNone && gids.contains p.gid && lo * 65536 < p.va + p.bytes.length
    && p.va < hi * 65536).map (·.id)

/-- Route hints of a range forgotten. -/
def State.hintsDrop (s : State) (c : BitVec 256) : State :=
  let (lo, hi) := invRange c
  { s with hints := s.hints.map fun l => l.filter fun h => !(h.1 = invAsid c && lo ≤ h.2.1 && h.2.1 < hi) }

/-- The oldest command of the queue goes on: whether it is over. A command with an illegal value adds 2^32 to CMPL; an
invalidation waits until no access that used a removed translation is left to perform (R210). -/
def State.invStep (s : State) (q : InvCmd) (rest : List InvCmd) : Bool × State :=
  let ended (s : State) (n : Nat) : Bool × State := (true, { s with invq := rest }.complete (invCmpl q.cmd) n)
  if !invOk q.cmd then ended s (2 ^ 32)
  else match invOp q.cmd with
    | 2 => ended s 1
    | 3 => ended (s.hintsDrop q.cmd) 1
    | _ =>
      let (waits, s1) := match q.waits with
        | some l => (l, s)
        | none => (s.invHeld q.cmd, s.invEffect q.cmd)
      if s1.pend.any fun p => p.held && waits.contains p.id then (false, { s1 with invq := { q with waits := some waits } :: rest })
      else ended (s1.performAt .pod fun p => waits.contains p.id) 1

/-- Commands of the queue, in their order, as far as they can go. -/
def State.invRun (s : State) : Nat → State
  | 0 => s
  | fuel + 1 => match s.invq with
    | [] => s
    | q :: rest => match s.invStep q rest with
      | (true, s1) => s1.invRun fuel
      | (false, s1) => s1

/-- A command taken into the queue, or discarded where CMPL may not be written (R210, R417). -/
def State.invalidation (s : State) (vf : Nat) (c : BitVec 256) : State :=
  if !s.dev.ready then s
  else if !s.wordOk vf (invCmpl c) then s.discard vf
  else { s with invq := s.invq ++ [({ vf, cmd := c } : InvCmd)] }.invRun (s.invq.length + 1)

/-- INVALIDATE: translations of a range leave the TLBs once every access that used them is performed (R210). It also
takes the commands whose OP is illegal. -/
def execInvalidate (vf : Nat) (c : BitVec 256) (s : State) : Host.Outcome State Fault Refusal :=
  .next (if invOp c = 2 || invOp c = 3 then s else s.invalidation vf c)

/-- SYNC: every earlier command has been acknowledged (R210). -/
def execSync (vf : Nat) (c : BitVec 256) (s : State) : Host.Outcome State Fault Refusal :=
  .next (if invOp c ≠ 2 then s else s.invalidation vf c)

/-- FLUSH_ROUTE_HINTS (R210). -/
def execFlushRouteHints (vf : Nat) (c : BitVec 256) (s : State) : Host.Outcome State Fault Refusal :=
  .next (if invOp c ≠ 3 then s else s.invalidation vf c)

end Sys2Proof.Machine
end

