-- ==== Sys2Proof/Machine/EvDispatch.lean ====
section
/-! DEFINITION. The dispatcher: eligible cores, the order of launches, placing teams, halves and restored teams
(R20, R24, R25, R52, R60 to R64, R178, R242, R248, R250, R265, R266). -/

namespace Sys2Proof.Machine

/-! ### Eligible cores (R24) -/

/-- Register slots free on a core. -/
def Core.freeSlots (c : Core) : Nat := ((List.range 4).map fun i => (c.parts.getD i {}).pool).foldl (· + ·) 0

/-- The partition with the most free slots, the lowest number on ties. -/
def Core.basePart (c : Core) : Nat :=
  (List.range 4).foldl (fun b i => if (c.parts.getD b {}).pool < (c.parts.getD i {}).pool then i else b) 0

/-- Whether groups, each with its number and its slots, fit on a core from its base partition on. -/
def Core.fits (c : Core) (need : List (Nat × Nat)) (scrb : Nat) : Bool :=
  let b := c.basePart
  c.spUsed + scrb ≤ Config.scratchBytes && (List.range 4).all fun i =>
    let mine := need.filter fun g => (b + g.1) % 4 = i
    let p := c.parts.getD i {}
    p.active.length + p.pending.length + mine.length ≤ 32 && (mine.map (·.2)).foldl (· + ·) 0 ≤ p.pool

/-- Whether the dispatcher may use a core for a context (R24, R248, R265). -/
def State.mayUse (s : State) (c : Ctx) (n : Nat) : Bool :=
  (s.vf c.vf).cores.getLsbD n && !(s.core n).quarantined && !c.stopped.contains n

/-- The eligible core with the most free slots, the lowest number on ties. -/
def State.pickCore (s : State) (c : Ctx) (need : List (Nat × Nat)) (scrb : Nat) (allowed : Nat → Bool) : Option Nat :=
  ((List.range 256).filter fun n => allowed n && s.mayUse c n && (s.core n).fits need scrb).foldl (fun best n => match best with
    | none => some n
    | some m => if (s.core m).freeSlots < (s.core n).freeSlots then some n else some m) none

/-! ### Placing a team of a launch -/

/-- What each group of a new team needs: its number and its starting slots. -/
def Grid.need (gr : Grid) : List (Nat × Nat) := (List.range gr.k.gpt).map fun g => (g, gr.k.startSlots)

/-- Groups `g` to GPT - 1 of a new team, numbered from `first`. -/
def State.placeGroups (s : State) (gr : Grid) (c : Ctx) (t : Team) (tid first : Nat) (reqId : BitVec 32)
    (pair : Nat → Option (Nat × Bool)) (g : Nat) : Nat → State
  | 0 => s
  | n + 1 =>
    let part := (t.base + g) % 4
    let x := startGroup gr (startRegs s.node gr reqId t.no g) tid g part s.cycle
    let audit : Audit := if auditSelects c gr t.no g then .selected [] 0 else .off
    let s1 := (s.setGroup (first + g) { x with audit, pair := pair g }).admitGroup t.core part (first + g) gr.k.startSlots
    s1.placeGroups gr c t tid first reqId pair (g + 1) n

/-- A team placed on a core: `tid` is its number, its groups are numbered from tid + 1, `twin` is the other half's
number and whether this half leads. -/
def State.placeTeam (s : State) (grid : Nat) (gr : Grid) (c : Ctx) (core tid : Nat) (twin : Option (Nat × Bool)) : State :=
  let k := s.core core
  let t : Team := { grid, no := gr.placed, core, base := k.basePart, groups := (List.range gr.k.gpt).map (tid + 1 + ·)
                    twin := twin.map (·.1), spans := s.spansFor core gr.k.scrb }
  let s1 := (s.setCore core { k with spUsed := k.spUsed + gr.k.scrb }).setTeam tid t
  let pair (g : Nat) : Option (Nat × Bool) := twin.map fun w => (w.1 + 1 + g, w.2)
  let s2 := s1.placeGroups gr c t tid (tid + 1) (s1.place gr t).2.1 pair 0 gr.k.gpt
  if gr.k.preg = gr.k.freg then s2.openScratch tid else s2

/-- The cores of a grid's next team: one, or two of different clusters for a lichen pair (R24, R250). -/
def State.coresFor (s : State) (gr : Grid) (c : Ctx) : Option (Nat × Option Nat) :=
  match s.pickCore c gr.need gr.k.scrb fun _ => true with
  | none => none
  | some a =>
    if !gr.k.pair then some (a, none)
    else match s.pickCore c gr.need gr.k.scrb fun n => clusterOf n ≠ clusterOf a with
      | none => none
      | some b => some (a, some b)

/-- Whether the launching group's earlier stores and atomics are performed at device scope (R178). -/
def State.launchOrdered (s : State) (gr : Grid) : Bool :=
  match gr.after with
  | none => true
  | some (g, n) => !(s.pend.any fun p => p.gid = g && p.id < n && p.short .device)
      && !(s.fabOut.any fun o => o.gid = g && o.id < n && o.eng.isNone && !o.signal)

/-- Waiting grids of a level enter its FIFO while it has room (R60). -/
def State.refill (s : State) (cid prio : Nat) : State :=
  ((s.grids.filter fun p => p.2.ctx = cid && p.2.prio = prio && !p.2.queued && p.2.deps = []).map (·.1)).foldl
    (fun s g => s.enqueueGrid g) s

/-- The next team of the grid at the head of a FIFO is placed; its last one takes the grid from the FIFO. -/
def State.dispatchGrid (s : State) (cid : Nat) (c : Ctx) (level grid : Nat) : Option State :=
  match s.grid? grid with
  | none => none
  | some gr =>
    if !s.launchOrdered gr then none
    else match s.coresFor gr c with
      | none => none
      | some (a, b) =>
        let tid := s.nextId
        let n := 1 + gr.k.gpt
        let s0 := { s with nextId := s.nextId + n * (if b.isSome then 2 else 1) }
        let s1 := match b with
          | none => s0.placeTeam grid gr c a tid none
          | some b => (s0.placeTeam grid gr c a tid (some (tid + n, true))).placeTeam grid gr c b (tid + n) (some (tid, false))
        let s2 := s1.modGrid grid fun g => { g with placed := g.placed + 1 }
        let s3 := if gr.placed + 1 < gr.teams then s2
          else (s2.modCtx cid fun c => { c with fifos := c.fifos.set level ((c.fifos.getD level []).drop 1) }).refill cid level
        some s3

/-! ### Placing a saved team (R266) -/

/-- The number and the full allotment of each group of a team that was on a core (R25, R266). -/
def State.savedNeed (s : State) (t : Team) (k : Kernel) : List (Nat × Nat) :=
  t.groups.filterMap fun gid => match s.group? gid with
    | some g => if g.life = .saved then some (g.no, k.fullSlots) else none
    | none => none

/-- A saved group as it goes on: the last-result file reads poison, translation registers are translated again, and it starts
on the spare of its partition; one that was to retire still is (R254, R266). -/
def Group.restored (g : Group) (part cyc : Nat) : Group :=
  { g with
    life := if g.retires then .retiring else .resident, retires := false, part, since := cyc, readySince := none, issuedAt := cyc, drained := true
    slot0 := { g.slot0 with l0 := .poison, l1 := .poison }
    slot1 := { g.slot1 with l0 := .poison, l1 := .poison }
    regs := { g.regs with g := g.regs.g.map fun r => { r with stale := true } } }

/-- Bytes of the save area that a saved team takes: 384 a register slot, and its scratchpad (R265). -/
def State.saveSize (s : State) (t : Team) (k : Kernel) : Nat :=
  384 * t.groups.foldl (fun n gid => match s.group? gid with
    | some g => if g.life = .saved then n + g.held k else n
    | none => n) 0 + k.scrb

/-- A saved team placed on a core; what is read back is charged to the VF, and never deferred (R265). -/
def State.replaceTeam (s : State) (tid : Nat) (t : Team) (gr : Grid) (core : Nat) : State :=
  let k := s.core core
  let b := k.basePart
  let spans := s.spansFor core gr.k.scrb
  let s1 := (s.setCore core { k with spUsed := k.spUsed + gr.k.scrb }).setTeam tid { t with core, base := b, placing := .placed, spans }
  let s2 := t.groups.foldl (fun s gid => match s.group? gid with
    | some g =>
      let part := (b + g.no) % 4
      if g.life = .saved then (s.setGroup gid (g.restored part s.cycle)).admitGroup core part gid (g.held gr.k)
      else s.setGroup gid { g with part }
    | none => s) s1
  match s.ctx? gr.ctx with
  | none => s2
  | some c => s2.charge c.vf 0 (s.saveSize t gr.k)

/-- Teams of a context that wait to be placed again at a level. -/
def State.restoringTeams (s : State) (cid level : Nat) : List (Nat × Team × Grid) :=
  s.teams.filterMap fun p => if p.2.placing = .restoring then (match s.grid? p.2.grid with
    | some gr => if gr.ctx = cid && gr.prio = level then some (p.1, p.2, gr) else none
    | none => none) else none

/-- Restores, the oldest first, as far as each has no team left to place: CMPL counts (R263, R266; log 109). -/
def State.endRestores (s : State) (cid : Nat) : List (BitVec 64 × List Nat) → State
  | [] => s
  | (a, tids) :: rest =>
    let waits (tid : Nat) : Bool := match s.team? tid with
      | some t => t.placing = .restoring
      | none => false
    if tids.any waits then s
    else ((s.modCtx cid fun c => { c with restores := rest }).complete a 1).endRestores cid rest

/-- Restores of a context that are complete. -/
def State.endRestore (s : State) (cid : Nat) : State :=
  match s.ctx? cid with
  | none => s
  | some c => s.endRestores cid c.restores

/-- A half of a pair goes to a cluster that the other half is not in (R24, R250). -/
def State.pairAllows (s : State) (t : Team) (n : Nat) : Bool :=
  match t.twin.bind s.team? with
  | some w => w.placing ≠ .placed || w.retired || clusterOf w.core ≠ clusterOf n
  | none => true

/-- A restored team placed where one fits. -/
def State.dispatchSaved (s : State) (cid : Nat) (c : Ctx) (tid : Nat) (t : Team) (gr : Grid) : Option State :=
  (s.pickCore c (s.savedNeed t gr.k) gr.k.scrb (s.pairAllows t)).map fun n => (s.replaceTeam tid t gr n).endRestore cid

/-! ### One turn (R61) -/

/-- What a context's head at a level comes to; none where it fits nowhere. Restored teams precede launches. -/
def State.dispatchCtx (s : State) (cid level : Nat) : Option State :=
  match s.ctx? cid with
  | none => none
  | some c =>
    if c.cst ≠ 1 then none else match s.restoringTeams cid level with
      | (tid, t, gr) :: _ => s.dispatchSaved cid c tid t gr
      | [] => match c.fifos.getD level [] with
        | [] => none
        | grid :: _ => s.dispatchGrid cid c level grid

/-- Contexts in ascending CTXID, from after the one served last at a level. Before any was, from the lowest: R61 does not say where a
rotation starts (DESIGN CHOICE, log 132). -/
def State.rotated (s : State) (level : Nat) : List Nat :=
  let ids := s.ctxs.map (·.1)
  match Map.get? s.rotation level with
  | none => ids
  | some last => ids.filter (last < ·) ++ ids.filter (· ≤ last)

/-- The first context of a list whose head fits, and the state after it. -/
def State.dispatchFirst (s : State) (level : Nat) : List Nat → Option State
  | [] => none
  | cid :: rest => match s.dispatchCtx cid level with
    | some s1 => some { s1 with rotation := Map.set s1.rotation level cid }
    | none => s.dispatchFirst level rest

/-- Levels from `level - 1` down. -/
def State.dispatchLevels (s : State) : Nat → State
  | 0 => s
  | level + 1 => match s.dispatchFirst level (s.rotated level) with
    | some s1 => s1
    | none => s.dispatchLevels level

/-- DISPATCH_TEAM: one turn of the dispatcher (R61). -/
def execDispatchTeam (s : State) : Host.Outcome State Fault Refusal := .next (s.dispatchLevels 8)

/-! ### PENDING_DISPLACE (R64) -/

/-- PENDING_DISPLACE: a pending group that has been ready for 4,032 cycles displaces the youngest active group. -/
def execPendingDisplace (core part gid : Nat) (s : State) : Host.Outcome State Fault Refusal :=
  let p := s.part core part
  .next (match (s.group? gid).bind (·.readySince), s.youngest p.active with
    | some c, some y => if p.pending.contains gid && c + 4032 ≤ s.cycle then s.swapGroups core part y gid else s
    | _, _ => s)

end Sys2Proof.Machine
end

