-- ==== Sys2Proof/Machine/EvContext.lean ====
section
/-! DEFINITION. Context commands and the reset of a VF: start, pre-empt, restore, terminate (R256, R262 to R270, R417). -/

namespace Sys2Proof.Machine

/-! ### Commands (R263) -/

def ccCmpl (c : BitVec 256) : BitVec 64 := BitVec.ofNat 64 (bits c.toNat 255 192)
def ccCcba (c : BitVec 256) : Nat := bits c.toNat 127 64
def ccCtx (c : BitVec 256) : Nat := bits c.toNat 63 32
def ccCore (c : BitVec 256) : Nat := bits c.toNat 23 16
def ccOne (c : BitVec 256) : Bool := bit c.toNat 9
def ccAbort (c : BitVec 256) : Bool := bit c.toNat 8
def ccOp (c : BitVec 256) : Nat := bits c.toNat 7 0

/-- Whether the fields of a command other than start are legal. -/
def ccOk (c : BitVec 256) : Bool :=
  bits c.toNat 191 128 = 0 && ccCcba c = 0 && bits c.toNat 31 24 = 0 && bits c.toNat 15 10 = 0
    && (!ccAbort c || ccOp c = 0x10)

/-- The cores that a command covers. -/
def ccCores (c : BitVec 256) : List Nat := if ccOne c then [ccCore c] else List.range 256

/-- A command's completion word is tested first; a command whose values are illegal, or that names no running or
pre-empted context of the VF, adds 2^32 to CMPL (R263, R417; log 42). -/
def State.command (s : State) (vf : Nat) (cmd : BitVec 256) (run : Ctx → State → State) : State :=
  if !s.dev.ready then s
  else if !s.wordOk vf (ccCmpl cmd) then s.discard vf
  else
    let bad := s.complete (ccCmpl cmd) (2 ^ 32)
    match (s.ctx? (ccCtx cmd)).filter fun c => c.vf = vf && (c.cst = 1 || c.cst = 2) with
    | some c => if ccOk cmd then run c s else bad
    | none => bad

/-- CST of a context changed, in its CCB too (R256). -/
def State.setCst (s : State) (cid cst : Nat) : State :=
  match s.ctx? cid with
  | none => s
  | some c =>
    let a := c.ccb.toNat + 46
    let old := s.num .module none a 1
    (s.setCtx cid { c with cst }).modWriteNum a 1 (setBits old 4 4 cst)

/-! ### Start (R264) -/

/-- The bit offset of the first field that is bad. -/
def firstBad : List (Nat × Bool) → Option Nat
  | [] => none
  | (off, b) :: rest => if b then some off else firstBad rest

/-- The bit offset of the first bad field of a CCB for a start by a VF's command, or for a restore of its context (R256, R264). -/
def State.ccbBad (s : State) (vf : Nat) (cmd : BitVec 256) (b : Nat) (again : Bool := false) : Option Nat :=
  let trec := bits b 255 192
  let clash : Bool := match s.ctx? (ccCtx cmd) with
    | some c => c.cst = 1 || c.cst = 2
    | none => false
  firstBad [(0, bits b 11 0 ≠ 0), (64, bits b 127 64 ≠ 0), (128, bits b 129 128 ≠ 0),
    (192, trec % 64 ≠ 0 || trec / 65536 ≠ (trec + 383) / 65536 || !s.ownsFrame vf (trec / 65536)),
    (256, bits b 277 256 ≠ 0), (320, bits b 363 320 ≠ 0), (367, bits b 371 367 ≠ 0), (376, bits b 383 376 ≠ vf),
    (416, bits b 447 416 ≠ ccCtx cmd || (clash && !again)), (448, bits b 463 448 ≠ 0), (464, 256 < bits b 472 464),
    (473, bits b 479 473 ≠ 0), (512, bits b 521 512 ≠ 0), (576, 2 ^ 20 < bits b 607 576),
    (608, bits b 2047 608 ≠ 0)]

/-- Whether a start command's CCBA may be read: 256-byte aligned, in a frame of the VF (log 88). -/
def State.ccbaOk (s : State) (vf : Nat) (cmd : BitVec 256) : Bool :=
  ccCcba cmd % 256 = 0 && s.ownsFrame vf (ccCcba cmd / 65536)

/-- The bit offset of the first bad field of a start command (R2, R264). -/
def State.startBad (s : State) (vf : Nat) (cmd : BitVec 256) : Option Nat :=
  firstBad [(0, ccOp cmd ≠ 0x13), (8, ccAbort cmd), (9, ccOne cmd), (10, bits cmd.toNat 15 10 ≠ 0), (24, bits cmd.toNat 31 24 ≠ 0),
    (64, !s.ccbaOk vf cmd), (128, bits cmd.toNat 191 128 ≠ 0)]

/-- The context that a CCB describes (R256). -/
def ctxOfCcb (ccb : Nat) (vf b : Nat) : Ctx :=
  { ccb := BitVec.ofNat 64 ccb, cgen := BitVec.ofNat 32 (bits b 415 384), vf, cst := 1, racet := bit b 366, pairok := bit b 365
    privc := bit b 364, afrac := bits b 472 464, aseed := BitVec.ofNat 32 (bits b 511 480), savea := BitVec.ofNat 64 (bits b 319 256)
    trec := BitVec.ofNat 64 (bits b 255 192), tvec := BitVec.ofNat 64 (bits b 191 128), ptroot := BitVec.ofNat 64 (bits b 63 0)
    conta := BitVec.ofNat 64 (bits b 575 512), contn := bits b 607 576 }

/-- Streams of a VF whose grids run in a context run their step again where it was discarded (R268). -/
def State.resumeSteps (s : State) (vf cid : Nat) : State :=
  (List.range 8).foldl (fun s k => s.modStream vf k fun x =>
    if bits x.desc.toNat 159 128 = cid then { x with aborted := false } else x) s

/-- Nothing of a former context of a CTXID is left for a new one: its scratchpad bytes are another context's (R193, R264). -/
def State.renewCtx (s : State) (cid : Nat) : State :=
  { s with
    resetCtxs := s.resetCtxs.filter (· ≠ cid)
    cores := s.cores.map fun (p : Nat × Core) => (p.1, { p.2 with spLast := p.2.spLast.filter fun q => q.2 ≠ cid }) }

/-- A start command: a CCB is checked, and a context comes into being (R264). A command whose OP is illegal adds 2^32. -/
def State.start (s : State) (vf : Nat) (cmd : BitVec 256) : State :=
  if !s.dev.ready then s
  else if !s.wordOk vf (ccCmpl cmd) then s.discard vf
  else if ccOp cmd ≠ 0x13 then s.complete (ccCmpl cmd) (2 ^ 32)
  else
    let refuse (b : Nat) : State := s.complete (ccCmpl cmd) (2 ^ 32 + 2 ^ 16 * (b + 1))
    let a := ccCcba cmd
    let b := s.num .module none a 256
    match (if s.ccbaOk vf cmd then s.ccbBad vf cmd b else none), s.startBad vf cmd with
    | some off, _ => refuse off
    | none, some off => refuse (2048 + off)
    | none, none =>
      let s1 := (s.renewCtx (ccCtx cmd)).resumeSteps vf (ccCtx cmd)
      ((s1.setCtx (ccCtx cmd) (ctxOfCcb a vf b)).setCst (ccCtx cmd) 1).complete (ccCmpl cmd) 1

/-! ### Pre-emption (R265 to R268) -/

/-- A re-execution is abandoned; its audit stays queued. -/
def State.dropRunner (s : State) (gid : Nat) : State :=
  match s.group? gid with
  | none => s
  | some g =>
    let grid := (s.team? g.team).map (·.grid)
    let s1 := s.vacate gid
    { s1 with
      audits := s1.audits.map fun (j : AuditJob) => if j.runner = some gid then { j with runner := none } else j
      groups := Map.del s1.groups gid, teams := Map.del s1.teams g.team, grids := s1.grids.filter fun p => some p.1 ≠ grid }

/-- A slot saved at an instruction boundary: a stall at ACQ, BIND or ACQR is withdrawn (R265). `asked`: a request of the slot is
in the grant queue of another module. A key that has been granted stays granted. -/
def Slot.withdrawn (x : Slot) (asked : Bool) : Slot :=
  match x.wait with
  | .key => if x.granted.isSome || (x.sent && !asked) then x else { x with wait := .ready, sent := false }
  | .acqr => { x with wait := .ready }
  | _ => x

/-- Whether a slot's request waits in the grant queue of another module. -/
def State.asksKey (s : State) (gid : Nat) (slot : Bool) : Bool :=
  s.fabOut.any fun o => o.gid = gid && o.slot = slot && (match o.req.kind with
    | .key r _ _ _ => r ≠ 3
    | _ => false)

/-- A group's loads complete, and its matrix operations as far as they can (R265, R352). -/
def State.settleGroup (s : State) (gid : Nat) : State :=
  match s.group? gid with
  | none => s
  | some g =>
    let s1 := g.loads.foldl (fun s l => outState s (execLoadCompletion gid l.id (-1) s)) s
    g.mat.foldl (fun s o => match (s.group? gid).bind fun g => g.mat.findIdx? fun x => x.id = o.id with
      | some i => outState s (execMatrixCompletion gid i 384 s)
      | none => s) s1

/-- A group on a core saved, its matrix operations complete: stores are performed, waits for keys and slots are withdrawn, here and
at other modules (R265, R291), and its place and slots are free. -/
def State.saveGroup (s : State) (cid gid : Nat) : State :=
  let s3 := s.performAt .pod fun p => !p.held && p.gid = gid
  let s4 := s3.modCtx cid fun c => { c with
    keys := (c.keys.map fun (k, x) => (k, { x with queue := x.queue.filter fun q => q.who ≠ gid || q.remote.isSome })).filter
      fun p => p.2 ≠ {} }
  ((s4.withdrawKeys gid).vacate gid).modGroup gid fun g => { g with
    life := .saved, retires := g.life = .retiring
    slot0 := g.slot0.withdrawn (s.asksKey gid false), slot1 := g.slot1.withdrawn (s.asksKey gid true) }

/-- A retiring group retires before its team is saved. -/
def State.finishGroup (s : State) (gid : Nat) : State :=
  outState s (execGroupRetire gid (s.performAt .pod fun p => !p.held && p.gid = gid))

/-- Where the save area of a core is taken already, by teams of a context that were saved there before (R265). -/
def State.savedOn (s : State) (cid core : Nat) : Nat :=
  s.teams.foldl (fun n p => if p.2.core = core && p.2.placing ≠ .placed && !p.2.retired then (match s.grid? p.2.grid with
    | some gr => if gr.ctx = cid then n + s.saveSize p.2 gr.k else n
    | none => n) else n) 0

/-- n bytes written to a context's memory from an address on, on the pages of this module that a store of it could write: free
values, since R265 does not give the layout of the save area (log 86). -/
def State.writeSave (s : State) (cid : Nat) (c : Ctx) (va n : Nat) : State :=
  let (u, s0) := s.takeFree
  (List.range ((va + n) / 65536 + 1 - va / 65536)).foldl (fun s i =>
    let lo := max va ((va / 65536 + i) * 65536)
    let hi := min (va + n) ((va / 65536 + i + 1) * 65536)
    match (s.walk c lo).1.use c cid lo 1 with
    | .ok pa _ => s.modWrite pa ((List.range (hi - lo)).map fun j => Config.saveByte u (lo - va + j))
    | _ => s) s0

/-- The groups of a team that are on its core. -/
def State.onCoreOf (s : State) (t : Team) : List Nat :=
  t.groups.filter fun gid => match s.group? gid with
    | some g => g.onCore
    | none => false

/-- A team stops: its retiring groups retire, loads complete, and matrix operations go on (R265). -/
def State.settleTeam (s : State) (tid : Nat) : State :=
  match s.team? tid with
  | none => s
  | some t => t.groups.foldl (fun s gid => match s.group? gid with
      | some g => if g.life = .retiring then s.finishGroup gid else if g.life = .resident then s.settleGroup gid else s
      | none => s) s

/-- Whether a team has a matrix operation that is not complete (R352). -/
def State.matrixLeft (s : State) (t : Team) : Bool :=
  (s.onCoreOf t).any fun gid => match s.group? gid with
    | some g => g.mat ≠ []
    | none => false

/-- A team saved whole to SAVEA + 4 MiB x core, charged to the VF's HBM budget and never deferred by it (R265). `back`: it is placed
again at once (R269). -/
def State.saveTeam (s : State) (cid : Nat) (c : Ctx) (tid : Nat) (t : Team) (k : Kernel) (back : Bool) : State :=
  let before := s.savedOn cid t.core
  let s2 := (s.onCoreOf t).foldl (fun s gid => s.saveGroup cid gid) s
  let s3 := (s2.freeScratch tid).modTeam tid fun t => { t with placing := if back then .restoring else .saved }
  let s4 := t.groups.foldl (fun s gid => s.modGroup gid fun g => { g with stopping := false }) s3
  let n := s4.saveSize t k
  (s4.writeSave cid c (c.savea.toNat + 0x400000 * t.core + before) n).charge c.vf 0 n

/-- One team of a save: whether it waits for a matrix operation, and the state after it. -/
def State.saveOne (s : State) (j : SaveJob) (tid : Nat) : Bool × State :=
  let s1 := s.settleTeam tid
  match s1.team? tid, s1.ctx? j.cid with
  | some t, some c => match s1.grid? t.grid with
    | none => (false, s1)
    | some gr =>
      if t.retired then (false, s1)
      else if s1.matrixLeft t then (true, s1)
      else (false, s1.saveTeam j.cid c tid t gr.k (j.back && c.cst = 1))
  | _, _ => (false, s1)

/-- A save that is over: the context is pre-empted where every core is covered, and CMPL counts (R256, R263). -/
def State.endSave (s : State) (j : SaveJob) : State :=
  let s1 := if j.all && ((s.ctx? j.cid).map (·.cst)) = some 1 then s.setCst j.cid 2 else s
  match j.cmpl with
  | some a => s1.complete a 1
  | none => s1

/-- A save goes on: each team whose matrix operations are complete is saved. -/
def State.runSave (s : State) (j : SaveJob) : State :=
  let (left, s1) := j.teams.foldl (fun (a : List Nat × State) tid => match a.2.saveOne j tid with
    | (true, s1) => (a.1 ++ [tid], s1)
    | (false, s1) => (a.1, s1)) ([], s)
  if left = [] then s1.endSave j else { s1 with saves := s1.saves ++ [{ j with teams := left }] }

/-- Every save that is not over goes on. -/
def State.savesRun (s : State) : State :=
  if s.saves = [] then s else s.saves.foldl (fun s j => s.runSave j) { s with saves := [] }

/-- Teams of a context on cores of a list. -/
def State.teamsOn (s : State) (cid : Nat) (cores : List Nat) (p : Placing) : List (Nat × Grid) :=
  s.teams.filterMap fun x => if x.2.placing = p && !x.2.retired && cores.contains x.2.core then (match s.grid? x.2.grid with
    | some gr => if gr.ctx = cid then some (x.1, gr) else none
    | none => none) else none

/-- Groups of a context that re-execute for audits. -/
def State.runnersOf (s : State) (cid : Nat) : List Nat :=
  (s.groups.filter fun p => p.2.replays && s.ctxOf p.2 = some cid).map (·.1)

/-- Teams issue nothing more. -/
def State.stopTeams (s : State) (tids : List Nat) : State :=
  tids.foldl (fun s tid => match s.team? tid with
    | some t => t.groups.foldl (fun s gid => s.modGroup gid fun g => { g with stopping := true }) s
    | none => s) s

/-- A save of the teams of a context that are placed on cores, but for those that are being saved already, begins (R265). -/
def State.beginSave (s : State) (j : SaveJob) (cores : List Nat) : State :=
  let tids := ((s.teamsOn j.cid cores .placed).map (·.1)).filter fun tid => !s.saves.any fun q => q.teams.contains tid
  (s.stopTeams tids).runSave { j with teams := tids }

/-- A context leaves cores: nothing more is placed there, and its teams are saved (R265). -/
def State.preemptOn (s : State) (j : SaveJob) (cores : List Nat) : State :=
  (s.modCtx j.cid fun c => { c with stopped := (c.stopped ++ cores).dedup }).beginSave j cores

/-! ### Aborting a step (R268) -/

/-- Grids with the grids launched from them, to a nesting of `fuel`. -/
def State.descendants (s : State) (gs : List Nat) : Nat → List Nat
  | 0 => gs
  | fuel + 1 =>
    let more := (s.grids.filter fun p => match p.2.parent with
      | some q => gs.contains q && !gs.contains p.1
      | none => false).map (·.1)
    if more = [] then gs else s.descendants (gs ++ more) fuel

/-- Grids end without retiring: their groups end as at termination. -/
def State.killGrids (s : State) (cid : Nat) (gs : List Nat) : State :=
  let tids := (s.teams.filter fun p => gs.contains p.2.grid).map (·.1)
  let gids := (s.groups.filter fun p => tids.contains p.2.team).map (·.1)
  let s1 := gids.foldl (fun s gid => ((s.dropKeys cid gid true).stopGroup gid .ended).dropDetector cid gid) s
  let s2 := tids.foldl (fun s tid => s.freeScratch tid) s1
  let s3 := { s2 with
    groups := s2.groups.filter fun p => !gids.contains p.1
    teams := s2.teams.filter fun p => !tids.contains p.1
    grids := s2.grids.filter fun p => !gs.contains p.1 }
  s3.modCtx cid fun c => { c with fifos := c.fifos.map fun q => q.filter fun g => !gs.contains g }

/-- A request of an aborted step: TLEN := CLEN, and the step copies of ACCLEN and NTOKV (R268). -/
def State.restoreReq (s : State) (rid : Nat) : State :=
  let s1 := s.abandonRound rid
  let r := s1.req rid
  let r1 := ((r.put 96 32 (recClen r.n)).put 1024 32 r.copies.2.2.1).put 1056 32 r.copies.2.2.2
  s1.setReq rid { r1 with inStep := false, verdict := false }

/-- The steps in progress of a context's streams are discarded; STEPNO is not advanced, and each runs again at a restore (R268). -/
def State.abortSteps (s : State) (vf cid : Nat) : State :=
  (List.range 8).foldl (fun s k =>
    let x := s.stream vf k
    if bits x.desc.toNat 159 128 ≠ cid || x.phase = .idle then s
    else
      let gs := (s.grids.filter fun p => match p.2.step with
        | some (v, j, _) => v = vf && j = k && p.2.stepNo = x.stepNo
        | none => false).map (·.1)
      let s1 := s.killGrids cid (s.descendants gs 10)
      let s2 := (s1.stepReqs vf k).foldl (fun s rid => s.restoreReq rid) s1
      let s3 := { s2 with audits := s2.audits.filter fun j => !(j.vf = vf && j.stepNo = x.stepNo &&
        (j.grid.step.map fun (p : Nat × Nat × Nat) => p.2.1) = some k) }
      s3.modStream vf k fun x => { x with phase := .idle, parked := none, unreadable := false, aborted := true }) s

/-- A pre-empt command (R265, R267, R268). -/
def State.preempt (s : State) (vf : Nat) (cmd : BitVec 256) : State :=
  s.command vf cmd fun _ s =>
    let cid := ccCtx cmd
    let s0 := (s.runnersOf cid).foldl (fun s gid => s.dropRunner gid) s
    let s1 := if ccAbort cmd then s0.abortSteps vf cid else s0
    s1.preemptOn { vf, cid, cmpl := some (ccCmpl cmd), teams := [], all := !ccOne cmd, back := false } (ccCores cmd)

/-- The CCB of a context read again: its fields become the context's own, but for CTXID, VF, CST and CGEN; a CCB with a bad
field leaves the context as it was (R256; log 116). -/
def State.rereadCcb (s : State) (vf : Nat) (cmd : BitVec 256) (c : Ctx) : State :=
  let b := s.num .module none c.ccb.toNat 256
  match s.ccbBad vf cmd b true with
  | some _ => s
  | none =>
    let n := ctxOfCcb c.ccb.toNat vf b
    s.modCtx (ccCtx cmd) fun c => { c with
      racet := n.racet, pairok := n.pairok, privc := n.privc, afrac := n.afrac, aseed := n.aseed, savea := n.savea, trec := n.trec
      tvec := n.tvec, ptroot := n.ptroot, conta := n.conta, contn := n.contn }

/-- A restore command: the CCB is read, saved teams wait for the dispatcher, and CMPL counts when the last one is placed; a step that
was discarded runs again (R256, R266, R268). -/
def State.restore (s : State) (vf : Nat) (cmd : BitVec 256) : State :=
  s.command vf cmd fun c s =>
    let cid := ccCtx cmd
    let cores := ccCores cmd
    let s1 := ((s.rereadCcb vf cmd c).setCst cid 1).resumeSteps vf cid
    let tids := (s1.teamsOn cid cores .saved).map (·.1)
    let s2 := s1.modCtx cid fun c => { c with
      stopped := c.stopped.filter fun n => !cores.contains n, restores := c.restores ++ [(ccCmpl cmd, tids)] }
    (tids.foldl (fun s tid => s.modTeam tid fun t => { t with placing := .restoring }) s2).endRestore cid

/-- A terminate command (R262). -/
def State.terminateCmd (s : State) (vf : Nat) (cmd : BitVec 256) : State :=
  s.command vf cmd fun _ s => (s.terminateCtx (ccCtx cmd) { cause := 6 }).complete (ccCmpl cmd) 1

/-! ### The order of commands (R263) -/

/-- A command executed. -/
def State.runCommand (s : State) (vf : Nat) (cmd : BitVec 256) : State :=
  match ccOp cmd with
  | 0x10 => s.preempt vf cmd
  | 0x11 => s.restore vf cmd
  | 0x12 => s.terminateCmd vf cmd
  | _ => s.start vf cmd

/-- Whether a VF's next command waits: a save of it is not over, or an earlier command waits. -/
def State.commandsWait (s : State) (vf : Nat) : Bool := (s.saves.any fun j => j.vf = vf) || s.cmdq.any fun q => q.1 = vf

/-- A command of a VF's queue taken: executed, or behind those that wait. -/
def State.takeCommand (s : State) (vf : Nat) (cmd : BitVec 256) : State :=
  if !s.dev.ready then s
  else if s.commandsWait vf then { s with cmdq := s.cmdq ++ [(vf, cmd)] }
  else s.runCommand vf cmd

/-- Commands that waited go on, in their order. -/
def State.commandsRun (s : State) : State :=
  if s.cmdq = [] then s else s.cmdq.foldl (fun s q => s.takeCommand q.1 q.2) { s with cmdq := [] }

/-- PREEMPT (R265, R267, R268). -/
def execPreempt (vf : Nat) (cmd : BitVec 256) (s : State) : Host.Outcome State Fault Refusal :=
  .next (if ccOp cmd ≠ 0x10 then s else s.takeCommand vf cmd)

/-- RESTORE (R266). -/
def execRestore (vf : Nat) (cmd : BitVec 256) (s : State) : Host.Outcome State Fault Refusal :=
  .next (if ccOp cmd ≠ 0x11 then s else s.takeCommand vf cmd)

/-- TERMINATE (R262, R263). -/
def execTerminate (vf : Nat) (cmd : BitVec 256) (s : State) : Host.Outcome State Fault Refusal :=
  .next (if ccOp cmd ≠ 0x12 then s else s.takeCommand vf cmd)

/-- START (R264). It also takes the commands whose OP is illegal. -/
def execStart (vf : Nat) (cmd : BitVec 256) (s : State) : Host.Outcome State Fault Refusal :=
  let op := ccOp cmd
  .next (if op = 0x10 || op = 0x11 || op = 0x12 then s else s.takeCommand vf cmd)

/-! ### VF reset (R270) -/

/-- A record as a newly granted range, or a reset VF, has it (R41, R270). -/
def blankRecord (rid vf : Nat) : Req := { bits := BitVec.ofNat 2048 (packBits [(960, 32, vf), (48, 3, 5), (32, 16, rid)]) }

/-- Records of a VF's range. -/
def Vf.hasRecord (v : Vf) (rid : Nat) : Bool := v.recFirst ≤ rid && rid < v.recFirst + v.recCount

/-- Records made blank, from `rid` on. -/
def State.blankRecords (s : State) (vf rid : Nat) : Nat → State
  | 0 => s
  | n + 1 => (s.setReq rid (blankRecord rid vf)).blankRecords vf (rid + 1) n

/-- A VF's frames are free no more and mapped nowhere, and are still to be filled with zeros; its pool frames go back to its
list (R270). -/
def State.scrubVf (s : State) (vf : Nat) : State :=
  let mine := (s.frames.filter fun p => p.2.owner = some vf && p.2.count ≠ 0).map (·.1)
  let s1 := mine.foldl (fun s f => s.setFrame f { s.frame f with count := 0 }) s
  let pool := (s1.poolHeld.filter fun x => match s1.ctx? x.2.1 with
    | some c => c.vf = vf
    | none => false).map (·.1)
  let s2 := pool.foldl (fun s f => s.freePool vf f) s1
  let v := s2.vf vf
  { s2.setVf vf { v with hused := 0, pused := 0 } with
    scrub := s2.scrub ++ mine
    mapq := s2.mapq.filter fun m => m.vf ≠ vf
    pageReqs := s2.pageReqs.map fun r => if r.vf = vf then { r with frame := none, pool := none } else r }

/-- Frames of reset VFs filled with zeros, while the scrubbing budget admits it; each is then free in its VF's list (R65, R66,
R270). -/
def State.scrubRun (s : State) : List Nat → State
  | [] => { s with scrub := [] }
  | f :: rest =>
    if !s.devAdmits 1 then { s with scrub := f :: rest }
    else
      let x := s.frame f
      let vf := x.owner.getD 0
      let s1 := ((s.zeroFrame f).devCharge 1 65536).setFrame f { x with gen := nextGen x.gen }
      let v := s1.vf vf
      (s1.setVf vf { v with free := v.free ++ [(f, s.cycle)] }).scrubRun rest

/-- A message of the module's own ports for a context of a list, which a reset of its VF stops; a withdrawal from a collective is the
reset's own (R270). -/
def HostMsg.stops (cids : List Nat) : HostMsg → Bool
  | .sent _ r => cids.contains r.ctxid && (match r.kind with
    | .coll _ _ _ _ _ _ _ => false
    | _ => true)
  | _ => false

/-- The reset point: what waits at this home for contexts of a VF is answered "not home", and what their groups asked other modules
for is asked no more (R270). -/
def State.resetPoint (s : State) (cids : List Nat) : State :=
  let out := s.fabHeld.filter fun r => cids.contains r.ctxid && r.id ≠ 0
  out.foldl (fun s r => s.post r.node (.notHome r.node r.id)) { s with
    fabHeld := s.fabHeld.filter fun r => !cids.contains r.ctxid
    fabOut := s.fabOut.filter fun o => !cids.contains o.req.ctxid }

/-- The contexts of a VF terminated: no traffic of theirs leaves after the reset point (R270). -/
def State.resetCtxsOf (s : State) (cids : List Nat) : State :=
  let s1 := cids.foldl (fun s cid => s.terminateCtx cid { cause := 6 }) s
  { s1 with
    host := s.host ++ (s1.host.drop s.host.length).filter fun m => !HostMsg.stops cids m
    portWait := s1.portWait.filter fun x => !HostMsg.stops cids x.2
    egress := s1.egress.filter fun x => !HostMsg.stops cids (.sent x.2.1 x.2.2) }

/-- VF_RESET: VFCTL.RST is written (R270). -/
def execVfReset (vf : Nat) (s : State) : Host.Outcome State Fault Refusal :=
  .next (if !s.dev.ready then s
    else
      let cids := (s.ctxs.filter fun p => p.2.vf = vf).map (·.1)
      let s1 := (s.resetPoint cids).resetCtxsOf cids
      let v := s1.vf vf
      let s2 := (s1.blankRecords vf v.recFirst v.recCount).setVf vf { v with streams := List.replicate 8 {}, launches := [] }
      let s3 := s2.scrubVf vf
      { s3.scrubRun s3.scrub with
        resetCtxs := (s3.resetCtxs ++ cids).dedup
        modFab := s3.modFab.filter fun x => !cids.contains x.ctx
        invq := s3.invq.filter fun q => q.vf ≠ vf
        saves := s3.saves.filter fun j => j.vf ≠ vf
        cmdq := s3.cmdq.filter fun q => q.1 ≠ vf
        ctxs := s3.ctxs.filter fun p => p.2.vf ≠ vf
        signals := s3.signals.filter fun g => !cids.contains g.ctx
        audits := s3.audits.filter fun j => j.vf ≠ vf })

end Sys2Proof.Machine
end

