-- ==== Sys2Proof/Machine/EvRequest.lean ====
section
/-! DEFINITION. Submission, host writes to records, and the steps of Crozier: snapshot, eviction, admission, slot table,
launches, commit (R41 to R59, R211, R225, R229, R280, R281, R283). -/

namespace Sys2Proof.Machine

/-! ### Stream descriptors (R283) -/

def sdStb (d : BitVec 512) : Nat := bits d.toNat 287 224
def sdProg (d : BitVec 512) : Nat := bits d.toNat 223 160
def sdCtx (d : BitVec 512) : Nat := bits d.toNat 159 128
def sdCap (d : BitVec 512) : Nat := bits d.toNat 127 112
def sdKtpp (d : BitVec 512) : Nat := 2 ^ bits d.toNat 111 108
def sdNprog (d : BitVec 512) : Nat := bits d.toNat 107 104
def sdPrio (d : BitVec 512) : Nat := bits d.toNat 99 97
def sdEn (d : BitVec 512) : Bool := bit d.toNat 96

/-- Whether a stream has been configured (R48). -/
def sdConfigured (d : BitVec 512) : Bool := 1 ≤ sdNprog d && sdNprog d ≤ 8

/-! ### Submission (R48) -/

/-- SUBMISSION: a write to SUBDB. -/
def execSubmission (vf : Nat) (value : BitVec 64) (s : State) : Host.Outcome State Fault Refusal :=
  let rid := bits value.toNat 15 0
  let k := bits value.toNat 18 16
  .next (if !s.dev.ready then s
    else
      let v := s.vf vf
      let r := s.req rid
      let x := s.stream vf k
      if bits value.toNat 63 19 ≠ 0 || !v.hasRecord rid || recState r.n ≠ 5 || !sdConfigured x.desc then s.discard vf
      else
        let r1 := (r.put 48 3 0).put 51 3 0
        let new : Req := { bits := r1.bits, stream := some (vf, k, sdCtx x.desc), order := v.subs }
        (s.setReq rid new).setVf vf { v with subs := v.subs + 1 })

/-! ### The record window (R42, R46, R281) -/

/-- The owner class of a record's byte (R43): host, device, kernel, or device and read-only, as RID and VF are. -/
inductive Owner
  | host
  | device
  | kernel
  | fixed
  deriving DecidableEq, Repr

/-- Who owns byte i of a record (R43). -/
def ownerOf (i : Nat) : Owner :=
  if i < 4 then .host
  else if i < 6 then .fixed
  else if i = 6 then .device
  else if i = 7 then .host
  else if i < 12 then .device
  else if i < 16 then .kernel
  else if i < 24 then .device
  else if i < 34 then .host
  else if i < 36 then .device
  else if i < 60 then .host
  else if i < 64 then .device
  else if i < 88 then .host
  else if i < 96 then .device
  else if i < 120 then .host
  else if i < 124 then .fixed
  else if i < 126 then .host
  else if i < 132 then .device
  else .kernel

/-- Whether the host may write byte i of a record: all but RID and VF while it is retired, H bytes otherwise (R42). -/
def hostMay (retired : Bool) (i : Nat) : Bool :=
  match ownerOf i with
  | .host => true
  | .fixed => false
  | _ => retired

/-- Bytes written to a record from an offset on, as far as the host may. -/
def putBytes (retired : Bool) (b : Nat) (off : Nat) : List Byte → Nat
  | [] => b
  | x :: xs => putBytes retired (if off < 256 && hostMay retired off then setBits b (8 * off) 8 x.toNat else b) (off + 1) xs

/-- RECORD_WINDOW_WRITE: a write of VF `src`'s driver. One that reaches a device or kernel byte of a submitted record
is counted (R42). -/
def execRecordWindowWrite (src rid off : Nat) (bs : List Byte) (s : State) : Host.Outcome State Fault Refusal :=
  .next (if !s.dev.ready || !(s.vf src).hasRecord rid then s
    else
      let r := s.req rid
      let retired : Bool := recState r.n = 5
      let lost : Bool := !retired && (List.range bs.length).any fun i => off + i < 256 && ownerOf (off + i) ≠ .host
      let s1 := s.setReq rid { r with bits := BitVec.ofNat 2048 (putBytes retired r.n off bs) }
      if lost then s1.discard src else s1)

/-! ### Record checks (R44, R211, R225) -/

/-- Whether a byte range of a context lies on valid pages with PRIV = 1. -/
def State.privMapped (s : State) (c : Ctx) (va n : Nat) : Bool :=
  (List.range ((va + n - 1) / 65536 + 1 - va / 65536)).all fun i =>
    match (s.walk c ((va / 65536 + i) * 65536)).1 with
    | .leaf e _ => leafPriv e
    | _ => false

/-- Whether a level-2 or level-3 leaf covers part of a range of pages. -/
def State.bigLeaf (s : State) (c : Ctx) (va n : Nat) : Bool :=
  (List.range n).any fun i => match (s.walk c (va + 65536 * i)).1 with
    | .leaf _ level => level ≠ 4
    | _ => false

/-- The bit offset of the first bad field of a record: `h` holds its H fields, `b` the record (R43, R44). -/
def State.recordBad (s : State) (c : Ctx) (ktpp h b : Nat) : Option Nat :=
  let kvb := recKvb h
  let kv : Bool := kvb % 65536 ≠ 0 || 2 ^ 56 ≤ kvb || s.bigLeaf c kvb (recNpart h * recKvpg h)
  let popb := recPopb h
  firstBad [(59, bits h 63 59 ≠ 0),
    (192, popb % 256 ≠ 0 || 2 ^ 56 ≤ popb || !s.privMapped c popb (64 + 32 * recNpart h)),
    (256, recNpart h = 0 || 4096 < recNpart h), (288, recApp h = 0), (296, 2 ≤ recRpol h), (304, bits h 319 304 ≠ 0),
    (384, kv), (448, recKvpg h = 0), (640, recMaxlen h = 0 || recKvpg h * ktpp < recMaxlen h), (672, 7 < recPrio h),
    (680, bits h 687 680 ≠ 0), (896, recEvc h % 8 ≠ 0 || 2 ^ 56 ≤ recEvc h), (992, bits h 1007 992 ≠ 0),
    (1088, 95 < recDlen b), (1120, 4096 < recQtok b)]

/-- The walks that a record's check takes: of the pages of its block and of its KV ranges (R198, R211, R225). -/
def recordWalks (h : Nat) : Nat :=
  (recPopb h + 64 + 32 * recNpart h - 1) / 65536 + 1 - recPopb h / 65536 + recNpart h * recKvpg h

/-- A record that fails its check is retired (R44). -/
def State.rejectRecord (s : State) (rid off : Nat) : State :=
  let r := s.req rid
  let r1 := (((r.put 160 32 (4 + off * 256)).put 51 3 4).put 48 3 5).put 1008 16 0xFFFF
  let s1 := s.setReq rid r1
  let evc := recEvc r.h
  match r.ctx, evc % 8 = 0 && evc < 2 ^ 56 with
  | some cid, true => s1.addSignal { ctx := cid, addr := BitVec.ofNat 64 evc, src := rid, grid := false }
  | _, _ => s1.tell (.evcDropped rid)

/-! ### Snapshot (R47, R50) -/

/-- Requests of a stream, in submission order. -/
def State.streamReqs (s : State) (vf k : Nat) : List Nat :=
  (sortBy (fun p => p.2.order) (s.reqs.filter fun p => match p.2.stream with
    | some (v, j, _) => v = vf && j = k && recState p.2.n ≤ 4
    | none => false)).map (·.1)

/-- Whether a request holds slots. -/
def Req.holds (r : Req) : Bool := 1 ≤ recState r.n && recState r.n ≤ 3

/-- One record read at a snapshot: the shadow copy is renewed unless GEN is odd; HSUSP suspends the request, or lets it
return. -/
def State.snapshotReq (s : State) (rid : Nat) : State :=
  let r := s.req rid
  let r1 := if recGen r.n % 2 = 0 then { r with shadow := some r.bits } else r
  if r1.shadow.isNone then s
  else
    let st := recState r1.n
    let r2 := if recHsusp r1.h && st < 4 && !r1.held then (r1.put 48 3 4).put 1008 16 0xFFFF
      else if !recHsusp r1.h && st = 4 then r1.put 48 3 0
      else r1
    s.setReq rid r2

/-- Whether a request takes part in a step: it holds slots and does not wait for audits. -/
def Req.takesPart (r : Req) : Bool := r.holds && !r.held

/-! ### Eviction (R57) -/

/-- NTOK of a request's entries (R51), of QTOK and DLEN as they stand at the snapshot, when the table is made: the rule leaves
open whether it is their value then or at the write (DESIGN CHOICE, log 119). -/
def Req.ntok (r : Req) : Nat :=
  match recState r.n with
  | 2 => 1
  | 3 => recDlen r.n + 1
  | _ => max 1 (recQtok r.n)

/-- Ceiling of a quotient. -/
def ceilDiv (a b : Nat) : Nat := (a + b - 1) / b

/-- Pages a VF may still take (R208). -/
def Vf.pagesLeft (v : Vf) : Nat := v.hquota + v.hborrow - v.hused

/-- Slots that a VF's requests hold: those that admission gave them (R50). -/
def State.slotsHeld (s : State) (vf : Nat) : Nat :=
  (s.reqs.filter fun p => p.2.holds && (match p.2.stream with
    | some (v, _, _) => v = vf
    | none => false)).foldl (fun n p => n + p.2.slotN) 0

/-- Slots of a stream that requests hold: first and number. -/
def State.slotRuns (s : State) (vf k : Nat) : List (Nat × Nat) :=
  ((s.streamReqs vf k).filter fun rid => (s.req rid).holds).map fun rid => (recSlot (s.req rid).n, (s.req rid).slotN)

/-- The slot capacity of a stream: CAP, and no more than the VF's grant (R269, R283). -/
def State.capacity (s : State) (vf k : Nat) : Nat := min (sdCap (s.stream vf k).desc) (s.vf vf).slots

/-- The lowest run of n free slots below the capacity, trying from `i` on. -/
def findRun (runs : List (Nat × Nat)) (cap n : Nat) (i : Nat) : Nat → Option Nat
  | 0 => none
  | fuel + 1 =>
    if cap < i + n then none
    else match runs.find? fun r => r.1 < i + n && i < r.1 + r.2 with
      | none => some i
      | some r => findRun runs cap n (r.1 + r.2) fuel

/-- The lowest run of slots that fits a request. -/
def State.slotFor (s : State) (vf k rid : Nat) : Option Nat :=
  let runs := s.slotRuns vf k
  findRun runs (s.capacity vf k) (recNpart (s.req rid).h) 0 (runs.length + 1)

/-- Whether admission would take a pending request now; `pages` says whether its pages are counted (R49). Pages that requests
admitted earlier in the same step will take are not counted against it: the rule leaves that open (DESIGN CHOICE, log 118). -/
def State.admissible (s : State) (vf k rid : Nat) (pages : Bool) : Bool :=
  let n := recNpart (s.req rid).h
  (s.slotFor vf k rid).isSome && s.slotsHeld vf + n ≤ (s.vf vf).slots && (!pages || n ≤ (s.vf vf).pagesLeft)

/-- Pending requests in the order of admission (R49). -/
def State.pendingOrder (s : State) (vf k : Nat) : List Nat :=
  sortBy (fun rid => 7 - recPrio (s.req rid).h)
    ((s.streamReqs vf k).filter fun rid => recState (s.req rid).n = 0 && (s.req rid).shadow.isSome)

/-- The page demand of a step (R57). -/
def State.demand (s : State) (vf k ktpp : Nat) (out : List Nat) : Nat :=
  let active := (s.streamReqs vf k).filter fun rid => recState (s.req rid).n = 1 && (s.req rid).takesPart
  let each (rid : Nat) : Nat :=
    let r := s.req rid
    recNlive r.n * ceilDiv (recClen r.n + r.ntok) ktpp - recKvmap r.n
  let head := match (s.pendingOrder vf k).filter fun rid => !out.contains rid with
    | rid :: _ => if s.admissible vf k rid false then recNpart (s.req rid).h else 0
    | [] => 0
  (active.map each).foldl (· + ·) 0 + head

/-- Tokens per page of the stream of a request (R211, R283). -/
def State.ktppOf (s : State) (rid : Nat) : Nat := match (s.req rid).stream with
  | some (v, k, _) => sdKtpp (s.stream v k).desc
  | none => 1

/-- An evicted request (R57). It takes no further part in a step that another stream of the VF runs (log 89). -/
def State.evict (s : State) (rid : Nat) : State :=
  let r := s.req rid
  let r1 := ((r.put 96 32 (recClen r.n)).put 48 3 0).put 1008 16 0xFFFF
  let s1 := s.setReq rid { r1 with inStep := false }
  match r.ctx with
  | none => s1
  | some cid => s1.releaseKvFrom rid cid (ceilDiv (recClen r.n) (s.ktppOf rid))

/-- Requests of a VF, stream by stream, in submission order. -/
def State.vfReqs (s : State) (vf : Nat) : List Nat := ((List.range 8).map (s.streamReqs vf)).flatten

/-- The next request of a VF to evict: active, not held, not faulted; lowest EVR, then oldest ADMIT, then the first (R57; log
105). -/
def State.victim (s : State) (vf : Nat) : Option Nat :=
  let l := (s.vfReqs vf).filter fun rid =>
    let r := s.req rid
    recState r.n = 1 && !r.held && recFault r.n = 0
  (sortBy (fun rid => recEvr (s.req rid).h * 2 ^ 64 + recAdmit (s.req rid).n) l).head?

/-- Evictions until the shortfall is covered or no candidate remains: the evicted, whether a shortfall remains, and the state. -/
def State.evictAll (s : State) (vf k ktpp : Nat) (out : List Nat) : Nat → List Nat × Bool × State
  | 0 => (out, false, s)
  | fuel + 1 =>
    if s.demand vf k ktpp out ≤ (s.vf vf).pagesLeft then (out, false, s)
    else match s.victim vf with
      | none => (out, true, s)
      | some rid => (s.evict rid).evictAll vf k ktpp (out ++ [rid]) fuel

/-- Requests whose slots lie at or above the capacity are evicted (R269). -/
def State.evictBeyond (s : State) (vf k : Nat) : List Nat × State :=
  let l := (s.streamReqs vf k).filter fun rid =>
    let r := s.req rid
    r.holds && !r.held && s.capacity vf k < recSlot r.n + r.slotN
  (l, l.foldl (fun s rid => s.evict rid) s)

/-! ### Admission (R49, R50) -/

/-- The population block as it is written at admission (R225), charged to the request's VF (R65). -/
def State.initPopulation (s : State) (rid : Nat) : State :=
  let r := s.req rid
  match s.popHeader r with
  | none => s.popFault rid
  | some hp =>
    (List.range (recNpart r.h)).foldl (fun s i => match s.popEntry (s.req rid) i with
      | none => s.popFault rid
      | some ep => (s.charge r.vf 3 1).blockWrite r.vf ep 32 (i * 2 ^ 192))
      ((s.charge r.vf 3 1).blockWrite r.vf hp 64 ((2 ^ 64 - 1) * 2 ^ 64))

/-- A request admitted into its slots. -/
def State.enter (s : State) (c : Ctx) (rid slot : Nat) : State :=
  let r := s.req rid
  let r1 := (((((r.put 48 3 1).put 704 64 (s.cycle % 2 ^ 64)).put 272 16 (recNpart r.h)).put 96 32 (recClen r.n)).put 1008 16 slot)
  let s1 := s.setReq rid { r1 with slotN := recNpart r.h, timer := none, late := false, running := false }
  let s2 := if r.admitted then s1 else s1.kvMap rid c
  (s2.setReq rid { s2.req rid with admitted := true }).initPopulation rid

/-- Admission of pending requests in order; the first that cannot be admitted stops it. Whether any was taken. A request that
fails its check counts as taken, so the step begins, and STEPNO advances, though no slot is occupied: R48 leaves that open
(DESIGN CHOICE, log 117). -/
def State.admitAll (s : State) (vf k : Nat) (c : Ctx) (took : Bool) : List Nat → Bool × State
  | [] => (took, s)
  | rid :: rest =>
    let r := s.req rid
    let ktpp := sdKtpp (s.stream vf k).desc
    let bad := if r.admitted then none else s.recordBad c ktpp r.h r.n
    let s := if r.admitted then s else s.charge c.vf 3 (recordWalks r.h)
    -- an illegal NPART fits nowhere: the check comes first (log 44)
    match bad, s.slotFor vf k rid, decide (recNpart r.h = 0 || 4096 < recNpart r.h) with
    | some off, _, true => (s.rejectRecord rid off).admitAll vf k c true rest
    | _, none, _ => (took, s)
    | b, some slot, _ =>
      if !s.admissible vf k rid true then (took, s)
      else match b with
        | some off => (s.rejectRecord rid off).admitAll vf k c true rest
        | none => (s.enter c rid slot).admitAll vf k c true rest

/-! ### The slot table (R51) -/

/-- One entry of a slot table. -/
def slotEntryBits (toff : Nat) (r : Req) (rid part : Nat) : Nat :=
  packBits [(96, 32, toff), (64, 32, recClen r.n), (62, 2, recState r.n - 1), (48, 14, part), (32, 16, recSlot r.n),
    (16, 16, r.ntok), (0, 16, rid)]

/-- The request and particle of a slot. -/
def State.slotOwner (s : State) (rids : List Nat) (slot : Nat) : Option (Nat × Nat) :=
  (rids.find? fun rid => recSlot (s.req rid).n ≤ slot && slot < recSlot (s.req rid).n + (s.req rid).slotN).map
    fun rid => (rid, slot - recSlot (s.req rid).n)

/-- The entries of slots `i` to COUNT - 1: occupied ones, and all as written; `toff` counts tokens. -/
def State.slotEntries (s : State) (rids : List Nat) (toff i : Nat) : Nat → Map (BitVec 128) × List Nat × Nat
  | 0 => ([], [], toff)
  | n + 1 =>
    match s.slotOwner rids i with
    | none =>
      let (m, l, t) := s.slotEntries rids toff (i + 1) n
      (m, toff * 2 ^ 96 :: l, t)
    | some (rid, part) =>
      let e := slotEntryBits toff (s.req rid) rid part
      let (m, l, t) := s.slotEntries rids (toff + (s.req rid).ntok) (i + 1) n
      ((i, BitVec.ofNat 128 e) :: m, e :: l, t)

/-- COUNT: one more than the highest occupied slot. -/
def State.slotCount (s : State) (rids : List Nat) : Nat :=
  rids.foldl (fun n rid => max n (recSlot (s.req rid).n + (s.req rid).slotN)) 0

/-- The table of the step that a stream runs, as its snapshot and admission leave the requests: its bytes, and the occupied
entries. It is kept until it is written, so a move or a write to a record that comes between is not in it (R58, R59). -/
def State.slotTable (s : State) (vf k : Nat) : Map (BitVec 128) × List Byte :=
  let rids := s.stepReqs vf k
  let count := s.slotCount rids
  let (m, l, tokens) := s.slotEntries rids 0 0 count
  (m, leBytes 64 ((s.stream vf k).stepNo % 2 ^ 64 + count * 2 ^ 64 + tokens % 2 ^ 32 * 2 ^ 96) ++ (l.map (leBytes 16)).flatten)

/-- A page of a store by Crozier: here, or moved to another module. -/
inductive TablePage
  | here (pa : Nat)
  | away (node : Nat)
  deriving DecidableEq, Repr

/-- What the pages of a store by Crozier come to: where they are, a page it waits for, a wait for the budget of walks, or a page
that may not be written. -/
inductive TableAt
  | ok (pages : List TablePage)
  | park (w : PageWant)
  | wait
  | bad
  deriving DecidableEq, Repr

/-- The pages of `n` bytes from an address, translated for a store of the context by walks that the budget admitted (R53, R65). -/
def State.tablePages (s : State) (cid : Nat) (c : Ctx) (page : Nat) : Nat → List TablePage → TableAt × State
  | 0, out => (.ok out, s)
  | n + 1, out => match s.walkAt cid c (page * 65536) 1 with
    | (.ok pa _, s1) => s1.tablePages cid c (page + 1) n (out ++ [.here pa])
    | (.remote node, s1) => s1.tablePages cid c (page + 1) n (out ++ [.away node])
    | (.park w host mal, s1) => (.park w, s1.fault w host mal)
    | (.deferred, s1) => (.wait, s1)
    | (.access, s1) => (.bad, s1)

/-- The bytes over pages that have moved, carried to their new homes, the first from an address on: the addresses sent to,
whether all are answered, and whether one failed (R205). -/
def State.tableAway (s : State) (cid va : Nat) (bs : List Byte) : List TablePage → List Nat × Bool × Bool × State
  | [] => ([], true, false, s)
  | p :: ps =>
    let n := 65536 - va % 65536
    match p with
    | .here _ => s.tableAway cid (va + n) (bs.drop n) ps
    | .away node =>
      let (done, bad, s1) := match s.modAway cid node va 0 (.write (bs.take n)) with
        | .answer _ => (true, false, s)
        | .wait s1 => (false, false, s1)
        | .failed => (true, true, s)
      let (l, d, b, s2) := s1.tableAway cid (va + n) (bs.drop n) ps
      (va :: l, done && d, bad || b, s2)

/-- Bytes written over the pages of this module, the first from an offset on, charged to a VF (R53, R65). -/
def State.writePages (s : State) (vf off : Nat) (bs : List Byte) : List TablePage → State
  | [] => s
  | p :: ps =>
    let s1 := match p with
      | .here pa => (s.charge vf 0 (unitBytes (pa + off) (bs.take (65536 - off)).length)).modWrite (pa + off) (bs.take (65536 - off))
      | .away _ => s
    s1.writePages vf 0 (bs.drop (65536 - off)) ps

/-- The slot table of the step's snapshot written, once the budgets of walks and of HBM admit it, and the stream ready to launch, or
to commit where no slot is occupied (R51 to R53, R66). -/
def State.writeTable (s : State) (vf k : Nat) (cid : Nat) (c : Ctx) : State :=
  let x := s.stream vf k
  let bs := x.table
  let base := sdStb x.desc + x.stepNo % 2 * 131136
  let fail (s : State) : State := s.modStream vf k fun x => { x with phase := .failed 0 6, parked := none, unreadable := false }
  if x.unreadable || 2 ^ 56 < base + bs.length then fail s
  else if x.parked.isSome || !s.blockReady c.vf then s
  else match s.tablePages cid c (base / 65536) ((base + bs.length - 1) / 65536 + 1 - base / 65536) [] with
    | (.bad, s1) => fail s1
    | (.wait, s1) => s1
    | (.park w, s1) => s1.modStream vf k fun x => { x with parked := some w }
    | (.ok pages, s1) =>
      let (vas, done, bad, s2) := s1.tableAway cid base bs pages
      if !done then s2
      else if bad then fail (s2.modForget cid vas)
      else ((s2.modForget cid vas).writePages c.vf (base % 65536) bs pages).modStream vf k fun x => { x with
        phase := if x.entries = [] then .committing else .launching 0, parked := none }

/-! ### STEP_START (R48) -/

/-- The context of a stream, where it runs. -/
def State.streamCtx (s : State) (vf k : Nat) : Option (Nat × Ctx) :=
  let cid := sdCtx (s.stream vf k).desc
  ((s.ctx? cid).filter fun c => c.cst = 1 && c.vf = vf).map fun c => (cid, c)

/-- A request's part in the step begins: its step copies are kept (R47). -/
def State.joinStep (s : State) (rid : Nat) : State :=
  let r := s.req rid
  s.setReq rid { r with inStep := true, verdict := false
                        copies := (recClen r.n, recTlen r.n, bits r.n 1055 1024, recNtokv r.n) }

/-- Whether the stream holds a request that would take part in a step: one that takes part already, or a pending one that admission
would take at this moment, without an eviction (R48). `s0` is before the snapshot, `s` after it. -/
def State.stepWanted (s0 s : State) (vf k : Nat) (c : Ctx) : Bool :=
  (s0.streamReqs vf k).any (fun rid => (s0.req rid).takesPart) || (s.admitAll vf k c false (s.pendingOrder vf k)).1

/-- STEP_START: the snapshot, eviction, admission and the slot table, where some request would take part and the budgets admit it
(R48, R66); or the slot table again, where it waited for a page. While a shortfall of pages remains the head pending request stays
pending, and stops admission (R49, R57). -/
def execStepStart (vf k : Nat) (s : State) : Host.Outcome State Fault Refusal :=
  let x := s.stream vf k
  .next (match s.streamCtx vf k with
    | none => s
    | some (cid, c) =>
      match x.phase with
      | .writing => s.writeTable vf k cid c
      | .idle =>
        if !sdEn x.desc || x.aborted || !s.dev.ready || !s.blockReady vf then s
        else
          let ktpp := sdKtpp x.desc
          let s0 := s.heldAgain
          let s1 := (s0.streamReqs vf k).foldl (fun s rid => s.snapshotReq rid) s0
          if !s0.stepWanted s1 vf k c then s0
          else
            let (out, s2) := s1.evictBeyond vf k
            let (out, short, s3) := s2.evictAll vf k ktpp out (s2.reqs.length + 1)
            let order := if short then [] else (s3.pendingOrder vf k).filter fun rid => !out.contains rid
            let (_, s4) := s3.admitAll vf k c false order
            let rids := (s4.streamReqs vf k).filter fun rid => (s4.req rid).takesPart && (s4.req rid).shadow.isSome
            let s5 := rids.foldl (fun s rid => s.joinStep rid) s4
            let (m, bs) := s5.slotTable vf k
            (s5.modStream vf k fun x => { x with phase := .writing, entries := m, table := bs }).writeTable vf k cid c
      | _ => s)

/-! ### STEP_GRID_LAUNCH (R52, R53) -/

/-- A launch of the step program fails (R53). -/
def State.failStep (s : State) (vf k idx reason : Nat) : State :=
  s.modStream vf k fun x => { x with phase := .failed idx reason, parked := none, unreadable := false }

/-- The launch record `next` of a stream's program launched. -/
def State.launchStep (s : State) (vf k cid : Nat) (c : Ctx) (next : Nat) : State :=
  let x := s.stream vf k
  let lrec := sdProg x.desc + 128 * next
  if x.unreadable then s.failStep vf k next 5
  else if x.parked.isSome then s
  else match s.readLaunch cid c lrec with
    | (.badRecord, s1) => s1.failStep vf k next 1
    | (.unreadable, s1) => s1.failStep vf k next 5
    | (.wait, s1) => s1
    | (.park w, s1) => s1.modStream vf k fun x => { x with parked := some w }
    | (.both r h, s) =>
      if !kernelOk c (lrArgs r) h then s.failStep vf k next 2
      else
        let slots := x.entries.map (·.1)
        let m := lrTeams r
        if 2 ^ 24 < slots.length * m then s.failStep vf k next 3
        else
          let f : LaunchFrom := {
            ctx := cid, lrec := BitVec.ofNat 64 lrec, depth := 1, nest := none, parent := none, step := some (vf, k, m)
            prio := some (sdPrio x.desc), teams := some (slots.length * m), slots, table := x.entries, stepNo := x.stepNo
            keys := (s.stepReqs vf k).map fun rid => (rid, recKey (s.req rid).h)
            commit := next + 1 = sdNprog x.desc }
          match s.launch c f r h with
          | (0, n, s1) => s1.modStream vf k fun x => { x with phase := .running (next + 1) n, parked := none }
          | (3, _, _) => s
          | (status, _, s1) => s1.failStep vf k next status

/-- STEP_GRID_LAUNCH: the next grid of the step program, after the previous one retired. -/
def execStepGridLaunch (vf k : Nat) (s : State) : Host.Outcome State Fault Refusal :=
  let x := s.stream vf k
  .next (match s.streamCtx vf k with
    | none => s
    | some (cid, c) => match x.phase with
      | .launching next => s.launchStep vf k cid c next
      | .running next grid =>
        if (s.grid? grid).isSome || sdNprog x.desc ≤ next then s else s.launchStep vf k cid c next
      | _ => s)

/-! ### CROZIER_COMMIT (R53, R55) -/

/-- CROZIER_COMMIT: Crozier performs the commit itself: the commit grid retired without STEPCMT, no slot is occupied, or
a launch failed; once the budgets admit what it does to the population blocks (R66, R229). -/
def execCrozierCommit (vf k : Nat) (s : State) : Host.Outcome State Fault Refusal :=
  let x := s.stream vf k
  let rids := s.stepReqs vf k
  .next (if rids.any s.resampling || (rids ≠ [] && !s.blockReady vf) then s
    else match x.phase with
      | .committing => (s.commitStep vf k).2
      | .running next grid =>
        if (s.grid? grid).isSome || next < sdNprog x.desc || ((s.ctx? (sdCtx x.desc)).map (·.cst)) ≠ some 1 then s
        else (s.commitStep vf k).2
      | .failed idx reason =>
        let s1 := rids.foldl (fun s rid => s.setFault rid 0x08 (idx + reason * 256)) s
        ((s1.commitStep vf k).2.modStream vf k fun x => { x with desc := BitVec.ofNat 512 (setBits x.desc.toNat 96 1 0) }).tell
          (.stepFailed vf k idx reason)
      | _ => s)

end Sys2Proof.Machine
end

