-- ==== Sys2Proof/Machine/EvSporangium.lean ====
section
/-! DEFINITION. The Sporangium: the end of a resample, and the deadline of a round (R197, R213, R225, R230 to R236). -/

namespace Sys2Proof.Machine

/-! ### Offspring (R230 to R232) -/

/-- Whether a log-weight as read is minus infinity. -/
def isMinusInf (l : Int) : Bool := l = -(2 ^ 63)

/-- The weights w_i of log-weights. -/
def sampleWeights (ls : List Int) : List Nat :=
  let lmax := ls.foldl max (-(2 ^ 63))
  ls.map fun l => if isMinusInf l then 0 else expWeight (l - lmax)

/-- F(c) for N particles, draw word U and sum S, clipped to 0 to N. -/
def sampleF (n u s c : Nat) : Nat :=
  let num : Int := (n * c * 2 ^ 32 : Nat) - (u * s : Nat)
  let q := if num ≤ 0 then 0 else (num.toNat + s * 2 ^ 32 - 1) / (s * 2 ^ 32)
  min n q

/-- Running sums C_0 on. -/
def runningSums (acc : Nat) : List Nat → List Nat
  | [] => []
  | w :: ws => (acc + w) :: runningSums (acc + w) ws

/-- The offspring counts; one each where every weight is 0 (R231). -/
def offspring (u : Nat) (ls : List Int) : List Nat :=
  let ws := sampleWeights ls
  let n := ls.length
  let sum := ws.foldl (· + ·) 0
  if sum = 0 then ls.map fun _ => 1
  else
    let f := (runningSums 0 ws).map (sampleF n u sum)
    List.zipWith (· - ·) f (0 :: f)

/-- The parents of the clones, for ascending particles. -/
def cloneParents (os : List Nat) (i : Nat) : List Nat :=
  match os with
  | [] => []
  | o :: rest => List.replicate (o - 1) i ++ cloneParents rest (i + 1)

/-- The parent of each slot: its own for a kept particle, the next clone's for a slot without offspring (R232). -/
def parentsOf (os clones : List Nat) (i : Nat) : List Nat :=
  match os with
  | [] => []
  | 0 :: rest => clones.headD i :: parentsOf rest (clones.drop 1) (i + 1)
  | _ :: rest => i :: parentsOf rest clones (i + 1)

/-! ### Pages (R233) -/

/-- The bits of the entry that a walk ended at: a leaf, or what stands where none is valid. -/
def State.entryAt (s : State) (c : Ctx) (va : Nat) : Walk × Nat × BitVec 64 :=
  let (w, pa) := s.walk c va
  (w, pa, BitVec.ofNat 64 (s.num .module none pa 8))

/-- Whether a walk ends at a leaf above level 4. -/
def Walk.big : Walk → Bool
  | .leaf _ level => level ≠ 4
  | _ => false

/-- A shared page's entry: W = 0, COW = 1, RCT the generation. -/
def sharedEntry (e gen : Nat) : Nat := setBits (setBits (setBits e 2 1 0) 14 1 1) 52 12 gen

/-- A clone's page p takes its parent's frame, or its entry where the parent maps none; the old entry is added to those
to be released. Both walks are charged (R198). -/
def State.sharePage (s : State) (rid cid : Nat) (c : Ctx) (h i j p : Nat) (old : List (BitVec 64)) : List (BitVec 64) × State :=
  let s := s.charge c.vf 3 2
  let (wi, _, ei) := s.entryAt c (kvVa h i p)
  let (wj, pj, ej) := s.entryAt c (kvVa h j p)
  if wi.big || wj.big then (old, s.tell (.kvLeaf rid (BitVec.ofNat 64 (if wi.big then kvVa h i p else kvVa h j p))))
  else
    let page := kvVa h j p / 65536
    let s0 := s.tlbDrop (asidOf cid) page (page + 1)
    let s1 := match wi with
      | .leaf e _ =>
        let f := leafFrame e
        let x := s0.frame f
        (s0.setFrame f { x with count := s0.countOf e + 1 }).modWriteNum pj 8 (sharedEntry e.toNat x.gen)
      | _ => s0.modWriteNum pj 8 ei.toNat
    -- the parent's own entry is shared from now on, so its count is the frame's
    let s2 := match wi with
      | .leaf e _ =>
        let q := kvVa h i p / 65536
        (s1.tlbDrop (asidOf cid) q (q + 1)).modWriteNum (s1.walk c (kvVa h i p)).2 8 (sharedEntry e.toNat (s1.frame (leafFrame e)).gen)
      | _ => s1
    let mi : Int := match wi with
      | .leaf _ _ => 1
      | _ => 0
    match wj with
    | .leaf _ _ => (old ++ [ej], s2.kvCount rid (mi - 1))
    | _ => (old, s2.kvCount rid mi)

/-- The first n pages of a clone's range. -/
def State.sharePages (s : State) (rid cid : Nat) (c : Ctx) (h i j p : Nat) (old : List (BitVec 64)) : Nat → List (BitVec 64) × State
  | 0 => (old, s)
  | n + 1 =>
    let (old1, s1) := s.sharePage rid cid c h i j p old
    s1.sharePages rid cid c h i j (p + 1) old1 n

/-- The remap: every increment first, then the release of the old frames of each refilled slot. -/
def State.remap (s : State) (rid cid : Nat) (c : Ctx) (h pages : Nat) (parents : List Nat) : State :=
  let clones := parents.zipIdx.filter fun p => p.1 ≠ p.2
  let (old, s1) := clones.foldl (fun (acc : List (BitVec 64) × State) p =>
    acc.2.sharePages rid cid c h p.1 p.2 0 acc.1 pages) ([], s)
  let s2 := old.foldl (fun s e => s.releaseEntry c.vf e) s1
  clones.foldl (fun s p => (List.range (recKvpg h - pages)).foldl (fun s i => s.releaseKv rid cid (kvVa h p.2 (pages + i))) s) s2

/-! ### SPORANGIUM_COMPLETE (R230 to R234) -/

/-- Particles' entries with their addresses, each read charged (R65, R198); none where one is not valid. -/
def State.popEntries (s : State) (rid : Nat) (i : Nat) : Nat → Option (List (Nat × Nat)) × State
  | 0 => (some [], s)
  | n + 1 => match s.popEntry (s.req rid) i with
    | none => (none, s.charge (s.req rid).vf 3 1)
    | some pa =>
      let (x, s1) := s.blockNum (s.req rid).vf pa 32
      let (l, s2) := s1.popEntries rid (i + 1) n
      (l.map fun l => (pa, x) :: l, s2)

/-- A resample that meets an entry which is not valid: the request is faulted, and nothing else changes (R225). -/
def State.resampleFails (s : State) (rid : Nat) : State :=
  let s1 := s.popFault rid
  let r := s1.req rid
  let s2 := s1.setReq rid { r with running := false, late := false, timer := none }
  match s2.popHeader r with
  | none => s2
  | some hp =>
    let (h, s3) := s2.blockNum r.vf hp 64
    s3.blockWrite r.vf hp 64 (setBits h 0 2 0)

/-- SPORANGIUM_COMPLETE: the running resample of a request ends, where the budgets admit its accesses (R66). -/
def execSporangiumComplete (rid : Nat) (s : State) : Host.Outcome State Fault Refusal :=
  let r := s.req rid
  .next (if !r.running || !s.blockReady r.vf then s
    else match r.ctx with
      | none => s
      | some cid => match s.ctx? cid, s.popHeader r with
        | none, _ => s
        | some _, none => ((s.charge r.vf 3 1).resampleFails rid).wakeAll fun w => w = .resample
        | some c, some hp => match s.popEntries rid 0 (recNpart r.h) with
        | (none, s0) => (s0.resampleFails rid).wakeAll fun w => w = .resample
        | (some es, s0) =>
          let h := r.h
          let ktpp := match r.stream with
            | some (vf, k, _) => sdKtpp (s.stream vf k).desc
            | none => 1
          let ls := es.map fun p => if r.late && entArr p.2 < recApp h then -(2 ^ 63) else weightRead (entSum p.2) (entNinf p.2)
          let os := offspring (recDraw h) ls
          let parents := parentsOf os (cloneParents os 0) 0
          let s1 := s0.remap rid cid c h (min (recKvpg h) (ceilDiv r.startLen ktpp)) parents
          let s2 := (List.zip es parents).foldl (fun s p =>
            s.blockWrite r.vf p.1.1 32 (setBits (setBits p.1.2 0 137 0) 192 16 p.2)) s1
          let (hd, s3) := s2.blockNum r.vf hp 64
          let hd1 := setBits (setBits (setBits (setBits hd 128 32 (hdrRounds hd + 1)) 32 32 0) 3 1 (ls.all isMinusInf).toNat) 2 1 r.late.toNat
          let s4 := s3.blockWrite r.vf hp 64 (setBits hd1 0 2 0)
          let s5 := s4.setReq rid { s4.req rid with running := false, late := false, timer := none }
          (s5.addSignal { ctx := cid, addr := BitVec.ofNat 64 (recEvc h), src := rid, grid := false }).wakeAll fun w => w = .resample)

/-! ### DEADLINE_EXPIRY (R236) -/

/-- The timer of a request's round, stopped. -/
def State.stopTimer (s : State) (rid : Nat) : State := s.setReq rid { s.req rid with timer := none }

/-- DEADLINE_EXPIRY: a round that still collects when its timer ends starts with its stragglers taken as minus infinity. -/
def execDeadlineExpiry (rid : Nat) (s : State) : Host.Outcome State Fault Refusal :=
  let r := s.req rid
  .next (match r.timer with
    | none => s
    | some t =>
      if s.cycle < t + recDeadl r.h || !s.blockReady r.vf then s
      else match r.stream, s.popHeader r with
        | some (vf, k, _), some hp =>
          let (h, s1) := s.blockNum r.vf hp 64
          if hdrRst h ≠ 1 then s1.stopTimer rid
          else
            let s2 := s1.blockWrite r.vf hp 64 (setBits (setBits (setBits h 64 64 (s.stream vf k).stepNo) 2 1 1) 0 2 2)
            s2.setReq rid { s2.req rid with timer := none, late := true, running := true, startLen := recTlen r.n }
        | _, _ => s.stopTimer rid)

end Sys2Proof.Machine
end

