-- ==== Sys2Proof/Machine/EvAudit.lean ====
section
/-! DEFINITION. Audits, suspicion scores, the replay queue, spare lanes, uncorrectable errors, and the barrier watchdog
(R244, R247 to R249, R252 to R255, R273). -/

namespace Sys2Proof.Machine

/-! ### Re-execution (R244, R247) -/

/-- Whether an audit needs an execution now: none runs, and it has no signature, or two that differ. -/
def AuditJob.wants (j : AuditJob) : Bool :=
  j.runner.isNone && (match j.sigR, j.sigT with
    | none, _ => true
    | some r, none => r ≠ j.sigO
    | some _, some _ => false)

/-- Whether a core's cluster differs from those of the executions made so far. -/
def AuditJob.allows (j : AuditJob) (core : Nat) : Bool :=
  clusterOf core ≠ clusterOf j.core && (j.sigR.isNone || clusterOf core ≠ clusterOf j.reCore)

/-- Bytes of a log. -/
def logBytes (l : List LogEntry) : Nat := l.foldl (fun n e => n + 8 * e.vals.length) 0

/-- AUDIT_REEXECUTION: audit i starts an execution on a core. `corrupt` is what a fault of that core changes the
signature by: 0 where it computes as the manual says. -/
def execAuditReexecution (i core : Nat) (corrupt : BitVec 64) (s : State) : Host.Outcome State Fault Refusal :=
  .next (match s.audits[i]? with
    | none => s
    | some j =>
      let k := j.grid.k
      let live : Bool := ((s.ctx? j.ctx).map (·.cst)) = some 1
      if !live || !j.wants || !j.allows core || 256 ≤ core || (s.core core).quarantined || !s.devAdmits 0
          || !(s.core core).fits [(j.gno, k.fullSlots)] 0 then s
      else
        let gn := s.nextId
        let gr : Grid := { j.grid with deps := [], cctr := none, parent := none, after := none, queued := true, teams := 1, placed := 1, done := 0 }
        let b := (s.core core).basePart
        let part := (b + j.gno) % 4
        let t : Team := { grid := gn, no := j.team, core, base := b, groups := [gn + 2], granted := true }
        let g := startGroup gr j.regs (gn + 1) j.gno part s.cycle
        let s1 := (({ s with nextId := gn + 3 }.setGrid gn gr).setTeam (gn + 1) t).setGroup (gn + 2)
          { g with audit := .replay j.gid j.log [], sig := g.sig ^^^ corrupt }
        let j1 := { j with runner := some (gn + 2), reCore := if j.sigR.isNone then core else j.reCore
                           thCore := if j.sigR.isNone then j.thCore else core }
        let s2 := (s1.admitGroup core part (gn + 2) k.fullSlots).devCharge 0 (logBytes j.log)
        { s2 with audits := s2.audits.set i j1 })

/-! ### Verdicts (R247, R249) -/

/-- The verdict of three signatures. -/
def verdictOf (o r t : BitVec 64) : Nat := if r = t then 1 else if o = t then 2 else 3

/-- The audit event of a mismatch. -/
def auditEvent (j : AuditJob) (sigR sigT : BitVec 64) (verdict : Nat) : BitVec 512 :=
  BitVec.ofNat 512 (packBits [(448, 64, j.sigO.toNat), (384, 64, sigR.toNat), (320, 64, sigT.toNat), (288, 32, j.grid.id.toNat),
    (264, 24, j.team), (260, 4, j.gno), (240, 16, j.rid), (232, 8, j.core), (224, 8, j.reCore), (216, 8, j.thCore),
    (208, 8, verdict), (192, 16, j.ctx % 65536), (128, 64, j.stepNo % 2 ^ 64)])

/-- Whether a request still waits for the commit of a step, or is held for its audits. -/
def Req.awaits (r : Req) (stepNow stepNo : Nat) : Bool := (r.inStep && stepNow = stepNo) || (r.held && r.heldBy = stepNo)

/-- Points by verdict. -/
def State.verdictPoints (s : State) (j : AuditJob) (verdict : Nat) : State :=
  match verdict with
  | 1 => s.addPoints j.core 16
  | 2 => s.addPoints j.reCore 16
  | _ => ((s.addPoints j.core 8).addPoints j.reCore 8).addPoints j.thCore 8

/-- The fault of a wrong output, on a request that has not committed it. -/
def State.verdictFault (s : State) (j : AuditJob) (verdict : Nat) : State :=
  match j.grid.step with
  | none => s
  | some (vf, k, _) =>
    if verdict ≠ 2 && (s.req j.rid).awaits (s.stream vf k).stepNo j.stepNo then s.setFault j.rid 0x07 j.core else s

/-- AUDIT_VERDICT: audit i is complete: equal signatures, or the third one decides. Requests that were held for it are
tested again (R55). -/
def execAuditVerdict (i : Nat) (s : State) : Host.Outcome State Fault Refusal :=
  .next (match s.audits[i]? with
    | none => s
    | some j =>
      let s1 := { s with audits := s.audits.eraseIdx i }
      match j.sigR, j.sigT with
      | none, _ => s
      | some r, none => if r = j.sigO then s1.heldAgain else s
      | some r, some t =>
        let v := verdictOf j.sigO r t
        (((s1.verdictPoints j v).verdictFault j v).tell (.audit (auditEvent j r t v))).heldAgain)

/-! ### Scores, the replay queue, diagnosis (R248, R252) -/

/-- Whether a physical lane of a partition may have produced a result: the spare once it is switched in, and the lane that
it replaces while some group has not gone over (R9, R254). -/
def State.laneUsed (s : State) (core part lane_ : Nat) : Bool :=
  let p := s.part core part
  if lane_ = 32 then p.spare.isSome
  else lane_ < 32 && (p.spare ≠ some lane_ || (p.active ++ p.pending).any fun n => match s.group? n with
    | some g => !g.drained
    | none => false)

/-- REPLAY_CHECK: an entry of a partition's replay queue is repeated on another lane than the one that produced it, and
compared. -/
def execReplayCheck (core part : Nat) (mismatch : Bool) (lane_ : Nat) (s : State) : Host.Outcome State Fault Refusal :=
  .next (if (s.part core part).replay = [] || !mismatch || !s.laneUsed core part lane_ then s
    else (s.modPart core part fun p => { p with errs := Map.set p.errs lane_ ((Map.get? p.errs lane_).getD 0 + 1) }).addPoints core 4)

/-- Cycles of a decay step. -/
def decayPeriod : Nat := 2 ^ 20

/-- SCORE_DECAY. -/
def execScoreDecay (core : Nat) (s : State) : Host.Outcome State Fault Refusal :=
  let c := s.core core
  .next (if c.score = 0 || s.cycle < c.decayed + decayPeriod then s
    else s.setCore core { c with score := c.score - 1, decayed := c.decayed + decayPeriod })

/-- A partition switches in its spare for a lane; its groups switch at their drain points (R254). -/
def State.switchSpare (s : State) (core part lane_ : Nat) : State :=
  let p := s.part core part
  let s1 := s.modPart core part fun p => { p with spare := some lane_ }
  (p.active ++ p.pending).foldl (fun s gid => s.modGroup gid fun g => { g with drained := false }) s1

/-- LANE_DIAGNOSIS_END: the failing lanes of each partition are known, and the diagnosis budget is charged what the
diagnosis took of it (R65, R248; log 96). -/
def execLaneDiagnosisEnd (core : Nat) (failing : List (List Nat)) (s : State) : Host.Outcome State Fault Refusal :=
  let c := s.core core
  let bad := (List.range 4).map fun i => ((failing.getD i []).filter (· < 33)).dedup
  let spareFree (i : Nat) : Bool := (c.parts.getD i {}).spare.isNone
  let can := (List.range 4).filter fun i => bad.getD i [] ≠ [] && spareFree i
  let done (s : State) : State :=
    let (n, s1) := (s.setCore core { s.core core with diag := false }).takeFree
    s1.devCharge 3 (Config.diagnosisCost n)
  .next (if !c.diag || !s.devAdmits 3 then s
    else if bad.all (· = []) then done s
    else
      let s1 := can.foldl (fun s i => s.switchSpare core i ((bad.getD i []).headD 0)) s
      let healed : Bool := (List.range 4).all fun i => bad.getD i [] = [] || ((bad.getD i []).length = 1 && spareFree i)
      done (s1.setScore core (if healed then 16 else 64)))

/-- CORE_RETURN_TO_SERVICE: a host command. -/
def execCoreReturnToService (core : Nat) (s : State) : Host.Outcome State Fault Refusal :=
  .next (s.setCore core { s.core core with quarantined := false })

/-! ### Uncorrectable errors and spare lanes (R253, R254) -/

/-- A group consumes an uncorrectable error: it halts outside a step grid, and ends with its request faulted inside one. -/
def State.uncorrectable (s : State) (gid : Nat) : State :=
  match s.actor gid with
  | none => s
  | some a =>
    if a.g.replays then s.stopGroup gid .ended
    else if a.gr.step.isSome then (s.endGroup gid .ended (some (2, a.t.core))).sweep
    else ((s.endGroup gid .halted none).tell (.halted a.gr.ctx a.gr.id a.t.no a.g.no a.t.core)).sweep

/-- UNCORRECTABLE_ERROR: at an instruction of a resident group, or when a resume reads a suspended group's record. -/
def execUncorrectableError (gid : Nat) (s : State) : Host.Outcome State Fault Refusal :=
  .next (match s.group? gid with
    | none => s
    | some g => match g.life with
      | .resident => s.uncorrectable gid
      | .suspended r => if r.met then s.uncorrectable gid else s
      | _ => s)

/-- Whether an instruction at a slot still loads registers: its lanes are parked, wait for granules or wait for homes. -/
def Slot.loading (x : Slot) : Bool := x.dest ≠ [] || x.sent

/-- LANE_SPARE_SWITCH: a group at its drain point goes over to the spare; an uncorrectable slice halts it. -/
def execLaneSpareSwitch (gid : Nat) (bad : Bool) (s : State) : Host.Outcome State Fault Refusal :=
  .next (match s.group? gid with
    | none => s
    | some g =>
      if g.drained || g.loads ≠ [] || g.mat ≠ [] || g.slot0.loading || g.slot1.loading then s
      else if bad && g.life = .resident then s.uncorrectable gid
      else s.setGroup gid { g with drained := true })

/-! ### The barrier watchdog (R255, R273) -/

/-- GST of a group in the diagnostic of barrier n. -/
def Group.gst (g : Group) (cyc n : Nat) : Nat :=
  let waits (f : Wait → Bool) : Bool := (g.slot0.live && f g.slot0.wait) || (g.slot1.live && f g.slot1.wait)
  match g.life with
  | .retired => 0
  | .suspended _ => 5
  | .halted | .ended => 7
  | .retiring => 4
  | _ =>
    if waits fun w => match w with
      | .bar m _ => m = n
      | _ => false then 1
    else if waits fun w => match w with
      | .bar _ _ => true
      | _ => false then 2
    else if g.ready cyc then 3
    else if waits (· = .acqr) then 8
    else if waits fun w => match w with
      | .page _ => true
      | _ => false then 6
    else 4

/-- PC0 or PC1 of an entry: the offset from the kernel header, or all ones for a free slot. -/
def Slot.offset (x : Slot) (hdr : BitVec 64) : Nat := if x.live then (x.pc - hdr).toNat % 2 ^ 32 else 2 ^ 32 - 1

/-- A group's entry. -/
def barEntry (g : Group) (cyc : Nat) (hdr : BitVec 64) (n : Nat) : Nat :=
  packBits [(96, 32, g.slot0.offset hdr), (64, 32, g.slot1.offset hdr), (8, 8, min 255 g.depth), (0, 4, g.gst cyc n)]

/-- The cycle at which a barrier expires (R273). -/
def Barrier.expiry (b : Barrier) : Nat := b.t0 + b.period

/-- The diagnostic of a barrier that expires. -/
def State.barDiagnostic (s : State) (t : Team) (gr : Grid) (n : Nat) (b : Barrier) : List Byte :=
  let came := (b.arrived ++ s.haltedGroups t).dedup
  let head := packBits [(192, 64, b.expiry % 2 ^ 64), (160, 32, gr.id.toNat), (136, 24, t.no), (128, 8, 9),
    (112, 16, came.foldl (fun m g => m ||| 2 ^ g) 0), (104, 8, t.core), (88, 8, gr.k.gpt), (80, 8, b.expect),
    (72, 7, s.arrivals t b), (64, 4, n), (32, 32, b.period)]
  leBytes 64 head ++ (t.groups.map fun gid => leBytes 16 (match s.group? gid with
    | some g => barEntry g s.cycle gr.k.hdr n
    | none => packBits [(64, 64, 2 ^ 64 - 1)])).flatten

/-- BARRIER_WATCHDOG_EXPIRY: a barrier's period is over: BARTO, and the context is terminated. -/
def execBarrierWatchdogExpiry (tid n : Nat) (s : State) : Host.Outcome State Fault Refusal :=
  .next (match s.team? tid with
    | none => s
    | some t => match Map.get? t.bars n, s.grid? t.grid with
      | some b, some gr =>
        if b.arrived = [] || s.cycle < b.expiry then s
        else s.terminateCtx gr.ctx
          { cause := 4, code := 9, core := t.core, grid := gr.id, team := t.no
            group := b.arrived.foldl min 15, extra := s.barDiagnostic t gr n b, cyc := some b.expiry }
      | _, _ => s)

/-! ### What is due (R64, R207, R236, R248, R273; log 114)

Each entry is a time and the event that is due then. -/

/-- Barriers whose period is over: no arrival can be counted any more (R273). -/
def State.expiries (s : State) : List (Nat × Instr) :=
  (s.teams.map fun p => p.2.bars.filterMap fun q =>
    if q.2.arrived ≠ [] && q.2.expiry ≤ s.cycle && ((s.grid? p.2.grid).bind fun gr => s.ctx? gr.ctx).isSome then
      some (q.2.expiry, Instr.barrierWatchdogExpiry p.1 q.1) else none).flatten

/-- Rounds whose timer is over: no arrival can be counted any more (R236). -/
def State.deadlines (s : State) : List (Nat × Instr) :=
  s.reqs.filterMap fun p => match p.2.timer with
    | some t => if t + recDeadl p.2.h ≤ s.cycle && s.blockReady p.2.vf then some (t + recDeadl p.2.h, Instr.deadlineExpiry p.1) else none
    | none => none

/-- Pages that the hardware has kept rooted long enough (R207). -/
def State.unrootings (s : State) : List (Nat × Instr) :=
  s.moves.filterMap fun m => match m.2.rooted, s.ctxs.find? fun c => asidOf c.1 = m.1.1 with
    | some t, some c => if t ≤ s.cycle then some (t, Instr.rootExpiry c.1 m.1.2) else none
    | _, _ => none

/-- Cores whose score falls (R248). -/
def State.decays (s : State) : List (Nat × Instr) :=
  s.cores.filterMap fun p =>
    if p.2.score ≠ 0 && p.2.decayed + decayPeriod ≤ s.cycle then some (p.2.decayed + decayPeriod, Instr.scoreDecay p.1) else none

/-- An event put into a list in the order of time, behind those of the same time. -/
def insertDue (x : Nat × Instr) : List (Nat × Instr) → List (Nat × Instr)
  | [] => [x]
  | y :: l => if x.1 < y.1 then x :: y :: l else y :: insertDue x l

/-- What goes before every move that the schedule names, the earliest first. -/
def State.due (s : State) : List Instr :=
  ((s.expiries ++ s.displacements ++ s.deadlines ++ s.unrootings ++ s.decays).foldl (fun l x => insertDue x l) []).map (·.2)

end Sys2Proof.Machine
end

