-- ==== Sys2Proof/Machine/EvModule.lean ====
section
/-! DEFINITION. The window of device registers, grants, streams, ports, budgets, power, bring-up and attestation
(R41, R65, R66, R269, R275 to R289). Offsets the manual does not give: log 40. -/

namespace Sys2Proof.Machine

/-! ### Budgets and power (R65, R66, R289) -/

/-- Cycles of 10 microseconds, 100 microseconds and 1 ms at the reference rate (R4). -/
def budgetPeriod : Nat := 10500
def stepDownPeriod : Nat := 105000
def stepUpPeriod : Nat := 1050000

/-- What a class has for a new period: its budget less an overdraft; all ones is unlimited. -/
def renewed (budget : BitVec 64) (left : Option Int) : Option Int :=
  if budget = -1 then none
  else some (budget.toNat + min 0 (left.getD 0))

/-- A VF in a new period: its budgets are renewed, and the copy engines, cache ways and fabric shares are those that were
written last (R66, R269, R281). -/
def Vf.renew (v : Vf) : Vf :=
  { v with left := List.zipWith renewed v.budget v.left, ceng := v.next.1, ways := v.next.2.1, fshr := v.next.2.2 }

/-- BUDGET_PERIOD_START: budgets are renewed, and deferred traffic goes on. -/
def execBudgetPeriodStart (s : State) : Host.Outcome State Fault Refusal :=
  .next (if s.cycle < s.dev.period + budgetPeriod then s
    else
      let s1 := { s with
        vfs := s.vfs.map fun (p : Nat × Vf) => (p.1, p.2.renew)
        dev := { s.dev with left := List.zipWith renewed s.dev.budgets s.dev.left, period := s.dev.period + budgetPeriod } }
      s1.wakeAll fun w => match w with
        | .budget _ => true
        | _ => false)

/-- POWER_STEP_DOWN: the average exceeds 3,600 W. -/
def execPowerStepDown (avg : Nat) (s : State) : Host.Outcome State Fault Refusal :=
  .next (if 3600000 < avg && s.dev.power < 4 && s.dev.powerMark + stepDownPeriod ≤ s.cycle then
      { s with dev := { s.dev with power := s.dev.power + 1, powerMark := s.cycle } }
    else s)

/-- POWER_STEP_UP: 1 ms below 3,400 W. -/
def execPowerStepUp (avg : Nat) (s : State) : Host.Outcome State Fault Refusal :=
  .next (if avg < 3400000 && 0 < s.dev.power && s.dev.powerMark + stepUpPeriod ≤ s.cycle then
      { s with dev := { s.dev with power := s.dev.power - 1, powerMark := s.cycle } }
    else s)

/-! ### Bring-up (R275, R276, R286) -/

/-- Whether the boot ROM accepts a firmware image, its key and its signature (R285, R286). -/
def Device.accepts (d : Device) (r : ResetInput) : Bool :=
  sha512 r.key = d.fuseKey && ecdsaVerify r.key r.image r.sig.1 r.sig.2 && d.fuseVersion ≤ r.version

/-- ERRC of a stage of R275. -/
def errcOf (stage : Nat) (detail : BitVec 16) : BitVec 16 := BitVec.ofNat 16 (stage * 256 + detail.toNat % 256)

/-- Ports after calibration: up, but for those that failed. -/
def portsAfter (bad : List Nat) : List Port := (List.range 32).map fun i => { link := if bad.contains i then 0 else 2 }

/-- MODULE_RESET: verification, calibration, READY; the fill begins. The fuses stay; node number, schedule and the counter of
free values are the model's own, and stay. -/
def execModuleReset (r : ResetInput) (s : State) : Host.Outcome State Fault Refusal :=
  let s0 : State := {
    node := s.node, sched := s.sched, free := s.free, dev := { fuseKey := s.dev.fuseKey, fuseVersion := s.dev.fuseVersion } }
  .next (if !s.dev.accepts r then { s0 with dev := { s0.dev with fwErr := true, errc := errcOf 1 r.errc } }
    else { s0 with dev := { s0.dev with
      ready := true, fwm := sha512 r.image, calErr := r.badPorts ≠ [], memErr := r.badStacks ≠ [], badStacks := r.badStacks
      ports := portsAfter r.badPorts, errc := if r.badPorts = [] && r.badStacks = [] then 0 else errcOf 2 r.errc } })

/-- GiB of HBM, and of a stack (R11). -/
def hbmGib : Nat := 640
def stackGib : Nat := 80

/-- HBM_REGION_FILL: the next 1 GiB region is filled, and its frames are free, unless its stack is withdrawn. -/
def execHbmRegionFill (s : State) : Host.Outcome State Fault Refusal :=
  let n := s.dev.filled
  .next (if !s.dev.ready || hbmGib ≤ n then s
    else
      let s1 := { s with
        mem := s.mem.filter fun c => c.1 / 2 ^ 30 ≠ n
        dev := { s.dev with filled := n + 1, fillDone := n + 1 = hbmGib } }
      if s.dev.badStacks.contains (n / stackGib) then s1
      else { s1 with common := s1.common ++ [(n * 16384, 16384)] })

/-! ### Grants (R269, R278, R281) -/

/-- A resource of R278: its code, the units in service, and the granule. -/
structure Resource where
  code : Nat
  total : Nat
  gran : Nat
  least : Nat
  deriving DecidableEq, Repr

/-- The entries of the resource capability (R278). -/
def State.resources (s : State) : List Resource :=
  [⟨1, 256 - (s.cores.filter (·.2.quarantined)).length, 1, 1⟩, ⟨2, hbmGib - stackGib * s.dev.badStacks.dedup.length, 1, 1⟩,
    ⟨3, 32, 1, 0⟩, ⟨4, 1024, 1, 1⟩, ⟨5, 64, 1, 1⟩, ⟨6, 65536, 1024, 1024⟩, ⟨7, 8192, 128, 128⟩,
    ⟨8, 1048576, 4096, 4096⟩, ⟨9, 262144, 4096, 4096⟩]

/-- What the other VFs hold of a resource. -/
def State.others (s : State) (vf : Nat) (f : Vf → Nat) : Nat :=
  (s.vfs.filter fun p => p.1 ≠ vf).foldl (fun n p => n + f p.2) 0

/-- Whether a grant of n units of a resource is in its granules and in what the other VFs leave. -/
def State.grantFits (s : State) (vf code n : Nat) (f : Vf → Nat) : Bool :=
  match s.resources.find? fun r => r.code = code with
  | none => false
  | some r => n % r.gran = 0 && (n = 0 || r.least ≤ n) && s.others vf f + n ≤ r.total

/-- A refused grant. -/
def State.refuseGrant (s : State) (vf code : Nat) : State :=
  let v := s.vf vf
  s.setVf vf { v with stat := code }

/-- A word of the CORES mask replaced. -/
def coresWith (m : BitVec 256) (i : Nat) (x : BitVec 64) : BitVec 256 := BitVec.ofNat 256 (setBits m.toNat (64 * i) 64 x.toNat)

/-- Cores granted; a VF's contexts leave the cores withdrawn, and the teams that were placed there are placed on the others; what runs
there for audits is abandoned, and a grant alone moves nothing (R269). -/
def State.grantCores (s : State) (vf : Nat) (m : BitVec 256) : State :=
  let v := s.vf vf
  let gone := (List.range 256).filter fun n => v.cores.getLsbD n && !m.getLsbD n
  let s1 := s.setVf vf { v with cores := m }
  (s1.ctxs.filter fun p => p.2.vf = vf && p.2.cst = 1).foldl (fun s p =>
    let runs := (s.runnersOf p.1).filter fun gid => match (s.group? gid).bind fun g => s.team? g.team with
      | some t => gone.contains t.core
      | none => false
    (runs.foldl (fun s gid => s.dropRunner gid) s).beginSave
      { vf, cid := p.1, cmpl := none, teams := [], all := false, back := true } gone) s1

/-- A record range granted: records withdrawn must be retired, records gained read as new ones (R41). -/
def State.grantRecords (s : State) (vf : Nat) (value : BitVec 64) : State :=
  let v := s.vf vf
  let first := bits value.toNat 15 0
  let n := bits value.toNat 47 32
  let inNew (rid : Nat) : Bool := first ≤ rid && rid < first + n
  let overlaps : Bool := s.vfs.any fun p => p.1 ≠ vf && n ≠ 0 && p.2.recFirst < first + n && first < p.2.recFirst + p.2.recCount
  let lost := ((List.range v.recCount).map (v.recFirst + ·)).filter fun rid => !inNew rid
  if bits value.toNat 31 16 ≠ 0 || bits value.toNat 63 48 ≠ 0 || first % 1024 ≠ 0 || n % 1024 ≠ 0 || 65536 < first + n
      || overlaps || lost.any fun rid => recState (s.req rid).n ≠ 5 then s.refuseGrant vf 6
  else
    let gained := ((List.range n).map (first + ·)).filter fun rid => !v.hasRecord rid
    (gained.foldl (fun s rid => s.setReq rid (blankRecord rid vf)) s).setVf vf { v with recFirst := first, recCount := n }

/-- HBM quota lowered from `old` below USED raises the reclaim interrupt (R269). -/
def State.reclaimAbove (s : State) (vf old : Nat) : State :=
  let v := s.vf vf
  if v.hquota < old && v.hquota < v.hused then s.tell (.reclaim vf (v.hused - v.hquota)) else s

/-- VF_GRANT_WRITE: a write of a grant register (R269, R281). Cache ways, fabric shares and copy engines change hands at the
next period. -/
def execVfGrantWrite (vf off : Nat) (value : BitVec 64) (s : State) : Host.Outcome State Fault Refusal :=
  let v := s.vf vf
  let n := value.toNat
  let put (code : Nat) (f : Vf → Nat) (x : Vf) : State := if s.grantFits vf code n f then s.setVf vf x else s.refuseGrant vf code
  let hbm : Bool := n % 16384 = 0
  .next (if !s.dev.ready || 64 ≤ vf then s
    else match off with
      | 0x010 => s.grantCores vf (coresWith v.cores 0 value)
      | 0x018 => s.grantCores vf (coresWith v.cores 1 value)
      | 0x020 => s.grantCores vf (coresWith v.cores 2 value)
      | 0x028 => s.grantCores vf (coresWith v.cores 3 value)
      | 0x030 => s.grantRecords vf value
      | 0x038 => put 7 (·.slots) { v with slots := n }
      | 0x040 => if n < (s.countersInUse vf).length then s.refuseGrant vf 8 else put 8 (·.evcn) { v with evcn := n }
      | 0x048 => if n < s.vfBinds vf then s.refuseGrant vf 9 else put 9 (·.bindn) { v with bindn := n }
      | 0x050 => put 5 (·.next.1) { v with next := (n, v.next.2) }
      | 0x058 => put 3 (·.next.2.1) { v with next := (v.next.1, n, v.next.2.2) }
      | 0x060 => put 4 (·.next.2.2) { v with next := (v.next.1, v.next.2.1, n) }
      | 0x068 =>
        if hbm && s.grantFits vf 2 (n / 16384) fun w => w.hquota / 16384 then (s.setVf vf { v with hquota := n }).reclaimAbove vf v.hquota
        else s.refuseGrant vf 2
      | 0x070 => if hbm then s.setVf vf { v with hborrow := n } else s.refuseGrant vf 2
      | 0x080 => s.setVf vf { v with pquota := n }
      | 0x088 => s.setVf vf { v with pborrow := n }
      | _ => s)

/-! ### Streams (R283) -/

/-- Whether a descriptor's fields are legal for EN = 1. -/
def streamOk (v : Vf) (d : BitVec 512) : Bool :=
  bits d.toNat 511 288 = 0 && bits d.toNat 103 100 = 0 && bits d.toNat 95 0 = 0 && sdStb d % 64 = 0 && sdProg d % 128 = 0
    && 1 ≤ sdCap d && sdCap d ≤ 8192 && sdCap d ≤ v.slots && bits d.toNat 111 108 ≤ 12 && sdConfigured d

/-- EN of a descriptor replaced. -/
def withEn (d : BitVec 512) (en : Bool) : BitVec 512 := BitVec.ofNat 512 (setBits d.toNat 96 1 en.toNat)

/-- STREAM_DESCRIPTOR_WRITE: while EN is 1 only EN is written; EN is not set where a field is illegal. -/
def execStreamDescriptorWrite (vf k : Nat) (d : BitVec 512) (s : State) : Host.Outcome State Fault Refusal :=
  let old := (s.stream vf k).desc
  let new := if sdEn old then withEn old (sdEn d) else withEn d (sdEn d && streamOk (s.vf vf) d)
  .next (if !s.dev.ready || 8 ≤ k || 64 ≤ vf then s else s.modStream vf k fun x => { x with desc := new })

/-! ### Ports (R279) -/

/-- A port changed in place. -/
def State.modPort (s : State) (i : Nat) (f : Port → Port) : State :=
  { s with dev := { s.dev with ports := s.dev.ports.set i (f (s.dev.ports.getD i {})) } }

/-- PORT_GEN_WRITE: a legal, supported generation retrains the port; any other write is discarded. -/
def execPortGenWrite (i : Nat) (value : BitVec 64) (s : State) : Host.Outcome State Fault Refusal :=
  let p := s.dev.ports.getD i {}
  let gen := bits value.toNat 7 4
  .next (if s.dev.ready && i < 32 && ((gen = 3 && p.g3) || (gen = 4 && p.g4)) then s.modPort i fun p => { p with gen, link := 1 }
    else s)

/-- Traffic that waits for a port leaves by it, in its order. -/
def State.flushPort (s : State) (i : Nat) : State :=
  { s with host := s.host ++ (s.portWait.filter fun m => m.1 = i).map (·.2), portWait := s.portWait.filter fun m => m.1 ≠ i }

/-- What came by a port while it was not up is taken in, in its order (R279; logs 99, 107). -/
def State.takePort (s : State) (i : Nat) : State :=
  (s.portIn.filter fun x => x.1 = i).foldl (fun s x => s.arrived x.2) { s with portIn := s.portIn.filter fun x => x.1 ≠ i }

/-- PORT_RETRAIN_DONE: training ends; `up` says whether the link came up. Where it did, the traffic that waited goes on, both ways. -/
def execPortRetrainDone (i : Nat) (up : Bool) (s : State) : Host.Outcome State Fault Refusal :=
  .next (if i < 32 && (s.dev.ports.getD i {}).link = 1 then
      let s1 := s.modPort i fun p => { p with link := if up then 2 else 0 }
      if up then (s1.flushPort i).takePort i else s1
    else s)

/-! ### Register reads (R276 to R281, R284, R288, R289) -/

/-- Window offsets that the module chooses (log 40). -/
def capFirst : Nat := 0x100
def capPorts : Nat := 0x200
def capVf : Nat := 0x400
def capSecurity : Nat := 0x440
def capPower : Nat := 0x500
def keyBase : Nat := 0x600
def ctlBase : Nat := 0x1000
def chainBase : Nat := 0x100000

/-- A register of a VF's control block (R281). -/
def Vf.reg (v : Vf) (off : Nat) : BitVec 64 :=
  match off with
  | 0x000 => BitVec.ofNat 64 (v.en.toNat + 2 * v.qtrap.toNat)
  | 0x008 => BitVec.ofNat 64 v.stat
  | 0x010 => BitVec.ofNat 64 (bits v.cores.toNat 63 0)
  | 0x018 => BitVec.ofNat 64 (bits v.cores.toNat 127 64)
  | 0x020 => BitVec.ofNat 64 (bits v.cores.toNat 191 128)
  | 0x028 => BitVec.ofNat 64 (bits v.cores.toNat 255 192)
  | 0x030 => BitVec.ofNat 64 (v.recFirst + v.recCount * 2 ^ 32)
  | 0x038 => BitVec.ofNat 64 v.slots
  | 0x040 => BitVec.ofNat 64 v.evcn
  | 0x048 => BitVec.ofNat 64 v.bindn
  | 0x050 => BitVec.ofNat 64 v.next.1
  | 0x058 => BitVec.ofNat 64 v.next.2.1
  | 0x060 => BitVec.ofNat 64 v.next.2.2
  | 0x068 => BitVec.ofNat 64 v.hquota
  | 0x070 => BitVec.ofNat 64 v.hborrow
  | 0x078 => BitVec.ofNat 64 v.hused
  | 0x080 => BitVec.ofNat 64 v.pquota
  | 0x088 => BitVec.ofNat 64 v.pborrow
  | 0x090 => BitVec.ofNat 64 v.pused
  | 0x098 => v.budget.getD 0 0
  | 0x0A0 => v.budget.getD 1 0
  | 0x0A8 => v.budget.getD 2 0
  | 0x0B0 => v.budget.getD 3 0
  | 0x0B8 => v.prqb
  | 0x0C0 => v.prqn
  | 0x0C8 => v.prqh
  | 0x0D0 => v.prqt
  | 0x0D8 => v.logb
  | 0x0E0 => v.logn
  | 0x0E8 => v.logh
  | 0x168 => BitVec.ofNat 64 v.mref
  | 0x170 => BitVec.ofNat 64 v.discw
  | 0x178 => BitVec.ofNat 64 v.askip
  | 0x180 => BitVec.ofNat 64 v.untrk
  | _ =>
    if 0x200 ≤ off && off < 0x400 then
      BitVec.ofNat 64 (((v.streams.getD ((off - 0x200) / 64) {}).desc.toNat >>> (8 * ((off - 0x200) % 64))) % 2 ^ 64)
    else 0

/-- DSTAT (R276). -/
def State.dstat (s : State) : BitVec 64 :=
  let d := s.dev
  BitVec.ofNat 64 (packBits [(32, 8, d.filled * 100 / hbmGib), (16, 16, d.errc.toNat), (4, 1, d.fwErr.toNat), (3, 1, d.memErr.toNat),
    (2, 1, d.calErr.toNat), (1, 1, d.fillDone.toNat), (0, 1, d.ready.toNat)])

/-- A capability header (R277). -/
def capHeader (id len next : Nat) : BitVec 64 := BitVec.ofNat 64 (packBits [(48, 16, next / 64), (32, 16, len), (16, 16, 1), (0, 16, id)])

/-- A port's entry (R279). -/
def Port.entry (p : Port) : BitVec 64 := BitVec.ofNat 64 (packBits [(8, 4, p.link), (4, 4, p.gen), (1, 1, p.g4.toNat), (0, 1, p.g3.toNat)])

/-- ARSTAT (R288). -/
def Device.arstat (d : Device) : BitVec 64 := BitVec.ofNat 64 (packBits [(32, 32, d.arDone % 2 ^ 32), (1, 1, d.arErr.toNat), (0, 1, d.arStore.isSome.toNat)])

/-- The module's private identity key and its public one (R287, R288). -/
def identityKey : Nat := 1 + Config.identityKey % (ecN - 1)
def identityPub : List Byte := (ecG.mul identityKey).sec1

/-- 8 bytes of a list of bytes from an offset on. -/
def bytesAt (l : List Byte) (off : Nat) : BitVec 64 := BitVec.ofNat 64 (leNat ((l.drop off).take 8))

/-- 8 bytes of a record, to its VF's own driver; any other source reads zero (R280, R281). -/
def State.readRecord (s : State) (src : Source) (rid off : Nat) : BitVec 64 :=
  match src with
  | .driver vf => if (s.vf vf).hasRecord rid then BitVec.ofNat 64 ((s.req rid).n >>> (8 * off)) else 0
  | _ => 0

/-- The 8 bytes that a source's read of the window gives at an offset (R275 to R281, R284, R288, R289). Before READY only DSTAT
and the security capability, with the key and the chain that it holds, answer. -/
def State.readWindow (s : State) (src : Source) (off : Nat) : BitVec 64 :=
  let security : Bool := (capSecurity ≤ off && off < capSecurity + 0x80) || (keyBase ≤ off && off < keyBase + 133)
    || (chainBase ≤ off && off < chainBase + Config.certChain.length)
  if off = 0 then s.dstat
  else if !s.dev.ready && !security then 0
  else if off = 8 then BitVec.ofNat 64 capFirst
  else if 0x40 ≤ off && off < 0x60 then s.dev.budgets.getD ((off - 0x40) / 8) 0
  else if off = 0x60 then BitVec.ofNat 64 s.dev.power
  else if off = capFirst then capHeader 1 152 capPorts
  else if capFirst < off && off < capFirst + 152 then
    let i := off - capFirst - 8
    (match s.resources[i / 16]? with
      | some r => if i % 16 = 8 then BitVec.ofNat 64 r.total else BitVec.ofNat 64 (packBits [(32, 32, r.gran), (16, 16, r.least), (0, 16, r.code)])
      | none => 0)
  else if off = capPorts then capHeader 2 264 capVf
  else if capPorts < off && off < capPorts + 264 then (s.dev.ports.getD ((off - capPorts - 8) / 8) {}).entry
  else if off = capVf then capHeader 3 32 capSecurity
  else if off = capVf + 8 then BitVec.ofNat 64 ctlBase
  else if off = capVf + 0x10 then 0x01000000
  else if off = capVf + 0x18 then 64
  else if off = capSecurity then capHeader 4 0x80 capPower
  else if off = capSecurity + 8 then BitVec.ofNat 64 (133 * 2 ^ 32 + (keyBase - capSecurity))
  else if off = capSecurity + 0x10 then BitVec.ofNat 64 (Config.certChain.length * 2 ^ 32 + (chainBase - capSecurity))
  else if off = capSecurity + 0x18 then s.dev.arstat
  else if capSecurity + 0x40 ≤ off && off < capSecurity + 0x80 then
    BitVec.ofNat 64 (s.dev.nonce.toNat / 2 ^ (8 * (off - capSecurity - 0x40)) % 2 ^ 64)
  else if off = capPower then capHeader 5 8 0
  else if ctlBase ≤ off && off < ctlBase + 64 * 4096 then (s.vf ((off - ctlBase) / 4096)).reg ((off - ctlBase) % 4096)
  else if keyBase ≤ off && off < keyBase + 133 then bytesAt identityPub (off - keyBase)
  else if 0x01000000 ≤ off && off < 0x02000000 then s.readRecord src ((off - 0x01000000) / 256) (off % 256)
  else if chainBase ≤ off && off < chainBase + Config.certChain.length then bytesAt Config.certChain (off - chainBase)
  else 0

/-! ### Attestation (R287, R288) -/

/-- Bytes 0x000 to 0x0B7 of a VF's control block. -/
def Vf.block (v : Vf) : List Byte := ((List.range 23).map fun i => leBytes 8 (v.reg (8 * i)).toNat).flatten

/-- The signed part of a report. -/
def State.reportHead (s : State) (vf : Nat) : List Byte :=
  leBytes 64 s.dev.nonce.toNat ++ leBytes 64 s.dev.fwm.toNat ++ leBytes 64 (sha512 (s.vf vf).block).toNat
    ++ leBytes 8 Config.serial.toNat ++ leBytes 2 vf

/-- A report: its head, and the signature of it by the identity key with the n-th random number (R285, R287). -/
def State.report (s : State) (vf n : Nat) : List Byte :=
  let head := s.reportHead vf
  let sig := ecdsaSign identityKey (1 + Config.signNonce n % (ecN - 1)) head
  head ++ beBytes 66 sig.1 ++ beBytes 66 sig.2

/-- A request for a report completed, or refused (R288). -/
def State.attested (s : State) (err : Bool) : State :=
  { s with dev := { s.dev with arErr := err, arStore := none, arDone := s.dev.arDone + 1 } }

/-- AREQ: a report is written, or the request refused; while BUSY it is discarded. The report is on its way until it is
performed at pod scope. -/
def execAreq (value : BitVec 64) (s : State) : Host.Outcome State Fault Refusal :=
  let vf := bits value.toNat 5 0
  let a := value.toNat / 256 * 256
  .next (if !s.dev.ready || s.dev.arStore.isSome then s
    else if !(s.vf vf).en || 2 ^ 48 ≤ a || !s.ownsFrame vf (a / 65536) then s.attested true
    else
      let (n, s1) := s.takeFree
      let s2 := s1.addStore 0 0 0 none a (s.report vf n) .device false
      { s2 with dev := { s2.dev with arErr := false, arStore := some s1.nextId } })

/-- The report that is on its way is performed at pod scope: its request is complete (R287, R288). -/
def State.attestEnd (s : State) : State := match s.dev.arStore with
  | none => s
  | some id => if s.pend.any fun p => p.id = id then s else s.attested false

/-! ### Register writes (R281, R284, R288) -/

/-- A write of VFCTL: EN, QTRAP, and a reset where RST is written 1 (R270, R281). -/
def State.writeVfctl (s : State) (vf : Nat) (value : BitVec 64) : State :=
  if 8 ≤ value.toNat then s
  else
    let v := s.vf vf
    let s1 := s.setVf vf { v with en := value.getLsbD 0, qtrap := value.getLsbD 1 }
    if value.getLsbD 2 then outState s1 (execVfReset vf s1) else s1

/-- Whether a number is a power of two. -/
def isPow2 (n : Nat) : Bool := n ≠ 0 && 2 ^ Nat.log2 n = n

/-- A write of a VF's register that is no grant, no doorbell and no descriptor. Read-only registers discard it. -/
def State.writeVf (s : State) (vf off : Nat) (value : BitVec 64) : State :=
  let v := s.vf vf
  match off with
  | 0x000 => s.writeVfctl vf value
  | 0x098 => s.setVf vf { v with budget := v.budget.set 0 value }
  | 0x0A0 => s.setVf vf { v with budget := v.budget.set 1 value }
  | 0x0A8 => s.setVf vf { v with budget := v.budget.set 2 value }
  | 0x0B0 => s.setVf vf { v with budget := v.budget.set 3 value }
  | 0x0B8 => s.setVf vf { v with prqb := value }
  | 0x0C0 => if isPow2 value.toNat || value = 0 then s.setVf vf { v with prqn := value } else s
  | 0x0D0 =>
    let s1 := s.setVf vf { v with prqt := value }
    s1.postRequests s1.pageReqs []
  | 0x0D8 => if value.toNat % 32 = 0 then s.setVf vf { v with logb := value } else s
  | 0x0E0 => s.setVf vf { v with logn := value }
  | _ => s

/-- Whether a source may write the control block of a VF: the privileged driver, or the VF's own (log 106). -/
def mayWrite (src : Source) (vf : Nat) : Bool :=
  match src with
  | .privileged => true
  | .driver v => v = vf
  | .mapping _ _ _ _ => false

/-- Frames of a pool node that enter the common list of the pool tier: node in [63:52], their number in [51:32], the first in
[31:0] (R208; log 106). -/
def State.addPool (s : State) (value : BitVec 64) : State :=
  let n := value.toNat
  { s with poolCommon := s.poolCommon ++ (List.range (bits n 51 32)).map fun i => (bits n 63 52, bits n 31 0 + i) }

/-- The offset of that register (log 106). -/
def poolAdd : Nat := 0x68

/-- REGISTER_WRITE: a write, by a source, of a device register that has no row of its own; the module-wide budgets are the
privileged driver's (R284). Of a mapping only the value counts: the bits of the entry (R208). -/
def execRegisterWrite (at_ : RegAt) (value : BitVec 64) (s : State) : Host.Outcome State Fault Refusal :=
  let off := at_.off
  .next (if !s.dev.ready || off % 8 ≠ 0 then s
    else match at_.src with
      | .mapping vf cid page pool => s.mapOrWait { vf, cid, page, pool, value }
      | src =>
        if 0x40 ≤ off && off < 0x60 then
          (if src = .privileged then { s with dev := { s.dev with budgets := s.dev.budgets.set ((off - 0x40) / 8) value } } else s)
        else if off = poolAdd then (if src = .privileged then s.addPool value else s)
        else if capSecurity + 0x40 ≤ off && off < capSecurity + 0x80 then
          { s with dev := { s.dev with nonce := BitVec.ofNat 512 (setBits s.dev.nonce.toNat (8 * (off - capSecurity - 0x40)) 64 value.toNat) } }
        else if ctlBase ≤ off && off < ctlBase + 64 * 4096 then
          (if mayWrite src ((off - ctlBase) / 4096) then s.writeVf ((off - ctlBase) / 4096) ((off - ctlBase) % 4096) value else s)
        else s)

end Sys2Proof.Machine
end

