-- ==== Sys2Proof/Machine/ScalarAlu.lean ====
section
/-! DEFINITION. The scalar ALU family, OPC 0x20 to 0x34 (R389, R390). Each runs once an issue, whatever the mask (R68). -/

namespace Sys2Proof.Machine

/-- A scalar instruction that only computes sD. -/
def scalarOp (d : BitVec 6) (f : Env → BitVec 64) (s : State) : Host.Outcome State Fault Refusal :=
  s.issue fun e s => s.putS e d (f e)

/-- SADD: sD := sA + sB (R389). -/
def execSadd (d a b : BitVec 6) (s : State) : Host.Outcome State Fault Refusal :=
  scalarOp d (fun e => e.s a + e.s b) s

/-- SSUB: sD := sA - sB (R389). -/
def execSsub (d a b : BitVec 6) (s : State) : Host.Outcome State Fault Refusal :=
  scalarOp d (fun e => e.s a - e.s b) s

/-- SMUL: the low 64 bits of the product (R389). -/
def execSmul (d a b : BitVec 6) (s : State) : Host.Outcome State Fault Refusal :=
  scalarOp d (fun e => e.s a * e.s b) s

/-- SMULHI: bits [127:64] of the signed product (R122) (R389). -/
def execSmulhi (d a b : BitVec 6) (s : State) : Host.Outcome State Fault Refusal :=
  scalarOp d (fun e => BitVec.ofInt 64 ((e.s a).toInt * (e.s b).toInt / 2 ^ 64)) s

/-- SAND (R389). -/
def execSand (d a b : BitVec 6) (s : State) : Host.Outcome State Fault Refusal :=
  scalarOp d (fun e => e.s a &&& e.s b) s

/-- SOR (R389). -/
def execSor (d a b : BitVec 6) (s : State) : Host.Outcome State Fault Refusal :=
  scalarOp d (fun e => e.s a ||| e.s b) s

/-- SXOR (R389). -/
def execSxor (d a b : BitVec 6) (s : State) : Host.Outcome State Fault Refusal :=
  scalarOp d (fun e => e.s a ^^^ e.s b) s

/-- SSHL: left by sB mod 64 (R389). -/
def execSshl (d a b : BitVec 6) (s : State) : Host.Outcome State Fault Refusal :=
  scalarOp d (fun e => e.s a <<< ((e.s b).toNat % 64)) s

/-- SSHR: right by sB mod 64, zeros in (R389). -/
def execSshr (d a b : BitVec 6) (s : State) : Host.Outcome State Fault Refusal :=
  scalarOp d (fun e => e.s a >>> ((e.s b).toNat % 64)) s

/-- SSAR: right by sB mod 64, copies of bit 63 in (R389). -/
def execSsar (d a b : BitVec 6) (s : State) : Host.Outcome State Fault Refusal :=
  scalarOp d (fun e => (e.s a).sshiftRight ((e.s b).toNat % 64)) s

/-- SSEL: sA when sD is not zero, else sB; sD is read first (R389). -/
def execSsel (d a b : BitVec 6) (s : State) : Host.Outcome State Fault Refusal :=
  scalarOp d (fun e => if e.s d ≠ 0 then e.s a else e.s b) s

/-- SMOV: sD := sA (R389). -/
def execSmov (d a : BitVec 6) (s : State) : Host.Outcome State Fault Refusal :=
  scalarOp d (fun e => e.s a) s

/-- SLI: sD := sext(IMM10) (R389). -/
def execSli (d : BitVec 6) (imm : BitVec 10) (s : State) : Host.Outcome State Fault Refusal :=
  scalarOp d (fun _ => imm.signExtend 64) s

/-- SLI with a literal (R86, R389). -/
def execSliLit (d : BitVec 6) (lit : BitVec 64) (s : State) : Host.Outcome State Fault Refusal :=
  scalarOp d (fun _ => lit) s

/-- SADDI: sD := sA + sext(IMM10) (R389). -/
def execSaddi (d a : BitVec 6) (imm : BitVec 10) (s : State) : Host.Outcome State Fault Refusal :=
  scalarOp d (fun e => e.s a + imm.signExtend 64) s

/-- SADDI with a literal (R86, R389). -/
def execSaddiLit (d a : BitVec 6) (lit : BitVec 64) (s : State) : Host.Outcome State Fault Refusal :=
  scalarOp d (fun e => e.s a + lit) s

/-- The conditions of SCMP (R389). -/
def scmpCond (cond : BitVec 4) (x y : BitVec 64) : Bool :=
  match cond.toNat with
  | 0 => x = y
  | 1 => x ≠ y
  | 2 => x.toInt < y.toInt
  | 3 => x.toInt ≤ y.toInt
  | 4 => y.toInt < x.toInt
  | 5 => y.toInt ≤ x.toInt
  | 6 => x.toNat < y.toNat
  | 7 => x.toNat ≤ y.toNat
  | 8 => y.toNat < x.toNat
  | _ => y.toNat ≤ x.toNat

/-- SCMP: 1 where the condition holds, else 0 (R389). -/
def execScmp (d a b : BitVec 6) (cond : BitVec 4) (s : State) : Host.Outcome State Fault Refusal :=
  scalarOp d (fun e => if scmpCond cond (e.s a) (e.s b) then 1 else 0) s

/-- The field that SBFE extracts (R389). -/
def scalarField (isSigned : Bool) (x y : BitVec 64) : BitVec 64 :=
  let p := y.toNat % 64
  let w := min (y.toNat / 256 % 128) (64 - p)
  let f := x.toNat / 2 ^ p % 2 ^ w
  if isSigned then BitVec.ofInt 64 (sextInt f w) else BitVec.ofNat 64 f

/-- SBFE (R389). -/
def execSbfe (d a b : BitVec 6) (isSigned : Bool) (s : State) : Host.Outcome State Fault Refusal :=
  scalarOp d (fun e => scalarField isSigned (e.s a) (e.s b)) s

/-- Index of the lowest or highest set bit, 64 for zero (R389). -/
def findBit (hi : Bool) (x : BitVec 64) : Nat :=
  let l := (List.range 64).filter fun i => x.getLsbD i
  (if hi then l.getLast? else l.head?).getD 64

/-- SFFS (R389). -/
def execSffs (d a : BitVec 6) (hi : Bool) (s : State) : Host.Outcome State Fault Refusal :=
  scalarOp d (fun e => BitVec.ofNat 64 (findBit hi (e.s a))) s

/-- SPOPC (R389). -/
def execSpopc (d a : BitVec 6) (s : State) : Host.Outcome State Fault Refusal :=
  scalarOp d (fun e => BitVec.ofNat 64 (popCount 64 (e.s a).toNat)) s

/-- SDIV in its four modes, with the flags of R128 and their traps (R389, R390). -/
def execSdiv (d a b : BitVec 6) (mode : BitVec 2) (s : State) : Host.Outcome State Fault Refusal :=
  s.issue fun e s =>
    let m := mode.toNat
    let x := (e.s a).toNat
    let y := (e.s b).toNat
    let r := if m < 2 then Lane.quotient 64 (m % 2 == 0) x y else Lane.remainder 64 (m % 2 == 0) x y
    e.flagged s r.fl e.lanes fun s1 => s1.putS e d (BitVec.ofNat 64 r.val)

/-- SMIN, signed or unsigned (R389). -/
def execSmin (d a b : BitVec 6) (unsigned : Bool) (s : State) : Host.Outcome State Fault Refusal :=
  scalarOp d (fun e =>
    let x := e.s a
    let y := e.s b
    if (if unsigned then y.toNat < x.toNat else y.toInt < x.toInt) then y else x) s

/-- SMAX, signed or unsigned (R389). -/
def execSmax (d a b : BitVec 6) (unsigned : Bool) (s : State) : Host.Outcome State Fault Refusal :=
  scalarOp d (fun e =>
    let x := e.s a
    let y := e.s b
    if (if unsigned then x.toNat < y.toNat else x.toInt < y.toInt) then y else x) s

end Sys2Proof.Machine
end

