-- ==== Sys2Proof/Machine/CrossLane.lean ====
section
/-! DEFINITION. Cross-lane operations, OPC 0x78 to 0x7F (R80, R132, R165, R189, R298, R350, R375, R380, R381,
R391, R397, R412, R415). -/

namespace Sys2Proof.Machine

/-- The lane that lane l of a SHFL names (R397). -/
def shflLane (mode l b : Nat) : Int :=
  match mode with
  | 0 => sextInt b 32
  | 1 => (l : Int) - b
  | 2 => (l : Int) + b
  | _ => ((l ^^^ b : Nat) : Int)

/-- SHFL: lane l receives the lane its mode names, or keeps its own value (R397). -/
def execShfl (x : XArgs) (s : State) : Host.Outcome State Fault Refusal :=
  s.issue fun e s =>
    let src := e.val x .int .b32 x.a
    e.elementwise s x 2 false .int .b32 fun l a b _ =>
      let j := shflLane (x.fn.toNat % 4) l b
      .plain (if 0 ≤ j ∧ j ≤ 95 then src.at j.toNat else a)

/-- 32 of a mask's 96 bits (R298). -/
def segment (m : LaneMask) (w : Nat) : Nat := bits m.toNat (32 * w + 31) (32 * w)

/-- The lanes whose condition holds: a predicate's bit, or a value that is not zero (R298, R412). -/
def Env.condition (e : Env) (x : XArgs) : LaneMask :=
  match x.a with
  | .pred n => e.g.regs.pred n.toNat
  | a =>
    let v := e.val x .int .b32 a
    mkMask fun l => v.at l ≠ 0

/-- One value given to every active lane, to a scalar once, or to a predicate's active bits. -/
def Env.spread (e : Env) (s : State) (x : XArgs) (u : Use) (fl : Flags) (v : Nat) : Res :=
  e.finish s x u fl e.lanes (match x.dst with
    | .vec _ => .vec [mkLanes fun _ => BitVec.ofNat 32 v]
    | .scal _ => .scal (BitVec.ofNat 64 v)
    | .pred _ => .pred (if v % 2 = 1 then -1 else 0)
    | _ => .none)

/-- BALLOT (R298). -/
def execBallot (x : XArgs) (s : State) : Host.Outcome State Fault Refusal :=
  s.issue fun e s =>
    let u : Use := { srcs := [(x.a, 1)], dst := some x.dst }
    e.using s u fun fl => e.spread s x u fl (segment (e.active x &&& e.condition x) (x.fn.toNat % 4))

/-- VOTE over active(slot) (R80, R412). -/
def execVote (x : XArgs) (s : State) : Host.Outcome State Fault Refusal :=
  s.issue fun e s =>
    let u : Use := { srcs := [(x.a, 1)], dst := some x.dst }
    e.using s u fun fl =>
      let m := e.active x
      let c := e.condition x
      let value (l : Nat) : Nat := match x.a with
        | .pred _ => (c.getLsbD l).toNat
        | a => (e.val x .int .b32 a).at l
      let r : Bool := match x.fn.toNat % 4 with
        | 0 => m &&& ~~~c = 0
        | 1 => m &&& c ≠ 0
        | _ => m.toList.all fun l => value l = value m.lowest
      e.spread s x u fl r.toNat

/-- MATCH: the active lanes whose value equals this lane's, 32 of them (R189, R350). -/
def execMatchLanes (x : XArgs) (s : State) : Host.Outcome State Fault Refusal :=
  s.issue fun e s =>
    let src := e.val x .int .b32 x.a
    let m := e.active x
    e.elementwise s x 1 false .int .b32 fun _ a _ _ =>
      .plain (segment (mkMask fun j => m.getLsbD j && src.at j = a) (x.fn.toNat % 4))

/-! ### Reductions (R132, R381) -/

/-- One node of the float tree: an absent operand passes the other on (R132). -/
def treeAdd (rm : Rm) : Option Nat × Bool → Option Nat × Bool → Option Nat × Bool
  | (none, i), (b, j) => (b, i || j)
  | (a, i), (none, j) => (a, i || j)
  | (some a, i), (some b, j) =>
    let r := f32.add rm a b
    (some r.1, i || j || r.2)

/-- Neighbours added. -/
def treeLevel (rm : Rm) : List (Option Nat × Bool) → List (Option Nat × Bool)
  | a :: b :: rest => treeAdd rm a b :: treeLevel rm rest
  | l => l

/-- 96 leaves down to 3, then (0 + 1) + 2 (R132). -/
def treeSum (rm : Rm) (leaves : List (Option Nat)) : Option Nat × Bool :=
  let l0 := leaves.map fun a => (a, false)
  let l5 := treeLevel rm (treeLevel rm (treeLevel rm (treeLevel rm (treeLevel rm l0))))
  l5.foldl (treeAdd rm) (none, false)

/-- A float result with every NaN canonical (R118). -/
def canonical (a : Nat) : Nat := if f32.isNan a then f32.nan else a

/-- The identity of a reduction (R381). -/
def identity (t : Ty) (op : Nat) : Nat :=
  match op, t with
  | 0, .f32 => 0x80000000
  | 1, .i32 => 0x7FFFFFFF
  | 1, .n32 => 0xFFFFFFFF
  | 1, _ => 0x7F800000
  | 2, .i32 => 0x80000000
  | 2, .n32 => 0
  | 2, _ => 0xFF800000
  | 3, _ => 0xFFFFFFFF
  | _, _ => 0

/-- Two operands of a reduction other than a float sum combined (R381). -/
def combine (t : Ty) (op a b : Nat) : Nat :=
  match op with
  | 0 => (a + b) % 2 ^ 32
  | 1 => if t = .f32 then f32.minMax false a b else if asInt32' t b < asInt32' t a then b else a
  | 2 => if t = .f32 then f32.minMax true a b else if asInt32' t a < asInt32' t b then b else a
  | 3 => a &&& b
  | 4 => a ||| b
  | _ => a ^^^ b
where
  asInt32' (t : Ty) (a : Nat) : Int := if t = .i32 then sextInt a 32 else a

/-- The reduction of the values of the lanes of a mask, and whether a float sum was rounded. -/
def reduce (t : Ty) (op : Nat) (rm : Rm) (m : LaneMask) (v : Val) : Nat × Bool :=
  if t = .f32 && op = 0 then
    let r := treeSum rm ((List.range 96).map fun l => if m.getLsbD l then some (v.at l) else none)
    (canonical (r.1.getD (identity t op)), r.2)
  else match m.toList with
    | [] => (identity t op, false)
    | l :: ls =>
      let r := ls.foldl (fun acc j => combine t op acc (v.at j)) (v.at l)
      (if t = .f32 then canonical r else r, false)

/-- REDUX (R380, R381). -/
def execRedux (x : XArgs) (s : State) : Host.Outcome State Fault Refusal :=
  s.issue fun e s =>
    let u : Use := { srcs := [(x.a, 1)], dst := some x.dst }
    e.using s u fun fl =>
      let r := reduce x.ty (x.fn.toNat % 8) x.rm (e.active x) (e.val x (.ofTy x.ty) x.ty x.a)
      e.spread s x u { fl with inexact := r.2 } r.1

/-- SCAN: the reduction of the active lanes up to lane l, or below it (R391). -/
def execScan (x : XArgs) (s : State) : Host.Outcome State Fault Refusal :=
  s.issue fun e s =>
    let m := e.active x
    let v := e.val x (.ofTy x.ty) x.ty x.a
    e.elementwise s x 1 false (.ofTy x.ty) x.ty fun l _ _ _ =>
      let below : LaneMask := BitVec.ofNat 96 (2 ^ (if bit x.fn.toNat 3 then l else l + 1) - 1)
      .rounded (reduce x.ty (x.fn.toNat % 8) x.rm (m &&& below) v)

/-- PRMB: four bytes chosen from the eight of B and A (R165). -/
def permuteBytes (a b c : Nat) : Nat :=
  let q := b * 2 ^ 32 + a
  leNat ((List.range 4).map fun i =>
    let n := c / 16 ^ i % 16
    BitVec.ofNat 8 (if 8 ≤ n then 0 else q / 256 ^ n))

/-- PRMB (R165, R375). -/
def execPrmb (x : XArgs) (s : State) : Host.Outcome State Fault Refusal :=
  s.issue fun e s => e.elementwise s x 3 false .int .b32 fun _ a b c => .plain (permuteBytes a b c)

/-- Element (row r of register i and sub-position h) of the transposed registers: lane L of register k, sub-position p,
comes from the element whose row is that lane's place in its block (R415). -/
def transposed (q : Nat) (old : List Lanes) (k : Nat) (l : Nat) : Word :=
  let w := 32 / q
  let blk := 8 * q
  let b := l / blk
  let r := l % blk        -- the row the element came from: register r / q, sub-position r mod q
  BitVec.ofNat 32 ((List.range q).foldl (fun acc p =>
    let col := q * k + p   -- the column it came from: lane col of its block
    acc + bits (lane (old.getD (r / q) []) (blk * b + col)).toNat (w * (r % q) + w - 1) (w * (r % q)) * 2 ^ (w * p)) 0)

/-- XPOSE (R415). -/
def execXpose (x : XArgs) (s : State) : Host.Outcome State Fault Refusal :=
  s.issue fun e s =>
    let u : Use := { srcs := [(x.a, 8)], dst := some x.dst, n := 8 }
    e.using s u fun fl =>
      let q := 32 / x.ty.width
      let old := (List.range 8).map fun i => e.srcVec x.a i
      e.finish s x u fl 0 (.vec ((List.range 8).map fun k => mkLanes (transposed q old k)))

end Sys2Proof.Machine
end

