-- ==== Sys2Proof/Machine/VecCtl.lean ====
section
/-! DEFINITION. Predicates, single lanes and the divergent branch, OPC 0x80 to 0x84 (R77, R370, R373, R411). -/

namespace Sys2Proof.Machine

/-- One bit of PLOG (R370). -/
def plogBit (fn : Nat) (a b : Bool) : Bool :=
  match fn with
  | 0 => a && b
  | 1 => a || b
  | 2 => a ^^ b
  | 3 => a && !b
  | 4 => a || !b
  | 5 => !(a && b)
  | 6 => !(a || b)
  | _ => !(a ^^ b)

/-- A predicate source. -/
def Env.predOf (e : Env) : Src → LaneMask
  | .pred n => e.g.regs.pred n.toNat
  | _ => 0

/-- PLOG (R370). -/
def execPlog (x : XArgs) (s : State) : Host.Outcome State Fault Refusal :=
  s.issue fun e s =>
    let a := e.predOf x.a
    let b := e.predOf x.b
    e.finish s x {} {} 0 (.pred (mkMask fun l => plogBit (x.fn.toNat % 8) (a.getLsbD l) (b.getLsbD l)))

/-- PMOV (R373). -/
def execPmov (x : XArgs) (s : State) : Host.Outcome State Fault Refusal :=
  s.issue fun e s =>
    let u : Use := { srcs := [(x.a, 1)], dst := some x.dst }
    let w := x.fn.toNat % 4
    e.using s u fun fl =>
      let m := e.active x
      match x.dst, x.a with
      | .pred d, .scal n =>
        -- only the 32 lanes of the segment
        let v := (e.s n).toNat
        let seg := m &&& mkMask fun l => l / 32 = w
        e.flagged s fl 0 fun s1 => e.deliver s1 (.pred d) u.marks seg (.pred (mkMask fun l => bit v (l % 32)))
      | .scal _, _ => e.finish s x u fl 0 (.scal (BitVec.ofNat 64 (segment (e.predOf x.a) w)))
      | .vec _, _ => e.finish s x u fl 0 (.vec [mkLanes fun l => if (e.predOf x.a).getLsbD l then 1 else 0])
      | _, _ => e.finish s x u fl 0 (.pred (e.condition x))

/-- VGET: lane n of A, 0 beyond lane 95 (R411). -/
def execVget (x : XArgs) (s : State) : Host.Outcome State Fault Refusal :=
  s.issue fun e s =>
    let wide : Bool := x.ty = .b64
    let u : Use := { srcs := [(x.a, if wide then 2 else 1)], dst := some x.dst }
    e.using s u fun fl =>
      let n := (e.val x .int .b64 x.b).at64 0
      let v := e.val x .int .b64 x.a
      e.finish s x u fl 0 (.scal (BitVec.ofNat 64 (if 95 < n then 0 else if wide then v.at64 n else v.at n)))

/-- VPUT: lane n, if it is active (R411). -/
def execVput (x : XArgs) (s : State) : Host.Outcome State Fault Refusal :=
  s.issue fun e s =>
    let wide : Bool := x.ty = .b64
    let u : Use := { dst := some x.dst, n := if wide then 2 else 1 }
    e.using s u fun fl =>
      let n := (e.val x .int .b64 x.b).at64 0
      let v := (e.val x .int .b64 x.a).at64 0
      let rs := [mkLanes fun _ => BitVec.ofNat 32 v] ++ if wide then [mkLanes fun _ => BitVec.ofNat 32 (v / 2 ^ 32)] else []
      e.flagged s fl 0 fun s1 => e.deliver s1 x.dst [] (e.active x &&& mkMask fun l => l = n) (.vec rs)

/-- BRV: the true lanes go to the target; the other slot takes a part, or the smaller part is pushed (R77, R78, R308). -/
def execBrv (pn : Bool) (pi : BitVec 3) (off : BitVec 24) (s : State) : Host.Outcome State Fault Refusal :=
  s.issue fun e s =>
    let t := e.under pn pi
    let f := e.lanes &&& ~~~t
    let target := e.pc + off.signExtend 64 * 4
    let next := e.pc + 12
    let go (s : State) (m : LaneMask) (pc : BitVec 64) : State :=
      s.updSlot e fun x => { x.clear with pc, mask := m }
    if t = 0 then .ok (go s f next)
    else if !e.inWindow target then e.trap .illop s
    else if f = 0 then .ok (go s t target)
    else if !e.otherLive then
      .ok (go (s.upd e fun g => g.setSlot (!e.slot) { live := true, pc := target, mask := t, l0 := e.sl.l0, l1 := e.sl.l1 }) f next)
    else if e.stackCap ≤ e.g.depth then e.trap .dstkovf s
    else
      let takenSmaller : Bool := popCount 96 t.toNat ≤ popCount 96 f.toNat
      let (m, pc) := if takenSmaller then (t, target) else (f, next)
      (s.writeEntry e e.g.depth (stackEntry e.gr.k.hdr pc false m) fun s1 =>
        let s2 := s1.upd e fun g => { g with depth := g.depth + 1, stacked := g.stacked ||| m }
        .ok (if takenSmaller then go s2 f next else go s2 t target)).orUndo s

end Sys2Proof.Machine
end

