-- ==== Sys2Proof/Machine/VecFloat.lean ====
section
/-! DEFINITION. The float and conversion family, OPC 0x60 to 0x75 (R117 to R130, R321, R328 to R333, R368, R410). -/

namespace Sys2Proof.Machine

/-- A float instruction of 1 to 3 sources of type TY (R328, R329). -/
def floatOp (x : XArgs) (n : Nat) (f : Fmt → Nat → Nat → Nat → Nat × Bool) (s : State) :
    Host.Outcome State Fault Refusal :=
  s.issue fun e s => e.elementwise s x n false (.ofTy x.ty) x.ty fun _ a b c =>
    let t := fmtOf x.ty
    .rounded (f t (a % (2 * t.sign)) (b % (2 * t.sign)) (c % (2 * t.sign)))

/-- FADD (R330). -/
def execFadd (x : XArgs) (s : State) : Host.Outcome State Fault Refusal :=
  floatOp x 2 (fun t a b _ => t.add x.rm a b) s

/-- FSUB (R330). -/
def execFsub (x : XArgs) (s : State) : Host.Outcome State Fault Refusal :=
  floatOp x 2 (fun t a b _ => t.sub x.rm a b) s

/-- FMUL (R330). -/
def execFmul (x : XArgs) (s : State) : Host.Outcome State Fault Refusal :=
  floatOp x 2 (fun t a b _ => t.mul x.rm a b) s

/-- FMA: one rounding (R119, R330). -/
def execFma (x : XArgs) (s : State) : Host.Outcome State Fault Refusal :=
  floatOp x 3 (fun t a b c => t.fma x.rm a b c) s

/-- FMIN (R118, R328). -/
def execFmin (x : XArgs) (s : State) : Host.Outcome State Fault Refusal :=
  floatOp x 2 (fun t a b _ => (t.minMax false a b, false)) s

/-- FMAX (R118, R328). -/
def execFmax (x : XArgs) (s : State) : Host.Outcome State Fault Refusal :=
  floatOp x 2 (fun t a b _ => (t.minMax true a b, false)) s

/-- FCMP: the condition in each active lane's bit (R331). -/
def execFcmp (x : XArgs) (s : State) : Host.Outcome State Fault Refusal :=
  floatOp x 2 (fun t a b _ => ((t.cmp x.fn.toNat a b).toNat, false)) s

/-- FABS: the sign cleared, a NaN canonical (R330). -/
def execFabs (x : XArgs) (s : State) : Host.Outcome State Fault Refusal :=
  floatOp x 1 (fun t a _ _ => (if t.isNan a then t.nan else a % t.sign, false)) s

/-- FNEG: the sign inverted, a NaN canonical (R330). -/
def execFneg (x : XArgs) (s : State) : Host.Outcome State Fault Refusal :=
  floatOp x 1 (fun t a _ _ => (if t.isNan a then t.nan else if a < t.sign then a + t.sign else a - t.sign, false)) s

/-- FRCP (R130, R333). -/
def execFrcp (x : XArgs) (s : State) : Host.Outcome State Fault Refusal :=
  floatOp x 1 (fun _ a _ _ => special .rcp x.rm a) s

/-- FRCPZ (R130, R333). -/
def execFrcpz (x : XArgs) (s : State) : Host.Outcome State Fault Refusal :=
  floatOp x 1 (fun _ a _ _ => special .rcpz x.rm a) s

/-- FRSQ (R130, R333). -/
def execFrsq (x : XArgs) (s : State) : Host.Outcome State Fault Refusal :=
  floatOp x 1 (fun _ a _ _ => special .rsq x.rm a) s

/-- FSQRT (R130, R333). -/
def execFsqrt (x : XArgs) (s : State) : Host.Outcome State Fault Refusal :=
  floatOp x 1 (fun _ a _ _ => special .sqrt x.rm a) s

/-- FEXP2 (R130, R333). -/
def execFexp2 (x : XArgs) (s : State) : Host.Outcome State Fault Refusal :=
  floatOp x 1 (fun _ a _ _ => special .exp2 x.rm a) s

/-- FEXP (R130, R333). -/
def execFexp (x : XArgs) (s : State) : Host.Outcome State Fault Refusal :=
  floatOp x 1 (fun _ a _ _ => special .exp x.rm a) s

/-- FLOG2 (R130, R333). -/
def execFlog2 (x : XArgs) (s : State) : Host.Outcome State Fault Refusal :=
  floatOp x 1 (fun _ a _ _ => special .log2 x.rm a) s

/-- FSIN (R130, R333). -/
def execFsin (x : XArgs) (s : State) : Host.Outcome State Fault Refusal :=
  floatOp x 1 (fun _ a _ _ => special .sin x.rm a) s

/-- FCOS (R130, R333). -/
def execFcos (x : XArgs) (s : State) : Host.Outcome State Fault Refusal :=
  floatOp x 1 (fun _ a _ _ => special .cos x.rm a) s

/-- FCLASS: one bit by class (R332). -/
def execFclass (x : XArgs) (s : State) : Host.Outcome State Fault Refusal :=
  floatOp x 1 (fun t a _ _ => (2 ^ t.classOf a, false)) s

/-- The type whose TY code is the low bits of a field (R321, R368, R410). -/
def tyCode (n : Nat) : Ty := (Ty.ofCode (n % 16)).getD .b32

/-- CVT: one value a lane, from the type in FN to TY (R321). -/
def execCvt (x : XArgs) (s : State) : Host.Outcome State Fault Refusal :=
  s.issue fun e s =>
    let src := tyCode x.fn.toNat
    e.elementwise s x 1 false (.ofTy src) src fun _ a _ _ => .rounded (convert src x.ty x.rm a)

/-- PACK: A converted, as element j of a copy of B (R368). -/
def execPack (x : XArgs) (s : State) : Host.Outcome State Fault Refusal :=
  s.issue fun e s =>
    let src := tyCode x.xf.toNat
    let w := x.ty.width
    e.elementwise s x 2 false (.ofTy src) src fun _ a b _ =>
      let r := convert src x.ty x.rm a
      .rounded (setBits b (w * (x.fn.toNat % 8)) w r.1, r.2)

/-- UNPK: element j of A converted (R410). -/
def execUnpk (x : XArgs) (s : State) : Host.Outcome State Fault Refusal :=
  s.issue fun e s =>
    let src := tyCode x.xf.toNat
    e.elementwise s x 1 false .int x.ty fun _ a _ _ =>
      .rounded (convert src x.ty x.rm (a / 2 ^ (src.width * (x.fn.toNat % 8))))

end Sys2Proof.Machine
end

