-- ==== Sys2Proof/Machine/VecInt.lean ====
section
/-! DEFINITION. The vector integer family, OPC 0x40 to 0x5C (R121, R122, R128, R129, R164, R190, R293, R301,
R302, R307, R338 to R340, R360, R361, R367, R374, R395, R398, R414). -/

namespace Sys2Proof.Machine

/-- An instruction of 32-bit lanes that sets no flag of its own; sources count 1 to 3. -/
def vectorOp (x : XArgs) (n : Nat) (f : Nat → Nat → Nat → Nat) (s : State) : Host.Outcome State Fault Refusal :=
  s.issue fun e s => e.elementwise s x n false .int x.ty fun _ a b c => .plain (f a b c % 2 ^ 32)

/-- A lane as the number its type says: signed for i32 (R120). -/
def asInt32 (t : Ty) (a : Nat) : Int := if t = .i32 then sextInt a 32 else a

/-- IADD: (A + B) mod 2^32 (R338). -/
def execIadd (x : XArgs) (s : State) : Host.Outcome State Fault Refusal :=
  vectorOp x 2 (fun a b _ => a + b) s

/-- ISUB: (A - B) mod 2^32 (R338). -/
def execIsub (x : XArgs) (s : State) : Host.Outcome State Fault Refusal :=
  vectorOp x 2 (fun a b _ => a + 2 ^ 32 - b) s

/-- IMUL: (A × B) mod 2^32 (R338). -/
def execImul (x : XArgs) (s : State) : Host.Outcome State Fault Refusal :=
  vectorOp x 2 (fun a b _ => a * b) s

/-- IMULHI: bits [63:32] of the product, signed or unsigned (R122, R338). -/
def execImulhi (x : XArgs) (s : State) : Host.Outcome State Fault Refusal :=
  vectorOp x 2 (fun a b _ => wrap (asInt32 x.ty a * asInt32 x.ty b / 2 ^ 32) 32) s

/-- IMAD: (A × B + C) mod 2^32 (R338). -/
def execImad (x : XArgs) (s : State) : Host.Outcome State Fault Refusal :=
  vectorOp x 3 (fun a b c => a * b + c) s

/-- IDIV (R128, R129, R340). -/
def execIdiv (x : XArgs) (s : State) : Host.Outcome State Fault Refusal :=
  s.issue fun e s => e.elementwise s x 2 false .int x.ty fun _ a b _ => .quotient 32 (x.ty = .i32) a b

/-- IREM (R128, R129, R340). -/
def execIrem (x : XArgs) (s : State) : Host.Outcome State Fault Refusal :=
  s.issue fun e s => e.elementwise s x 2 false .int x.ty fun _ a b _ => .remainder 32 (x.ty = .i32) a b

/-- INEG: (-A) mod 2^32 (R338). -/
def execIneg (x : XArgs) (s : State) : Host.Outcome State Fault Refusal :=
  vectorOp x 1 (fun a _ _ => 2 ^ 32 - a) s

/-- IABS: |A| mod 2^32 (R121, R338). -/
def execIabs (x : XArgs) (s : State) : Host.Outcome State Fault Refusal :=
  vectorOp x 1 (fun a _ _ => (sextInt a 32).natAbs) s

/-- IMIN (R338). -/
def execImin (x : XArgs) (s : State) : Host.Outcome State Fault Refusal :=
  vectorOp x 2 (fun a b _ => if asInt32 x.ty b < asInt32 x.ty a then b else a) s

/-- IMAX (R338). -/
def execImax (x : XArgs) (s : State) : Host.Outcome State Fault Refusal :=
  vectorOp x 2 (fun a b _ => if asInt32 x.ty a < asInt32 x.ty b then b else a) s

/-- The conditions of ICMP (R136). -/
def icmpCond (fn : BitVec 5) (a b : Int) : Bool :=
  match fn.toNat with
  | 0 => a = b
  | 1 => a ≠ b
  | 2 => a < b
  | 3 => a ≤ b
  | 4 => b < a
  | _ => b ≤ a

/-- ICMP: the condition in each active lane's bit (R136, R339). -/
def execIcmp (x : XArgs) (s : State) : Host.Outcome State Fault Refusal :=
  vectorOp x 2 (fun a b _ => (icmpCond x.fn (asInt32 x.ty a) (asInt32 x.ty b)).toNat) s

/-- SHL: A × 2^(B mod 32) (R398). -/
def execShl (x : XArgs) (s : State) : Host.Outcome State Fault Refusal :=
  vectorOp x 2 (fun a b _ => a * 2 ^ (b % 32)) s

/-- SHR: zeros in (R398). -/
def execShr (x : XArgs) (s : State) : Host.Outcome State Fault Refusal :=
  vectorOp x 2 (fun a b _ => a / 2 ^ (b % 32)) s

/-- SAR: copies of bit 31 in (R398). -/
def execSar (x : XArgs) (s : State) : Host.Outcome State Fault Refusal :=
  vectorOp x 2 (fun a b _ => wrap (sextInt a 32 / 2 ^ (b % 32)) 32) s

/-- ROTL (R398). -/
def execRotl (x : XArgs) (s : State) : Host.Outcome State Fault Refusal :=
  vectorOp x 2 (fun a b _ => a * 2 ^ (b % 32) % 2 ^ 32 + a / 2 ^ (32 - b % 32)) s

/-- AND (R293). -/
def execAnd (x : XArgs) (s : State) : Host.Outcome State Fault Refusal :=
  vectorOp x 2 (fun a b _ => a &&& b) s

/-- OR (R367). -/
def execOr (x : XArgs) (s : State) : Host.Outcome State Fault Refusal :=
  vectorOp x 2 (fun a b _ => a ||| b) s

/-- XOR (R414). -/
def execXor (x : XArgs) (s : State) : Host.Outcome State Fault Refusal :=
  vectorOp x 2 (fun a b _ => a ^^^ b) s

/-- NOT (R367). -/
def execNot (x : XArgs) (s : State) : Host.Outcome State Fault Refusal :=
  vectorOp x 1 (fun a _ _ => 2 ^ 32 - 1 - a) s

/-- ANDN: A & ~B (R293). -/
def execAndn (x : XArgs) (s : State) : Host.Outcome State Fault Refusal :=
  vectorOp x 2 (fun a b _ => a &&& (2 ^ 32 - 1 - b)) s

/-- POPC: number of one bits (R190, R374). -/
def execPopc (x : XArgs) (s : State) : Host.Outcome State Fault Refusal :=
  vectorOp x 1 (fun a _ _ => popCount 32 a) s

/-- CLZ: zero bits above the highest set bit, 32 for zero (R307). -/
def execClz (x : XArgs) (s : State) : Host.Outcome State Fault Refusal :=
  vectorOp x 1 (fun a _ _ => if a = 0 then 32 else 31 - Nat.log2 a) s

/-- A 32-bit number with its bits reversed (R307). -/
def reverse32 (a : Nat) : Nat := (List.range 32).foldl (fun r i => 2 * r + (a / 2 ^ i) % 2) 0

/-- BREV: bit i is bit 31 - i of A (R307). -/
def execBrev (x : XArgs) (s : State) : Host.Outcome State Fault Refusal :=
  vectorOp x 1 (fun a _ _ => reverse32 a) s

/-- The field BFE extracts (R164). -/
def bitField (isSigned : Bool) (a b c : Nat) : Nat :=
  let p := b % 32
  let w := min (c % 64) (32 - p)
  let f := a / 2 ^ p % 2 ^ w
  if isSigned then wrap (sextInt f w) 32 else f

/-- BFE (R164, R301). -/
def execBfe (x : XArgs) (s : State) : Host.Outcome State Fault Refusal :=
  vectorOp x 3 (fun a b c => bitField (x.ty = .i32) a b c) s

/-- B with the low bits of A inserted where C says (R302). -/
def insertField (a b c : Nat) : Nat :=
  let p := c % 32
  setBits b p (min (c / 256 % 64) (32 - p)) a

/-- BFI (R302). -/
def execBfi (x : XArgs) (s : State) : Host.Outcome State Fault Refusal :=
  vectorOp x 3 (fun a b c => insertField a b c) s

/-- SEL: A where bit l of pC is 1, else B (R395). -/
def execSel (x : XArgs) (s : State) : Host.Outcome State Fault Refusal :=
  s.issue fun e s =>
    let p := match x.c with
      | .pred n => e.g.regs.pred n.toNat
      | _ => 0
    e.elementwise s x 2 (x.ty = .b64) (.ofTy x.ty) x.ty fun l a b _ => .plain (if p.getLsbD l then a else b)

/-- MOV (R360). -/
def execMov (x : XArgs) (s : State) : Host.Outcome State Fault Refusal :=
  s.issue fun e s => e.elementwise s x 1 (x.ty = .b64) (.ofTy x.ty) x.ty fun _ a _ _ => .plain a

/-- MOVI: A + l·B in lane l (R361). -/
def execMovi (x : XArgs) (s : State) : Host.Outcome State Fault Refusal :=
  s.issue fun e s => e.elementwise s x 2 false .int x.ty fun l a b _ => .plain (a + l * b)

end Sys2Proof.Machine
end

