-- ==== Sys2Proof/Machine/Dispatch.lean ====
section
/-! DEFINITION. Which meaning each row of the opcode table has. -/

namespace Sys2Proof.Machine

open Sys2Proof

/-- What the instruction or event of one row does to the machine. -/
def exec (i : Instr) (s : State) : Host.Outcome State Fault Refusal :=
  match i with
  | .nop => Sys2Proof.Machine.execNop s
  | .br off => Sys2Proof.Machine.execBr off s
  | .brc c cc off => Sys2Proof.Machine.execBrc c cc off s
  | .call off => Sys2Proof.Machine.execCall off s
  | .ret => Sys2Proof.Machine.execRet s
  | .brx a => Sys2Proof.Machine.execBrx a s
  | .exit => Sys2Proof.Machine.execExit s
  | .join => Sys2Proof.Machine.execJoin s
  | .bar d n e => Sys2Proof.Machine.execBar d n e s
  | .barArrive d n e => Sys2Proof.Machine.execBarArrive d n e s
  | .fence kind scope => Sys2Proof.Machine.execFence kind scope s
  | .acq d a space ex => Sys2Proof.Machine.execAcq d a space ex s
  | .rel a space => Sys2Proof.Machine.execRel a space s
  | .bind k a b space => Sys2Proof.Machine.execBind k a b space s
  | .unbind k space => Sys2Proof.Machine.execUnbind k space s
  | .waitc cls n => Sys2Proof.Machine.execWaitc cls n s
  | .mbatch d => Sys2Proof.Machine.execMbatch d s
  | .mwait a => Sys2Proof.Machine.execMwait a s
  | .susp c a b n => Sys2Proof.Machine.execSusp c a b n s
  | .evsig d a b => Sys2Proof.Machine.execEvsig d a b s
  | .acqr => Sys2Proof.Machine.execAcqr s
  | .rela => Sys2Proof.Machine.execRela s
  | .setb d n => Sys2Proof.Machine.execSetb d n s
  | .launch d a => Sys2Proof.Machine.execLaunch d a s
  | .trap n => Sys2Proof.Machine.execTrap n s
  | .eret => Sys2Proof.Machine.execEret s
  | .eretSkip => Sys2Proof.Machine.execEretSkip s
  | .rdsr d n => Sys2Proof.Machine.execRdsr d n s
  | .wrsr a n => Sys2Proof.Machine.execWrsr a n s
  | .bkpt n => Sys2Proof.Machine.execBkpt n s
  | .mpx p => Sys2Proof.Machine.execMpx p s
  | .seal d a => Sys2Proof.Machine.execSeal d a s
  | .sealRel d b => Sys2Proof.Machine.execSealRel d b s
  | .stepcmt d => Sys2Proof.Machine.execStepcmt d s
  | .qmov d a check => Sys2Proof.Machine.execQmov d a check s
  | .sadd d a b => Sys2Proof.Machine.execSadd d a b s
  | .ssub d a b => Sys2Proof.Machine.execSsub d a b s
  | .smul d a b => Sys2Proof.Machine.execSmul d a b s
  | .smulhi d a b => Sys2Proof.Machine.execSmulhi d a b s
  | .sand d a b => Sys2Proof.Machine.execSand d a b s
  | .sor d a b => Sys2Proof.Machine.execSor d a b s
  | .sxor d a b => Sys2Proof.Machine.execSxor d a b s
  | .sshl d a b => Sys2Proof.Machine.execSshl d a b s
  | .sshr d a b => Sys2Proof.Machine.execSshr d a b s
  | .ssar d a b => Sys2Proof.Machine.execSsar d a b s
  | .smov d a => Sys2Proof.Machine.execSmov d a s
  | .sli d imm => Sys2Proof.Machine.execSli d imm s
  | .sliLit d lit => Sys2Proof.Machine.execSliLit d lit s
  | .scmp d a b cond => Sys2Proof.Machine.execScmp d a b cond s
  | .sbfe d a b signed => Sys2Proof.Machine.execSbfe d a b signed s
  | .sffs d a hi => Sys2Proof.Machine.execSffs d a hi s
  | .spopc d a => Sys2Proof.Machine.execSpopc d a s
  | .ssel d a b => Sys2Proof.Machine.execSsel d a b s
  | .sdiv d a b mode => Sys2Proof.Machine.execSdiv d a b mode s
  | .smin d a b unsigned => Sys2Proof.Machine.execSmin d a b unsigned s
  | .smax d a b unsigned => Sys2Proof.Machine.execSmax d a b unsigned s
  | .saddi d a imm => Sys2Proof.Machine.execSaddi d a imm s
  | .saddiLit d a lit => Sys2Proof.Machine.execSaddiLit d a lit s
  | .sldu d a imm => Sys2Proof.Machine.execSldu d a imm s
  | .slduLit d a lit => Sys2Proof.Machine.execSlduLit d a lit s
  | .sstu d a imm => Sys2Proof.Machine.execSstu d a imm s
  | .sstuLit d a lit => Sys2Proof.Machine.execSstuLit d a lit s
  | .iadd x => Sys2Proof.Machine.execIadd x s
  | .isub x => Sys2Proof.Machine.execIsub x s
  | .imul x => Sys2Proof.Machine.execImul x s
  | .imulhi x => Sys2Proof.Machine.execImulhi x s
  | .imad x => Sys2Proof.Machine.execImad x s
  | .idiv x => Sys2Proof.Machine.execIdiv x s
  | .irem x => Sys2Proof.Machine.execIrem x s
  | .ineg x => Sys2Proof.Machine.execIneg x s
  | .iabs x => Sys2Proof.Machine.execIabs x s
  | .imin x => Sys2Proof.Machine.execImin x s
  | .imax x => Sys2Proof.Machine.execImax x s
  | .icmp x => Sys2Proof.Machine.execIcmp x s
  | .shl x => Sys2Proof.Machine.execShl x s
  | .shr x => Sys2Proof.Machine.execShr x s
  | .sar x => Sys2Proof.Machine.execSar x s
  | .rotl x => Sys2Proof.Machine.execRotl x s
  | .and x => Sys2Proof.Machine.execAnd x s
  | .or x => Sys2Proof.Machine.execOr x s
  | .xor x => Sys2Proof.Machine.execXor x s
  | .not x => Sys2Proof.Machine.execNot x s
  | .andn x => Sys2Proof.Machine.execAndn x s
  | .popc x => Sys2Proof.Machine.execPopc x s
  | .clz x => Sys2Proof.Machine.execClz x s
  | .brev x => Sys2Proof.Machine.execBrev x s
  | .bfe x => Sys2Proof.Machine.execBfe x s
  | .bfi x => Sys2Proof.Machine.execBfi x s
  | .sel x => Sys2Proof.Machine.execSel x s
  | .mov x => Sys2Proof.Machine.execMov x s
  | .movi x => Sys2Proof.Machine.execMovi x s
  | .fadd x => Sys2Proof.Machine.execFadd x s
  | .fsub x => Sys2Proof.Machine.execFsub x s
  | .fmul x => Sys2Proof.Machine.execFmul x s
  | .fma x => Sys2Proof.Machine.execFma x s
  | .fmin x => Sys2Proof.Machine.execFmin x s
  | .fmax x => Sys2Proof.Machine.execFmax x s
  | .fcmp x => Sys2Proof.Machine.execFcmp x s
  | .fabs x => Sys2Proof.Machine.execFabs x s
  | .fneg x => Sys2Proof.Machine.execFneg x s
  | .frcp x => Sys2Proof.Machine.execFrcp x s
  | .frcpz x => Sys2Proof.Machine.execFrcpz x s
  | .frsq x => Sys2Proof.Machine.execFrsq x s
  | .fsqrt x => Sys2Proof.Machine.execFsqrt x s
  | .fexp2 x => Sys2Proof.Machine.execFexp2 x s
  | .fexp x => Sys2Proof.Machine.execFexp x s
  | .flog2 x => Sys2Proof.Machine.execFlog2 x s
  | .fsin x => Sys2Proof.Machine.execFsin x s
  | .fcos x => Sys2Proof.Machine.execFcos x s
  | .fclass x => Sys2Proof.Machine.execFclass x s
  | .cvt x => Sys2Proof.Machine.execCvt x s
  | .pack x => Sys2Proof.Machine.execPack x s
  | .unpk x => Sys2Proof.Machine.execUnpk x s
  | .shfl x => Sys2Proof.Machine.execShfl x s
  | .ballot x => Sys2Proof.Machine.execBallot x s
  | .vote x => Sys2Proof.Machine.execVote x s
  | .matchLanes x => Sys2Proof.Machine.execMatchLanes x s
  | .redux x => Sys2Proof.Machine.execRedux x s
  | .scan x => Sys2Proof.Machine.execScan x s
  | .prmb x => Sys2Proof.Machine.execPrmb x s
  | .xpose x => Sys2Proof.Machine.execXpose x s
  | .brv pn pi off => Sys2Proof.Machine.execBrv pn pi off s
  | .plog x => Sys2Proof.Machine.execPlog x s
  | .pmov x => Sys2Proof.Machine.execPmov x s
  | .vget x => Sys2Proof.Machine.execVget x s
  | .vput x => Sys2Proof.Machine.execVput x s
  | .lds x => Sys2Proof.Machine.execLds x s
  | .sts x => Sys2Proof.Machine.execSts x s
  | .ats x => Sys2Proof.Machine.execAts x s
  | .ldg x => Sys2Proof.Machine.execLdg x s
  | .stg x => Sys2Proof.Machine.execStg x s
  | .atg x => Sys2Proof.Machine.execAtg x s
  | .pfg x => Sys2Proof.Machine.execPfg x s
  | .gset x => Sys2Proof.Machine.execGset x s
  | .ldf x => Sys2Proof.Machine.execLdf x s
  | .stf x => Sys2Proof.Machine.execStf x s
  | .atf x => Sys2Proof.Machine.execAtf x s
  | .ldk x => Sys2Proof.Machine.execLdk x s
  | .reqld x => Sys2Proof.Machine.execReqld x s
  | .reqst x => Sys2Proof.Machine.execReqst x s
  | .cpy x => Sys2Proof.Machine.execCpy x s
  | .gath x => Sys2Proof.Machine.execGath x s
  | .scat x => Sys2Proof.Machine.execScat x s
  | .coll x => Sys2Proof.Machine.execColl x s
  | .cpyf x => Sys2Proof.Machine.execCpyf x s
  | .cntrd x => Sys2Proof.Machine.execCntrd x s
  | .mma x => Sys2Proof.Machine.execMma x s
  | .mmas x => Sys2Proof.Machine.execMmas x s
  | .mqk x => Sys2Proof.Machine.execMqk x s
  | .msmx x => Sys2Proof.Machine.execMsmx x s
  | .mzero x => Sys2Proof.Machine.execMzero x s
  | .mldt x => Sys2Proof.Machine.execMldt x s
  | .mstt x => Sys2Proof.Machine.execMstt x s
  | .tmask x => Sys2Proof.Machine.execTmask x s
  | .plwadd x => Sys2Proof.Machine.execPlwadd x s
  | .plwrd x => Sys2Proof.Machine.execPlwrd x s
  | .rsmp x => Sys2Proof.Machine.execRsmp x s
  | .pmap x => Sys2Proof.Machine.execPmap x s
  | .rngx x => Sys2Proof.Machine.execRngx x s
  | .drawc x => Sys2Proof.Machine.execDrawc x s
  | .specv x => Sys2Proof.Machine.execSpecv x s
  | .sigrd x => Sys2Proof.Machine.execSigrd x s
  | .loadCompletion g id lanes => Sys2Proof.Machine.execLoadCompletion g id lanes s
  | .fullEmptyWake g slot => Sys2Proof.Machine.execFullEmptyWake g slot s
  | .engineCompletion g cls idx units => Sys2Proof.Machine.execEngineCompletion g cls idx units s
  | .matrixCompletion g idx units => Sys2Proof.Machine.execMatrixCompletion g idx units s
  | .acqrGrant core part => Sys2Proof.Machine.execAcqrGrant core part s
  | .keyGrant ctx key => Sys2Proof.Machine.execKeyGrant ctx key s
  | .suspResume g => Sys2Proof.Machine.execSuspResume g s
  | .groupRetire g => Sys2Proof.Machine.execGroupRetire g s
  | .completionSignal n => Sys2Proof.Machine.execCompletionSignal n s
  | .dispatchTeam => Sys2Proof.Machine.execDispatchTeam s
  | .pendingDisplace core part g => Sys2Proof.Machine.execPendingDisplace core part g s
  | .growAllocate ctx page => Sys2Proof.Machine.execGrowAllocate ctx page s
  | .cowCopy ctx page => Sys2Proof.Machine.execCowCopy ctx page s
  | .pageReply vf reply => Sys2Proof.Machine.execPageReply vf reply s
  | .fabricIngress op => Sys2Proof.Machine.execFabricIngress op s
  | .notHome id => Sys2Proof.Machine.execNotHome id s
  | .pageMigrate vf ctx page dest => Sys2Proof.Machine.execPageMigrate vf ctx page dest s
  | .rootExpiry ctx page => Sys2Proof.Machine.execRootExpiry ctx page s
  | .invalidate vf cmd => Sys2Proof.Machine.execInvalidate vf cmd s
  | .sync vf cmd => Sys2Proof.Machine.execSync vf cmd s
  | .flushRouteHints vf cmd => Sys2Proof.Machine.execFlushRouteHints vf cmd s
  | .start vf cmd => Sys2Proof.Machine.execStart vf cmd s
  | .preempt vf cmd => Sys2Proof.Machine.execPreempt vf cmd s
  | .restore vf cmd => Sys2Proof.Machine.execRestore vf cmd s
  | .terminate vf cmd => Sys2Proof.Machine.execTerminate vf cmd s
  | .hlaunch vf cmd => Sys2Proof.Machine.execHlaunch vf cmd s
  | .submission vf value => Sys2Proof.Machine.execSubmission vf value s
  | .recordWindowWrite src rid off bytes => Sys2Proof.Machine.execRecordWindowWrite src rid off bytes s
  | .stepStart vf k => Sys2Proof.Machine.execStepStart vf k s
  | .stepGridLaunch vf k => Sys2Proof.Machine.execStepGridLaunch vf k s
  | .crozierCommit vf k => Sys2Proof.Machine.execCrozierCommit vf k s
  | .sporangiumComplete rid => Sys2Proof.Machine.execSporangiumComplete rid s
  | .deadlineExpiry rid => Sys2Proof.Machine.execDeadlineExpiry rid s
  | .auditReexecution n core corrupt => Sys2Proof.Machine.execAuditReexecution n core corrupt s
  | .auditVerdict n => Sys2Proof.Machine.execAuditVerdict n s
  | .replayCheck core part mismatch physLane => Sys2Proof.Machine.execReplayCheck core part mismatch physLane s
  | .scoreDecay core => Sys2Proof.Machine.execScoreDecay core s
  | .laneDiagnosisEnd core failing => Sys2Proof.Machine.execLaneDiagnosisEnd core failing s
  | .coreReturnToService core => Sys2Proof.Machine.execCoreReturnToService core s
  | .laneSpareSwitch g uncorrectable => Sys2Proof.Machine.execLaneSpareSwitch g uncorrectable s
  | .uncorrectableError g => Sys2Proof.Machine.execUncorrectableError g s
  | .barrierWatchdogExpiry team n => Sys2Proof.Machine.execBarrierWatchdogExpiry team n s
  | .budgetPeriodStart => Sys2Proof.Machine.execBudgetPeriodStart s
  | .powerStepDown avgMilliwatt => Sys2Proof.Machine.execPowerStepDown avgMilliwatt s
  | .powerStepUp avgMilliwatt => Sys2Proof.Machine.execPowerStepUp avgMilliwatt s
  | .moduleReset r => Sys2Proof.Machine.execModuleReset r s
  | .hbmRegionFill => Sys2Proof.Machine.execHbmRegionFill s
  | .vfReset vf => Sys2Proof.Machine.execVfReset vf s
  | .vfGrantWrite vf off value => Sys2Proof.Machine.execVfGrantWrite vf off value s
  | .streamDescriptorWrite vf k desc => Sys2Proof.Machine.execStreamDescriptorWrite vf k desc s
  | .portGenWrite port value => Sys2Proof.Machine.execPortGenWrite port value s
  | .portRetrainDone port up => Sys2Proof.Machine.execPortRetrainDone port up s
  | .areq value => Sys2Proof.Machine.execAreq value s
  | .registerWrite off value => Sys2Proof.Machine.execRegisterWrite off value s
  | .storePerformed id scope => Sys2Proof.Machine.execStorePerformed id scope s
  | .fabricReply id rep => Sys2Proof.Machine.execFabricReply id rep s

end Sys2Proof.Machine
end

