-- ==== Sys2Proof/Machine/Turn.lean ====
section
/-! DEFINITION. One move of the machine: an issue from a slot, an event, or time passing; and how a program is placed
so that the next move runs it (R31, R62, R81, R94, R252; logs 21, 45). -/

namespace Sys2Proof.Machine

/-! ### The move that is made -/

/-- Steps of the module's own units that may have something to do: pages that wait, step streams, and operations of other modules
that wait here. -/
def State.unitEvents (s : State) : List Instr :=
  (s.wants.map fun w => [Instr.growAllocate w.ctx w.page, Instr.cowCopy w.ctx w.page]).flatten
    ++ (s.vfs.map fun p => (p.2.streams.zipIdx.map fun (x : Stream × Nat) => match x.1.phase with
      | .idle => if sdEn x.1.desc then [Instr.stepStart p.1 x.2] else []
      | .writing => [Instr.stepStart p.1 x.2]
      | .launching _ => [Instr.stepGridLaunch p.1 x.2]
      | .running _ _ => [Instr.stepGridLaunch p.1 x.2, Instr.crozierCommit p.1 x.2]
      | .committing | .failed _ _ => [Instr.crozierCommit p.1 x.2]
      | .killed => []).flatten).flatten
    ++ s.fabHeld.map Instr.fabricIngress

/-- The move of a step that the schedule does not name: internal steps and slots in rotation, else time passes. -/
def State.defaultMove (s : State) : Move :=
  let l := (s.pendingEvents ++ s.unitEvents).map Move.event ++ s.issuable
  (l[s.cycle % l.length]?).getD (.tick 1)

/-- The next move, and the state without it in its schedule. -/
def State.nextMove (s : State) : Move × State :=
  match s.due, s.sched with
  | i :: _, _ => (.event i, s)
  | [], m :: ms => (m, { s with sched := ms })
  | [], [] => (s.defaultMove, s)

/-! ### Making a move -/

/-- What a budget that is renewed lets go on: deferred traffic, and counters to look at (R66). -/
def State.deferredRun (s : State) : State :=
  let s1 := if s.egress = [] then s else s.flushEgress
  s1.lookAgain

/-- What the module's units go on with after every move: frames to fill with zeros, commands of the invalidation queue, host
launches, a report that is performed, mappings by hosts, saves and context commands, and deferred traffic (R66, R208, R210, R263,
R265, R270, R282, R287). -/
def State.units (s : State) : State :=
  let s1 := s.scrubRun s.scrub
  (((((s1.invRun s1.invq.length).retryLaunches).attestEnd.mapsRun).savesRun).commandsRun).deferredRun

/-- What follows every move: units go on, groups of grids that are gone are forgotten, and the active sets are kept (R62). -/
def State.after (s : State) : State := (({ s with cur := none }.units).sweep).swapAll

/-- The state of an outcome changed. -/
def mapNext (f : State → State) : Host.Outcome State Fault Refusal → Host.Outcome State Fault Refusal
  | .next s => .next (f s)
  | .fault r => .fault r
  | .refused r => .refused r

/-- A unit that is an MPX and the instruction it prefixes: the MPX, then the instruction where the pairing is legal (R94). -/
def runPrefixed (p : Prefix) (s : State) : Host.Outcome State Fault Refusal :=
  match exec (.mpx p) s with
  | .next s1 => match s1.cur with
    | some u => match u.pfx, u.next with
      | some _, some i => exec i s1
      | _, _ => .next s1
    | none => .next s1
  | r => r

/-- The fetched unit executed. -/
def runUnit (i : Instr) (s : State) : Host.Outcome State Fault Refusal :=
  match i with
  | .mpx p => runPrefixed p s
  | i => exec i s

/-- The instruction that a unit executes for its slot: the one an MPX prefixes, or the unit's own (R94). -/
def Env.subject (e : Env) (i : Instr) : Instr :=
  match i, e.next with
  | .mpx p, some j => if pairOk p j then j else i
  | i, _ => i

/-- Whether a slot of a group still waits at an address. -/
def State.stillWaits (s : State) (gid : Nat) (slot : Bool) (pc : BitVec 64) : Bool :=
  match s.group? gid with
  | none => false
  | some g => (g.slot slot).live && (g.slot slot).wait ≠ .ready && (g.slot slot).pc = pc

/-- A slot of a group that waits for its place in the order of the two slots (R244, R251). -/
def State.outOfTurn (s : State) (gid : Nat) (slot : Bool) : State :=
  (s.modGroup gid fun g => g.modSlot slot fun x => { x with wait := .order }).after

/-- A slot whose wait is over: it issues its instruction again when its partition selects it. -/
def State.resumes (s : State) (gid : Nat) (slot : Bool) : State :=
  (s.modGroup gid fun g => g.modSlot slot fun x => { x with wait := .ready }).after

/-- Whether a group took a trap, in a re-execution whose log has the other slot's entry first (R244). -/
def Env.trapsEarly (e : Env) (s : State) : Bool :=
  e.otherLive && e.g.handler.isNone && (match e.g.audit with
    | .replay _ (x :: _) _ => x.slot ≠ e.slot && (match s.group? e.gid with
      | some g => g.handler.isSome
      | none => false)
    | _ => false)

/-- The decoded unit executed for its slot: a trap that the log of a re-execution tells is taken (R244). -/
def State.runFor (s : State) (e : Env) (i : Instr) : Host.Outcome State Fault Refusal :=
  match e.loggedTrap with
  | some (code, info, lanes) => .next (s.takeTrap e code info lanes)
  | none => runUnit i s

/-- A ready slot's issue: fetch, decode, and the instruction's meaning, where it is the slot's turn. -/
def State.issueReady (s : State) (gid : Nat) (slot : Bool) : Host.Outcome State Fault Refusal :=
  match (s.noteIssue gid slot).fetchUnit gid slot with
  | .over s1 => .next s1.after
  | .run i s1 => match s1.env? with
    | none => .next s1.after
    | some e =>
      let j := e.subject i
      if !e.turn s1 j then .next (s.outOfTurn gid slot)
      else match s1.runFor e i with
        | .next s2 => .next (if e.trapsEarly s2 then s.outOfTurn gid slot else (s2.replayEnter e j).after)
        | r => r

/-- A waiting slot's instruction tried again. While it still waits, what the attempt did stays; where its wait is over, the
slot is ready (R31, R62). -/
def State.tryWaiting (s : State) (gid : Nat) (slot : Bool) (pc : BitVec 64) : Host.Outcome State Fault Refusal :=
  match s.fetchUnit gid slot with
  | .over s1 => .next (if s1.stillWaits gid slot pc then s1.after else s.resumes gid slot)
  | .run i s1 => match s1.env? with
    | none => .next s1.after
    | some e =>
      if !e.turn s1 (e.subject i) then .next s.after
      else match s1.runFor e i with
        | .next s2 => .next (if s2.stillWaits gid slot pc then s2.after else s.resumes gid slot)
        | r => r

/-- An issue from a slot: of a ready one that its partition selects, or of one that waits for something that it tests again; one that
has arrived at a barrier tests nothing (R62, R63, R192). -/
def State.issueFrom (s : State) (gid : Nat) (slot : Bool) : Host.Outcome State Fault Refusal :=
  match s.group? gid with
  | none => .next s.after
  | some g =>
    if !g.mayAct slot || (g.slot slot).wait.rests then .next s.after
    else if (g.slot slot).wait ≠ .ready then s.tryWaiting gid slot (g.slot slot).pc
    else if !s.selects gid slot then .next s.after
    else s.issueReady gid slot

/-- Whether a row of the opcode table is an event: it has no words. -/
def Instr.isEvent (i : Instr) : Bool := encode i = []

/-- A move made. An instruction that has words is no event, and a schedule that names one as an event names nothing. -/
def State.make (s : State) : Move → Host.Outcome State Fault Refusal
  | .issue gid slot => s.issueFrom gid slot
  | .miss gid id => .next (s.modGroup gid fun g => { g with
      loads := g.loads.map fun l => if l.id = id && l.dev then { l with miss := true } else l }).after
  | .stall gid slot n => .next (s.modGroup gid fun g => g.modSlot slot fun x => { x with busy := s.cycle + n }).after
  | .event e => if Instr.isEvent e then mapNext State.after (exec e s) else .next s.after
  | .tick n => .next { s with cycle := s.cycle + n }.after

/-- One step of the machine: a cycle passes, and one move is made. -/
def State.stepOnce (s : State) : Host.Outcome State Fault Refusal :=
  let (m, s1) := s.nextMove
  State.make { s1 with cycle := s1.cycle + 1, cur := none } m

/-! ### A program placed (log 45) -/

/-- The virtual address a placed program starts at. -/
def placedVa : Nat := 0x10000
/-- Physical address of the tables that map it: the root, and each level 0x1000 after the one before. -/
def placedTables : Nat := 0x10000
/-- Physical address of the page that holds it. -/
def placedPage : Nat := 0x20000

/-- The kernel of a placed program: 128 vector registers, one tile, everything granted from the start. -/
def placedKernel : Kernel :=
  { hdr := BitVec.ofNat 64 placedVa, mdef0 := 0, dstko := 0, dsb := 0, scrb := 0, pair := false, audit := false
    maxn := 0, gpt := 1, tiles := 1, freg := 128, preg := 128, entry := 0 }

/-- The context of a placed program: unprivileged, of VF 0. -/
def placedCtx : Ctx :=
  { ccb := 0, cgen := 0, vf := 0, cst := 1, racet := false, pairok := false, privc := false, afrac := 0, aseed := 0
    savea := 0, trec := 0, tvec := 0, ptroot := BitVec.ofNat 64 placedTables, conta := 0, contn := 0 }

/-- The grid of a placed program: one team of one group. -/
def placedGrid (cid : Nat) : Grid :=
  { ctx := cid, id := BitVec.ofNat 32 cid, lrec := 0, args := 0, prio := 0, teams := 1, deps := [], cctr := none
    k := placedKernel, depth := 0, nest := 0, parent := none, placed := 1 }

/-- The tables, and the words from the start of the page on. -/
def State.placeWords (s : State) (ws : List Word) : State :=
  let s1 := (List.range 4).foldl (fun (s : State) k =>
    s.modWriteNum (placedTables + 0x1000 * k) 8 (placedTables + 0x1000 * (k + 1) + 1)) s
  let s2 := s1.modWriteNum (placedTables + 0x4000 + 8) 8 (placedPage + 0xF)
  s2.modWrite placedPage (ws.map fun w => leBytes 4 w.toNat).flatten

/-- The program's context, grid, team and group, numbered n, on core 0, and its issue as the next move. -/
def State.placeGroup (s : State) (n : Nat) : State :=
  let t : Team := { grid := n, no := 0, core := 0, base := 0, groups := [n], granted := true }
  let gr := placedGrid n
  let g := startGroup gr (startRegs s.node gr 0 0 0) n 0 0 s.cycle
  let s1 := (s.tlbDrop (asidOf n) 0 (2 ^ 41)).setVf 0 { s.vf 0 with en := true, left := List.replicate 4 none }
  let s2 := (((s1.setCtx n placedCtx).setGrid n gr).setTeam n t).setGroup n g
  (s2.admitGroup 0 0 n placedKernel.startSlots).modPart 0 0 fun p => { p with second := some (n, false) }

/-- A program's words placed so that the next step runs the first of them. -/
def State.place5 (s : State) (ws : List Word) : State :=
  let n := s.nextId
  let s1 := { s with nextId := n + 1 }.placeWords ws
  { s1.placeGroup n with sched := Move.issue n false :: s.sched }

end Sys2Proof.Machine
end

