-- ==== Sys2Proof/Machine/Step.lean ====
section
/-! DEFINITION. One step of the machine, and an instruction placed where the next step fetches. -/

namespace Sys2Proof.Machine

/-- One step: the next move of the schedule, or of the machine's own choice where it names none. -/
def step (s : State) : Host.Outcome State Fault Refusal := s.stepOnce

/-- The instruction whose bits the opcode table numbers as `w`, stored where the next step fetches. -/
def State.withFetchWord (s : State) (nbits w : Nat) : State := s.place5 (tableWords nbits w)

end Sys2Proof.Machine
end

