-- ==== Sys2Proof/Safety.lean ====
section
/-! DEFINITION. The terms in which claims are stated: a safe run, the invariant of memory, what an instruction may change,
and the results that the spec's tables give the element-wise and the scalar families. -/

namespace Sys2Proof.Machine

/-! ### Runs -/

/-- A run is safe while the machine answers a next state: no step of a program ends it. -/
def SafeFor : Nat → State → Prop
  | 0, _ => True
  | n + 1, s => ∃ t, step s = .next t ∧ SafeFor n t

/-- Memory has its canonical form: addresses strictly rising, and no byte listed that reads as an unlisted one. -/
abbrev State.MemInv (s : State) : Prop := memWf s.mem = true

/-- The state a step begins with: one cycle later, nothing issuing, the rest of the schedule left. -/
def State.clocked (s : State) (rest : List Move) : State := { s with sched := rest, cycle := s.cycle + 1, cur := none }

/-! ### Frames -/

/-- A next state in which only the issuing group differs, and P holds of that group. -/
def Env.Completes (e : Env) (s : State) (i : Instr) (P : Group → Prop) : Prop :=
  ∃ g, exec i s = .next (s.setGroup e.gid g) ∧ P g

/-- The issuing group past the unit: the executing slot's PC is behind it and nothing of the attempt is kept (R82). -/
def Env.passed (e : Env) : Group := e.g.setSlot e.slot { e.sl.clear with pc := e.pc + BitVec.ofNat 64 e.len }

/-- The issuing group gone on at another address (R85). -/
def Env.jumped (e : Env) (target : BitVec 64) : Group := e.g.setSlot e.slot { e.sl.clear with pc := target }

/-- What a write of sD makes of a group: a register, or the executing slot's lanes; a group left with nothing to run retires
(R35, R68, R71, R72). -/
def Env.withScalar (e : Env) (g : Group) (d : BitVec 6) (v : BitVec 64) : Group :=
  if d.toNat < 61 then { g with regs := g.regs.setS d.toNat v }
  else
    let (m, dm) := emWrite e.lanes e.g.dormant (d.toNat - 61) v
    if m = 0 then { g.setSlot e.slot {} with life := .retiring, dormant := 0 }
    else { g.modSlot e.slot (fun x => { x with mask := m }) with dormant := dm }

/-- A write of sD leaves the slot a lane, or nothing of the group to run: no other path takes the freed slot. -/
abbrev Env.NoPop (e : Env) (d : BitVec 6) (v : BitVec 64) : Prop :=
  61 ≤ d.toNat → (emWrite e.lanes e.g.dormant (d.toNat - 61) v).1 = 0 → e.otherLive = false ∧ e.g.depth = 0

/-- The unit is over with a value in sD, whatever else of the group an operation changed before (R68, R71, R72, R82). -/
def State.gives (s : State) (e : Env) (d : BitVec 6) (v : BitVec 64) : State :=
  s.modGroup e.gid fun g => e.withScalar (g.modSlot e.slot fun x => { x.clear with pc := e.pc + BitVec.ofNat 64 e.len }) d v

/-! ### Operands -/

/-- Operands exist, and no data is still to come to them (R28, R344). -/
abbrev Env.Ready (e : Env) (u : Use) : Prop := e.exists? u = true ∧ (e.useRegs u).any e.awaited.contains = false

/-- The flag that reading dead sources sets (R76). -/
def Env.deadFlag (e : Env) (u : Use) : Flags := { poison := u.srcs.any e.deadSrc }

/-- No flag of these is enabled to trap (R70). -/
abbrev Env.Quiet (e : Env) (fl : Flags) : Prop := flagTrap e.g.regs.astat fl = none

/-- The group is neither half of a lichen pair nor a re-execution for an audit (R244, R250). -/
def Env.Plain (e : Env) : Prop := e.g.pair = none ∧ (∀ job log st, e.g.audit ≠ .replay job log st)

/-! ### Scalar results (R389) -/

/-- Conditions of SCMP (R389). -/
def scalarCond (c : BitVec 4) (x y : BitVec 64) : Bool :=
  match c with
  | 0 => x == y
  | 1 => x != y
  | 2 => x.slt y
  | 3 => x.sle y
  | 4 => y.slt x
  | 5 => y.sle x
  | 6 => x.ult y
  | 7 => x.ule y
  | 8 => y.ult x
  | _ => y.ule x

/-- The field of SBFE: bits p to p + w - 1 of x, extended by its sign or by zeros (R389). -/
def scalarFieldOf (signed : Bool) (x y : BitVec 64) : BitVec 64 :=
  let p := (y.extractLsb' 0 6).toNat
  let w := min (y.extractLsb' 8 7).toNat (64 - p)
  let f := x.extractLsb' p w
  if signed then f.signExtend 64 else f.setWidth 64

/-- The destination and the result of each instruction of R389 that sets no flag. -/
def scalarResult (e : Env) : Instr → Option (BitVec 6 × BitVec 64)
  | .sadd d a b => some (d, e.s a + e.s b)
  | .ssub d a b => some (d, e.s a - e.s b)
  | .smul d a b => some (d, e.s a * e.s b)
  | .smulhi d a b => some (d, ((e.s a).signExtend 128 * (e.s b).signExtend 128).extractLsb' 64 64)
  | .sand d a b => some (d, e.s a &&& e.s b)
  | .sor d a b => some (d, e.s a ||| e.s b)
  | .sxor d a b => some (d, e.s a ^^^ e.s b)
  | .sshl d a b => some (d, e.s a <<< ((e.s b).setWidth 6).toNat)
  | .sshr d a b => some (d, e.s a >>> ((e.s b).setWidth 6).toNat)
  | .ssar d a b => some (d, (e.s a).sshiftRight ((e.s b).setWidth 6).toNat)
  | .smov d a => some (d, e.s a)
  | .sli d imm => some (d, imm.signExtend 64)
  | .sliLit d lit => some (d, lit)
  | .scmp d a b c => some (d, (BitVec.ofBool (scalarCond c (e.s a) (e.s b))).setWidth 64)
  | .sbfe d a b signed => some (d, scalarFieldOf signed (e.s a) (e.s b))
  | .ssel d a b => some (d, if e.s d = 0 then e.s b else e.s a)
  | .smin d a b unsigned => some (d, if (if unsigned then (e.s a).ule (e.s b) else (e.s a).sle (e.s b)) then e.s a else e.s b)
  | .smax d a b unsigned => some (d, if (if unsigned then (e.s b).ule (e.s a) else (e.s b).sle (e.s a)) then e.s a else e.s b)
  | .saddi d a imm => some (d, e.s a + imm.signExtend 64)
  | .saddiLit d a lit => some (d, e.s a + lit)
  | _ => none

/-- R128 at width w, as bit vectors: quotient and remainder, DIVZ, OVF. -/
def divisionOf {w : Nat} (signed : Bool) (x y : BitVec w) : BitVec w × BitVec w × Bool × Bool :=
  if y = 0 then
    ((if x = 0 then 0 else if signed then (if x.msb then BitVec.intMin w else BitVec.intMax w) else BitVec.allOnes w), x, true, false)
  else if signed then
    (if x = BitVec.intMin w ∧ y = BitVec.allOnes w then (BitVec.intMin w, 0, false, true) else (x.sdiv y, x.srem y, false, false))
  else (x / y, x % y, false, false)

/-! ### Element-wise results -/

/-- An element-wise instruction: its fields, how many sources it reads, how an immediate is read and at which type, and
what a lane computes from its number and its values of A, B and C. -/
abbrev LaneRule := XArgs × Nat × ImmKind × Ty × (Nat → Nat → Nat → Nat → Lane)

/-- What a lane computes, its flags as the spec gives them. -/
def laneOf (v : Word) : Lane := { val := v.toNat }

/-- A rounded result and whether it was inexact (R123). -/
def laneRounded (r : Nat × Bool) : Lane := { val := r.1, fl := { inexact := r.2 } }

/-- A lane rule over 32-bit words, immediates read as integers. -/
def wordRule (x : XArgs) (n : Nat) (f : Nat → Word → Word → Word → Lane) : Option LaneRule :=
  some (x, n, .int, x.ty, fun l a b c => f l (BitVec.ofNat 32 a) (BitVec.ofNat 32 b) (BitVec.ofNat 32 c))

/-- Conditions of ICMP by FN, signed for i32 (R136, R339). -/
def wordCond (t : Ty) (fn : BitVec 5) (a b : Word) : Bool :=
  match fn with
  | 0 => a == b
  | 1 => a != b
  | 2 => if t = .i32 then a.slt b else a.ult b
  | 3 => if t = .i32 then a.sle b else a.ule b
  | 4 => if t = .i32 then b.slt a else b.ult a
  | _ => if t = .i32 then b.sle a else b.ule a

/-- The lane results of the integer family, OPC 0x40 to 0x5C but SEL and MOV, of 32-bit sources (R121, R128, R136, R293,
R307, R338 to R340, R361, R398 and others). -/
def integerLane : Instr → Option LaneRule
  | .iadd x => wordRule x 2 fun _ a b _ => laneOf (a + b)
  | .isub x => wordRule x 2 fun _ a b _ => laneOf (a - b)
  | .imul x => wordRule x 2 fun _ a b _ => laneOf (a * b)
  | .imulhi x => wordRule x 2 fun _ a b _ => laneOf (if x.ty = .i32 then (a.signExtend 64 * b.signExtend 64).extractLsb' 32 32
      else (a.setWidth 64 * b.setWidth 64).extractLsb' 32 32)
  | .imad x => wordRule x 3 fun _ a b c => laneOf (a * b + c)
  | .idiv x => wordRule x 2 fun _ a b _ => let r := divisionOf (x.ty = .i32) a b
      { val := r.1.toNat, fl := { divz := r.2.2.1, ovf := r.2.2.2 } }
  | .irem x => wordRule x 2 fun _ a b _ => let r := divisionOf (x.ty = .i32) a b
      { val := r.2.1.toNat, fl := { divz := r.2.2.1, ovf := r.2.2.2 } }
  | .ineg x => wordRule x 1 fun _ a _ _ => laneOf (-a)
  | .iabs x => wordRule x 1 fun _ a _ _ => laneOf (if a.msb then -a else a)
  | .imin x => wordRule x 2 fun _ a b _ => laneOf (if (if x.ty = .i32 then a.sle b else a.ule b) then a else b)
  | .imax x => wordRule x 2 fun _ a b _ => laneOf (if (if x.ty = .i32 then b.sle a else b.ule a) then a else b)
  | .icmp x => wordRule x 2 fun _ a b _ => { val := (wordCond x.ty x.fn a b).toNat }
  | .shl x => wordRule x 2 fun _ a b _ => laneOf (a <<< (b.setWidth 5).toNat)
  | .shr x => wordRule x 2 fun _ a b _ => laneOf (a >>> (b.setWidth 5).toNat)
  | .sar x => wordRule x 2 fun _ a b _ => laneOf (a.sshiftRight (b.setWidth 5).toNat)
  | .rotl x => wordRule x 2 fun _ a b _ => laneOf (a.rotateLeft (b.setWidth 5).toNat)
  | .and x => wordRule x 2 fun _ a b _ => laneOf (a &&& b)
  | .or x => wordRule x 2 fun _ a b _ => laneOf (a ||| b)
  | .xor x => wordRule x 2 fun _ a b _ => laneOf (a ^^^ b)
  | .not x => wordRule x 1 fun _ a _ _ => laneOf (~~~a)
  | .andn x => wordRule x 2 fun _ a b _ => laneOf (a &&& ~~~b)
  | .popc x => wordRule x 1 fun _ a _ _ => { val := (List.range 32).countP fun i => a.getLsbD i }
  | .clz x => wordRule x 1 fun _ a _ _ => { val := ((List.range 32).takeWhile fun i => !a.getMsbD i).length }
  | .brev x => wordRule x 1 fun _ a _ _ => laneOf a.reverse
  | .bfe x => wordRule x 3 fun _ a b c =>
      let p := (b.setWidth 5).toNat
      let w := min (c.setWidth 6).toNat (32 - p)
      laneOf (if x.ty = .i32 then (a.extractLsb' p w).signExtend 32 else (a.extractLsb' p w).setWidth 32)
  | .bfi x => wordRule x 3 fun _ a b c =>
      let p := (c.setWidth 5).toNat
      let w := min (c.extractLsb' 8 6).toNat (32 - p)
      let m : Word := ((BitVec.allOnes w).setWidth 32) <<< p
      laneOf ((b &&& ~~~m) ||| ((a <<< p) &&& m))
  | .movi x => wordRule x 2 fun l a b _ => laneOf (a + BitVec.ofNat 32 l * b)
  | _ => none

/-- Conditions of FCMP by FN (R331): an order needs two numbers, so that .ne is what .eq is not. -/
def floatCond (fn : BitVec 5) (t : Fmt) (a b : Nat) : Bool :=
  let numbers : Bool := !t.isNan a && !t.isNan b
  match fn with
  | 0 => numbers && t.rank a == t.rank b
  | 1 => !(numbers && t.rank a == t.rank b)
  | 2 => numbers && decide (t.rank a < t.rank b)
  | 3 => numbers && decide (t.rank a ≤ t.rank b)
  | 4 => numbers && decide (t.rank b < t.rank a)
  | 5 => numbers && decide (t.rank b ≤ t.rank a)
  | 6 => !numbers
  | _ => numbers

/-- The lane results of the float and conversion family, OPC 0x60 to 0x75, over the arithmetic of Float.lean, Transc.lean
and Num.lean (R321, R328 to R333, R368, R410). -/
def floatLane : Instr → Option LaneRule
  | .fadd x => some (x, 2, .ofTy x.ty, x.ty, fun _ a b _ => laneRounded ((fmtOf x.ty).add x.rm (low x.ty a) (low x.ty b)))
  | .fsub x => some (x, 2, .ofTy x.ty, x.ty, fun _ a b _ => laneRounded ((fmtOf x.ty).sub x.rm (low x.ty a) (low x.ty b)))
  | .fmul x => some (x, 2, .ofTy x.ty, x.ty, fun _ a b _ => laneRounded ((fmtOf x.ty).mul x.rm (low x.ty a) (low x.ty b)))
  | .fma x => some (x, 3, .ofTy x.ty, x.ty,
      fun _ a b c => laneRounded ((fmtOf x.ty).fma x.rm (low x.ty a) (low x.ty b) (low x.ty c)))
  | .fmin x => some (x, 2, .ofTy x.ty, x.ty, fun _ a b _ => { val := (fmtOf x.ty).minMax false (low x.ty a) (low x.ty b) })
  | .fmax x => some (x, 2, .ofTy x.ty, x.ty, fun _ a b _ => { val := (fmtOf x.ty).minMax true (low x.ty a) (low x.ty b) })
  | .fcmp x => some (x, 2, .ofTy x.ty, x.ty, fun _ a b _ => { val := (floatCond x.fn (fmtOf x.ty) (low x.ty a) (low x.ty b)).toNat })
  | .fabs x => some (x, 1, .ofTy x.ty, x.ty, fun _ a _ _ =>
      { val := if (fmtOf x.ty).isNan (low x.ty a) then (fmtOf x.ty).nan else low x.ty a % (fmtOf x.ty).sign })
  | .fneg x => some (x, 1, .ofTy x.ty, x.ty, fun _ a _ _ =>
      { val := if (fmtOf x.ty).isNan (low x.ty a) then (fmtOf x.ty).nan
               else if low x.ty a < (fmtOf x.ty).sign then low x.ty a + (fmtOf x.ty).sign else low x.ty a - (fmtOf x.ty).sign })
  | .frcp x => some (x, 1, .ofTy x.ty, x.ty, fun _ a _ _ => laneRounded (special .rcp x.rm (low x.ty a)))
  | .frcpz x => some (x, 1, .ofTy x.ty, x.ty, fun _ a _ _ => laneRounded (special .rcpz x.rm (low x.ty a)))
  | .frsq x => some (x, 1, .ofTy x.ty, x.ty, fun _ a _ _ => laneRounded (special .rsq x.rm (low x.ty a)))
  | .fsqrt x => some (x, 1, .ofTy x.ty, x.ty, fun _ a _ _ => laneRounded (special .sqrt x.rm (low x.ty a)))
  | .fexp2 x => some (x, 1, .ofTy x.ty, x.ty, fun _ a _ _ => laneRounded (special .exp2 x.rm (low x.ty a)))
  | .fexp x => some (x, 1, .ofTy x.ty, x.ty, fun _ a _ _ => laneRounded (special .exp x.rm (low x.ty a)))
  | .flog2 x => some (x, 1, .ofTy x.ty, x.ty, fun _ a _ _ => laneRounded (special .log2 x.rm (low x.ty a)))
  | .fsin x => some (x, 1, .ofTy x.ty, x.ty, fun _ a _ _ => laneRounded (special .sin x.rm (low x.ty a)))
  | .fcos x => some (x, 1, .ofTy x.ty, x.ty, fun _ a _ _ => laneRounded (special .cos x.rm (low x.ty a)))
  | .fclass x => some (x, 1, .ofTy x.ty, x.ty, fun _ a _ _ => { val := 2 ^ (fmtOf x.ty).classOf (low x.ty a) })
  | .cvt x => some (x, 1, .ofTy (tyCode x.fn.toNat), tyCode x.fn.toNat,
      fun _ a _ _ => laneRounded (convert (tyCode x.fn.toNat) x.ty x.rm a))
  | .pack x => some (x, 2, .ofTy (tyCode x.xf.toNat), tyCode x.xf.toNat, fun _ a b _ =>
      let r := convert (tyCode x.xf.toNat) x.ty x.rm a
      laneRounded (setBits b (x.ty.width * (x.fn.toNat % 8)) x.ty.width r.1, r.2))
  | .unpk x => some (x, 1, .int, x.ty, fun _ a _ _ =>
      laneRounded (convert (tyCode x.xf.toNat) x.ty x.rm (a / 2 ^ ((tyCode x.xf.toNat).width * (x.fn.toNat % 8)))))
  | _ => none
where
  /-- The bits of a lane that a float type uses (R329). -/
  low (t : Ty) (a : Nat) : Nat := a % (2 * (fmtOf t).sign)

/-- The lane that SHFL reads for lane l, by its mode (R397). -/
def shuffled (mode : BitVec 2) (l : Nat) (b : Word) : Int :=
  match mode with
  | 0 => b.toInt
  | 1 => (l : Int) - b.toNat
  | 2 => (l : Int) + b.toNat
  | _ => ((l ^^^ b.toNat : Nat) : Int)

/-- The bytes that PRMB chooses by the nibbles of C from those of B and A (R165). -/
def permuted (a b c : Word) : Word :=
  let q : BitVec 64 := b ++ a
  let pick (i : Nat) : BitVec 8 :=
    let n := c.extractLsb' (4 * i) 4
    if n.msb then 0 else q.extractLsb' (8 * n.toNat) 8
  pick 3 ++ pick 2 ++ pick 1 ++ pick 0

/-- Every element-wise instruction with 32-bit results: the two families, and those that look at other lanes' values
as they were at issue (R80, R165, R189, R360, R391, R395, R397). -/
def elementLane (e : Env) (i : Instr) : Option LaneRule :=
  match i with
  | .sel x => if x.ty = .b64 then none else
      some (x, 2, .ofTy x.ty, x.ty, fun l a b _ => { val := if (e.predOf x.c).getLsbD l then a else b })
  | .mov x => if x.ty = .b64 then none else some (x, 1, .ofTy x.ty, x.ty, fun _ a _ _ => { val := a })
  | .shfl x => some (x, 2, .int, .b32, fun l a b _ =>
      let j := shuffled (x.fn.setWidth 2) l (BitVec.ofNat 32 b)
      { val := if 0 ≤ j ∧ j ≤ 95 then (e.val x .int .b32 x.a).at j.toNat else a })
  | .matchLanes x => some (x, 1, .int, .b32, fun _ a _ _ =>
      let m := mkMask fun j => (e.active x).getLsbD j && (e.val x .int .b32 x.a).at j = a
      laneOf (m.extractLsb' (32 * (x.fn.toNat % 4)) 32))
  | .scan x => some (x, 1, .ofTy x.ty, x.ty, fun l _ _ _ =>
      let upTo : LaneMask := mkMask fun j => if x.fn.getLsbD 3 then j < l else j ≤ l
      laneRounded (reduce x.ty (x.fn.toNat % 8) x.rm (e.active x &&& upTo) (e.val x (.ofTy x.ty) x.ty x.a)))
  | .prmb x => wordRule { x with ty := .b32 } 3 fun _ a b c => laneOf (permuted a b c)
  | i => (integerLane i).or (floatLane i)

/-- The use of the first n sources of an instruction and of its destination, w registers each. -/
def sourcesUse (x : XArgs) (n w : Nat) : Use := { srcs := ([x.a, x.b, x.c].take n).map fun a => (a, w), dst := some x.dst, n := w }

/-- What lane l of an element-wise instruction computes. -/
def Env.laneAt (e : Env) (r : LaneRule) (l : Nat) : Lane :=
  let v (a : Src) : Nat := (e.val r.1 r.2.2.1 r.2.2.2.1 a).at l
  r.2.2.2.2 l (v r.1.a) (v r.1.b) (v r.1.c)

/-- The flags of an element-wise instruction with a vector, predicate or no destination: those of the active lanes, and
POISON for a dead source (R76, R129). -/
def Env.laneFlagsOf (e : Env) (r : LaneRule) : Flags :=
  (e.deadFlag (sourcesUse r.1 r.2.1 1)).or
    (laneFlags ((List.range 96).map fun l => if (e.active r.1).getLsbD l then e.laneAt r l else { val := 0 }))

/-- What lane l of a b64 SEL or MOV computes (R360, R395). -/
def wideLane (e : Env) : Instr → Option (XArgs × Nat × (Nat → Nat))
  | .sel x => if x.ty = .b64 then some (x, 2, fun l =>
      (e.val x .wide .b64 (if (e.predOf x.c).getLsbD l then x.a else x.b)).at64 l) else none
  | .mov x => if x.ty = .b64 then some (x, 1, fun l => (e.val x .wide .b64 x.a).at64 l) else none
  | _ => none

/-- Registers after flags are set and Z marks applied (R70, R76). -/
def Env.readRegs (e : Env) (u : Use) (fl : Flags) : Regs :=
  Regs.kill { e.g.regs with astat := e.g.regs.astat ||| fl.bits } u.marks

/-! ### Cross-lane results -/

/-- Whether a lane's condition holds: its predicate bit, or a value that is not zero (R298, R412). -/
def Env.holdsIn (e : Env) (x : XArgs) (l : Nat) : Bool :=
  match x.a with
  | .pred n => (e.g.regs.pred n.toNat).getLsbD l
  | a => (e.val x .int .b32 a).at l != 0

/-- What VOTE asks of the active lanes: all, any, or one common value (R80, R412). -/
def Env.voted (e : Env) (x : XArgs) : Prop :=
  match (x.fn.setWidth 2 : BitVec 2) with
  | 0 => ∀ l, (e.active x).getLsbD l = true → e.holdsIn x l = true
  | 1 => ∃ l, (e.active x).getLsbD l = true ∧ e.holdsIn x l = true
  | _ => ∀ l m, (e.active x).getLsbD l = true → (e.active x).getLsbD m = true →
      match x.a with
      | .pred n => (e.g.regs.pred n.toNat).getLsbD l = (e.g.regs.pred n.toNat).getLsbD m
      | a => (e.val x .int .b32 a).at l = (e.val x .int .b32 a).at m

/-- The group after one value was given to every active lane of vD, to sD, to the active bits of pD, or nowhere. -/
def Env.spreadGroup (e : Env) (x : XArgs) (fl : Flags) (v : Word) : Group :=
  let g := { e.passed with regs := e.readRegs (sourcesUse x 1 1) fl }
  match x.dst with
  | .vec d => { g.modSlot e.slot (fun y => y.wrote d.toNat 1) with
      regs := g.regs.setVec d.toNat (e.active x) (mkLanes fun _ => v) }
  | .pred d => { g with regs := g.regs.setPred d.toNat (e.active x) (if v.getLsbD 0 then -1 else 0) }
  | .scal d => e.withScalar g d (v.setWidth 64)
  | _ => g

/-- The spread frees no slot for another path where it is written to a mask. -/
def Env.SpreadNoPop (e : Env) (x : XArgs) (v : Word) : Prop := ∀ d, x.dst = .scal d → e.NoPop d (v.setWidth 64)

/-- An integer reduction's operation (R380, R381). -/
def wordReduce (t : Ty) (op : Nat) (a b : Word) : Word :=
  match op with
  | 0 => a + b
  | 1 => if (if t = .i32 then a.sle b else a.ule b) then a else b
  | 2 => if (if t = .i32 then b.sle a else b.ule a) then a else b
  | 3 => a &&& b
  | 4 => a ||| b
  | _ => a ^^^ b

/-- The predicate PLOG computes, every lane (R370). -/
def predLogic (fn : BitVec 3) (a b : LaneMask) : LaneMask :=
  match fn with
  | 0 => a &&& b
  | 1 => a ||| b
  | 2 => a ^^^ b
  | 3 => a &&& ~~~b
  | 4 => a ||| ~~~b
  | 5 => ~~~(a &&& b)
  | 6 => ~~~(a ||| b)
  | _ => ~~~(a ^^^ b)

/-- One element of a transposed block: sub-position h of w bits in a lane. -/
def elementAt (v : Lanes) (l w h : Nat) : Nat := (lane v l).toNat / 2 ^ (w * h) % 2 ^ w

/-! ### Traps, fetches and reconvergence -/

/-- Words that trap ILLOP when they are fetched (R98, R99). -/
def FetchTrapsIllop (ws : List Word) : Prop :=
  ∀ (s s1 : State) (gid : Nat) (slot : Bool) (g : Group) (e : Env) (n : Nat), s.group? gid = some g →
    s.envOf { gid, slot, pc := (g.slot slot).pc, len := 4 } = some e → e.inWindow e.pc = true →
    s.fetchInstr e e.pc.toNat 0 = (.words ws s1, n) →
    s.fetchUnit gid slot = .over (s1.takeTrap { e with len := n } .illop 0 e.lanes)

/-- LEN and OPC do not pair (R83). -/
abbrev BadPairing (w : Word) : Prop :=
  let len := w.extractLsb' 30 2
  let opc := w.extractLsb' 22 8
  opc = 0xFF ∨ (opc.toNat < 0x40 ∧ 2 ≤ len.toNat) ∨ (0x40 ≤ opc.toNat ∧ len.toNat ≤ 1) ∨
    (len = 1 ∧ opc ≠ 0x2B ∧ opc ≠ 0x34 ∧ opc ≠ 0x35 ∧ opc ≠ 0x36)

/-- A trap handler can be entered: one is set, the group is in none, and continuation slot i is the lowest free (R259). -/
abbrev Env.CanHandle (e : Env) (i : Nat) : Prop :=
  e.c.tvec ≠ 0 ∧ e.g.handler = none ∧ e.g.audit = .off ∧ i < e.c.contn ∧ i ∉ e.c.contUsed ∧ ∀ j < i, j ∈ e.c.contUsed

/-- The executing slot waits at its JOIN. -/
def Env.atJoin (e : Env) : Group := e.g.setSlot e.slot { e.sl.clear with pc := e.pc, join := true }

/-- The executing slot is free. -/
def Env.freed (e : Env) : Group := e.g.setSlot e.slot {}

/-- The executing slot waits, its instruction to issue again. -/
def Env.waiting (e : Env) (w : Wait) : Group := e.g.setSlot e.slot { e.sl with wait := w }

/-- Address of entry i of the divergence stack (R78). -/
def Env.stackAt (e : Env) (i : Nat) : Nat := (e.g.regs.dstkb.toNat + 16 * i) % 2 ^ 64

/-- A group whose slot i takes the top entry of the stack, `join` where it waits at its JOIN (R79). -/
def Group.popped (g : Group) (hdr : BitVec 64) (i : Bool) (x : Nat) (join : Bool) : Group :=
  { g.setSlot i (slotOfEntry hdr x join) with depth := g.depth - 1, stacked := g.stacked &&& ~~~(BitVec.ofNat 96 x) }

/-! ### Memory -/

/-- What a read of n bytes by the group gives, and the state after it: the 64-byte units that it touches are charged, and the
group's own stores to the bytes come before it (R65, R168, R186). -/
def State.loaded (s : State) (e : Env) (pa n : Nat) : Nat × State := (s.charge e.c.vf 0 (unitBytes pa n)).readOwn e none pa n

/-- The state after the group stored bytes, the units that they touch charged (R65, R168). -/
def State.stored (s : State) (e : Env) (va pa : Nat) (bs : List Byte) : State :=
  (s.charge e.c.vf 0 (unitBytes pa bs.length)).store e va pa bs .group

/-- The same of 64-byte pieces, each at its physical address, as bytes. -/
def State.loadedBytes (s : State) (e : Env) : List Nat → List Byte × State
  | [] => ([], s)
  | pa :: l =>
    let (x, s1) := s.loaded e pa 64
    let (bs, s2) := s1.loadedBytes e l
    (leBytes 64 x ++ bs, s2)

/-- The TLBs map an address for an access of the group (R198). -/
def Env.Mapped (e : Env) (s : State) (va kind pa : Nat) (leaf : BitVec 64) : Prop :=
  va < 2 ^ 56 ∧ ∃ t, s.tlbFind e.t.core (asidOf e.cid) (va / 65536) = some t ∧ useLeaf e.c.privc e.cid va kind t.entry t.level = .ok pa leaf

/-- The state of a key is this module's, in a first issue: it is no pod key, or its route and its page lead here, the page walked for it
(R169, R205). -/
def Env.KeyHere (e : Env) (s : State) (k : KeyId) (s1 : State) : Prop :=
  e.sl.sent = false ∧ ((k.space ≠ 2 ∧ s1 = s) ∨ (k.space = 2 ∧ s.destination e.cid e.c e.t.core k.addr.toNat = some s.node ∧
    ∃ x, (∀ n, x ≠ .remote n) ∧ x ≠ .deferred ∧ s.translateAt e.cid e.c k.addr.toNat 0 = (x, s1)))

/-- An instruction's first issue: no lane of it was performed before (R199). -/
abbrev Env.Fresh (e : Env) : Prop := e.sl.unf = none ∧ e.sl.sent = false ∧ e.sl.probed = false

/-- No budget of a VF bounds its traffic (R65, R66). -/
def State.Unmetered (s : State) (vf : Nat) : Prop := ∀ c, (s.vf vf).left.getD c none = none

/-- Every active lane's access translates here, to an unwatched page, and the translation changes nothing. -/
def Env.LanesMap (e : Env) (s : State) (xl : State → Acc → Xl × State) (x : XArgs) (base : BitVec 64) (pa : Nat → Nat)
    (leaf : Nat → BitVec 64) : Prop :=
  ∀ l, (e.active x).getLsbD l = true →
    xl s { lane := l, va := base + e.offset x l, off := e.offset x l } = (.ok (pa l) (leaf l), s) ∧ leafWatch (leaf l) = false

/-- What each active lane's access needs of its address: alignment to its size, or for a typed one that its page's format
takes its elements (R138, R150). -/
def Env.LanesFit (e : Env) (x : XArgs) (n : Nat) (write : Bool) (base : BitVec 64) (pa : Nat → Nat) (leaf : Nat → BitVec 64) : Prop :=
  ∀ l, (e.active x).getLsbD l = true →
    if x.ty = .page then typedCheck (formatOf (leaf l)) write (pa l % 65536) n = .ok
    else (base + e.offset x l).toNat % (4 * n) = 0

/-- The active lanes in ascending order. -/
def Env.activeLanes (e : Env) (x : XArgs) : List Nat := LaneMask.toList (e.active x)

/-- The bytes that a lane of a store writes to a page of a format (R149, R403). -/
def Env.laneBytes (e : Env) (x : XArgs) (n : Nat) (leaf : BitVec 64) (l : Nat) : List Byte :=
  if x.ty = .page then ((List.range n).map fun j => (formatOf leaf).store x.rm (e.storeWord x j l)).flatten else e.storeBytes x n l

/-- What lanes of a load read, in their order, and the state after: the group's own stores to what is read come first (R168, R186). -/
def Env.loadsOf (e : Env) (x : XArgs) (n : Nat) (pa : Nat → Nat) (leaf : Nat → BitVec 64) (s : State) (ls : List Nat) :
    List (Nat × List Nat) × State :=
  ls.foldl (fun acc l =>
    let (v, t) := e.loadedAt acc.2 (x.ty = .page) n (pa l) (leaf l)
    (acc.1 ++ [(l, v)], t)) ([], s)

/-- The atomics of lanes in an order, each write performed at a scope at once: the old values, and the state (R176, R295). -/
def Env.atomicsOf (e : Env) (x : XArgs) (level : Scope) (sp : Option Nat) (va at_ : Nat → Nat) (s : State) (ls : List Nat) : List (Nat × Nat) × State :=
  ls.foldl (fun acc l =>
    let (old, s1) := acc.2.atomicLane e x level sp l (va l) (at_ l)
    (acc.1 ++ [(l, old)], s1)) ([], s)

/-- The active lanes' scratchpad accesses are aligned and in the granted reservation (R138, R139). -/
def Env.ScratchFits (e : Env) (x : XArgs) (size : Nat) : Prop :=
  e.t.granted = true ∧ ∀ l, (e.active x).getLsbD l = true →
    (e.offset x l).toNat % size = 0 ∧ (e.offset x l).toNat + size ≤ e.gr.k.scrb

/-- What an atomic computes from an old word and its operand, and for .cas the expected value; none where .cas fails (R295). -/
def wordAtomic {w : Nat} (op : BitVec 3) (signed : Bool) (old x exp : BitVec w) : Option (BitVec w) :=
  match op with
  | 0 => some (old + x)
  | 1 => some (if (if signed then x.slt old else x.ult old) then x else old)
  | 2 => some (if (if signed then old.slt x else old.ult x) then x else old)
  | 3 => some (old &&& x)
  | 4 => some (old ||| x)
  | 5 => some (old ^^^ x)
  | 6 => some x
  | _ => if old = exp then some x else none

/-- What comes from a module arrives at once: it is this one, or its port is up and nothing waits there (R279). -/
def State.CameIn (s : State) (node : Nat) : Prop :=
  node = s.node ∨ ((s.dev.ports.getD (Config.portOf node) {}).link = 2 ∧ ∀ x ∈ s.portIn, x.1 ≠ Config.portOf node)

end Sys2Proof.Machine
end

