-- ==== Sys2Proof/Certificates/Slice0/Obligations.lean ====
section
/-! DEFINITION. The statements made of the model, each from the rules its docstring names. An `e` with `s.env? = some e` is
the issuing slot as the instruction sees it: its group `e.g`, its slot `e.sl`, its team, grid and context. -/

open Sys2Proof Sys2Proof.Machine

/-! ### Scalar ALU -/

/-- R68, R389: a scalar instruction writes its result to s0 to s60 and passes; nothing else changes, in this group or in
the machine. R71, R72, R35: a scalar result written to em k moves lanes between the slot and dormancy, only those of its
32; a slot that keeps a lane goes on, and one left with none, with no other slot and an empty stack, retires its group. -/
def Obligations.ScalarResults : Prop :=
  (∀ (s : State) (e : Env) (i : Instr) (d : BitVec 6) (v : BitVec 64), s.env? = some e → scalarResult e i = some (d, v) →
     d.toNat < 61 →
     exec i s = .next (s.setGroup e.gid { e.passed with regs := e.g.regs.setS d.toNat v })) ∧
  (∀ (s : State) (e : Env) (i : Instr) (d : BitVec 6) (v : BitVec 64), s.env? = some e → scalarResult e i = some (d, v) →
     61 ≤ d.toNat → ∃ m dm : LaneMask,
       (∀ l, l < 96 → m.getLsbD l =
         if l / 32 = d.toNat - 61 then v.getLsbD (l % 32) && (e.lanes.getLsbD l || e.g.dormant.getLsbD l) else e.lanes.getLsbD l) ∧
       (∀ l, l < 96 → dm.getLsbD l =
         if l / 32 = d.toNat - 61 then !v.getLsbD (l % 32) && (e.lanes.getLsbD l || e.g.dormant.getLsbD l) else e.g.dormant.getLsbD l) ∧
       (m ≠ 0 → exec i s = .next (s.setGroup e.gid
         { e.passed.modSlot e.slot (fun x => { x with mask := m }) with dormant := dm })) ∧
       (m = 0 → e.otherLive = false → e.g.depth = 0 →
         exec i s = .next (s.setGroup e.gid { e.g.setSlot e.slot {} with life := .retiring, dormant := 0 })))

/-- R128, R389, R390: SPOPC counts one bits; SFFS gives the number of the lowest, or with .hi the highest, one bit, and 64 for
zero; SDIV gives the quotient or the remainder, signed or unsigned, and sets the flags of a division, and one whose enable is
set traps DIVZ and leaves sD as it was. R71, R72, R35: a destination s61 to s63 is lanes of the slot, and a group that the write
leaves nothing to run retires. -/
def Obligations.ScalarCountsAndDivision : Prop :=
  (∀ (s : State) (e : Env) (d a : BitVec 6), s.env? = some e →
     let ones : BitVec 64 := BitVec.ofNat 64 ((List.range 64).countP fun k => (e.s a).getLsbD k)
     (e.NoPop d ones → exec (.spopc d a) s = .next (s.setGroup e.gid (e.withScalar e.passed d ones))) ∧
     ∀ hi : Bool, ∃ n ≤ 64,
       (e.NoPop d (BitVec.ofNat 64 n) → exec (.sffs d a hi) s = .next (s.setGroup e.gid (e.withScalar e.passed d (BitVec.ofNat 64 n)))) ∧
       (n = 64 ↔ e.s a = 0) ∧ (n < 64 → (e.s a).getLsbD n = true) ∧
       ∀ k, k < 64 → (if hi then n < k else k < n) → n < 64 → (e.s a).getLsbD k = false) ∧
  (∀ (s : State) (e : Env) (d a b : BitVec 6) (mode : BitVec 2), s.env? = some e →
     let r := divisionOf (!mode.getLsbD 0) (e.s a) (e.s b)
     let fl : Flags := { divz := r.2.2.1, ovf := r.2.2.2 }
     let v := if mode.getLsbD 1 then r.2.1 else r.1
     (e.Quiet fl → e.NoPop d v → exec (.sdiv d a b mode) s = .next (s.setGroup e.gid
       (e.withScalar { e.passed with regs := e.readRegs {} fl } d v))) ∧
     (¬e.Quiet fl → exec (.sdiv d a b mode) s = .next ((s.setFlags e fl).takeTrap e .divz 0 e.lanes)))

/-! ### Element-wise instructions -/

/-- R68, R73, R76, R129, R331, R339 and the entries of the integer, float, conversion and cross-lane families: each active lane of
vD receives its own result, the other lanes keep their values, the flags are those of the active lanes, marked sources are dead
after, l0 names vD; nothing else changes. A comparison writes one bit for each active lane of its predicate, and no other bit.
The model's choices that it rests on: logs 20, 27, 28, 122, 123, 124, 134. -/
def Obligations.VectorResultsAndFrame : Prop :=
  (∀ (s : State) (e : Env) (i : Instr) (r : LaneRule) (d : BitVec 8), s.env? = some e → elementLane e i = some r →
    r.1.dst = .vec d → e.Ready (sourcesUse r.1 r.2.1 1) → e.Quiet (e.laneFlagsOf r) →
    exec i s = .next (s.setGroup e.gid
      { (e.passed.modSlot e.slot fun x => x.wrote d.toNat 1) with
        regs := (e.readRegs (sourcesUse r.1 r.2.1 1) (e.laneFlagsOf r)).setVec d.toNat (e.active r.1)
          (mkLanes fun l => BitVec.ofNat 32 (e.laneAt r l).val) })) ∧
  ∀ (s : State) (e : Env) (i : Instr) (r : LaneRule) (d : BitVec 3), s.env? = some e → elementLane e i = some r →
    r.1.dst = .pred d → e.Ready (sourcesUse r.1 r.2.1 1) → e.Quiet (e.laneFlagsOf r) →
    exec i s = .next (s.setGroup e.gid { e.passed with
      regs := (e.readRegs (sourcesUse r.1 r.2.1 1) (e.laneFlagsOf r)).setPred d.toNat (e.active r.1)
        (mkMask fun l => (e.laneAt r l).val % 2 == 1) })

/-- R68, R323: a scalar destination receives the 32-bit result once, extended by zeros. R68, R76, R360, R395: SEL and MOV
of pairs write both registers of the active lanes; MOV of a pair to sD writes 64 bits. R71, R72, R35: a destination s61 to s63 is
lanes of the slot.
The model's choices that it rests on: logs 20, 27, 28, 29, 122, 123, 124, 134. -/
def Obligations.ElementwiseScalarsAndPairs : Prop :=
  (∀ (s : State) (e : Env) (i : Instr) (r : LaneRule) (d : BitVec 6), s.env? = some e → elementLane e i = some r →
     r.1.dst = .scal d → e.Ready (sourcesUse r.1 r.2.1 1) →
     let fl := (e.deadFlag (sourcesUse r.1 r.2.1 1)).or (e.laneAt r 0).fl
     let v : BitVec 64 := BitVec.ofNat 64 ((e.laneAt r 0).val % 2 ^ 32)
     e.Quiet fl → e.NoPop d v →
     exec i s = .next (s.setGroup e.gid (e.withScalar { e.passed with regs := e.readRegs (sourcesUse r.1 r.2.1 1) fl } d v))) ∧
  (∀ (s : State) (e : Env) (i : Instr) (x : XArgs) (n : Nat) (f : Nat → Nat), s.env? = some e → wideLane e i = some (x, n, f) →
     e.Ready (sourcesUse x n 2) → e.Quiet (e.deadFlag (sourcesUse x n 2)) →
     let regs := e.readRegs (sourcesUse x n 2) (e.deadFlag (sourcesUse x n 2))
     (∀ d, x.dst = .vec d → exec i s = .next (s.setGroup e.gid
       { (e.passed.modSlot e.slot fun y => y.wrote d.toNat 2) with
         regs := regs.setVecs d.toNat (e.active x)
           [mkLanes fun l => BitVec.ofNat 32 (f l), mkLanes fun l => BitVec.ofNat 32 (f l / 2 ^ 32)] })) ∧
     (∀ d : BitVec 6, x.dst = .scal d → e.NoPop d (BitVec.ofNat 64 (f 0)) →
       exec i s = .next (s.setGroup e.gid (e.withScalar { e.passed with regs := regs } d (BitVec.ofNat 64 (f 0))))))

/-- R70, R76, R90, R129: with the discard destination only flags and marks remain; a flag whose enable is set traps, over
the slot's lanes for POISON, and the destination is not written.
The model's choices that it rests on: logs 20, 27, 28, 29, 122, 123, 124, 134. -/
def Obligations.ElementwiseFlagsAndTraps : Prop :=
  ∀ (s : State) (e : Env) (i : Instr) (r : LaneRule), s.env? = some e → elementLane e i = some r →
    e.Ready (sourcesUse r.1 r.2.1 1) → (∀ d, r.1.dst ≠ .scal d) →
    (r.1.dst = .discard → e.Quiet (e.laneFlagsOf r) → exec i s = .next (s.setGroup e.gid
      { e.passed with regs := e.readRegs (sourcesUse r.1 r.2.1 1) (e.laneFlagsOf r) })) ∧
    (flagTrap e.g.regs.astat (e.laneFlagsOf r) = some .poison →
      exec i s = .next ((s.setFlags e (e.laneFlagsOf r)).takeTrap e .poison 0 e.lanes)) ∧
    (flagTrap e.g.regs.astat (e.laneFlagsOf r) = some .divz → ∃ m : LaneMask,
      (∀ l, l < 96 → m.getLsbD l = ((e.active r.1).getLsbD l &&
        (((e.laneAt r l).fl.divz && e.g.regs.astat.getLsbD 9) || ((e.laneAt r l).fl.ovf && e.g.regs.astat.getLsbD 10)))) ∧
      exec i s = .next ((s.setFlags e (e.laneFlagsOf r)).takeTrap e .divz 0 m))

/-- R28, R91, R344: an element-wise instruction that names a register its group does not have traps ILLOP; one whose
registers still await data waits, and nothing else changes.
The model's choices that it rests on: log 55. -/
def Obligations.OperandsAreAwaited : Prop :=
  ∀ (s : State) (e : Env) (i : Instr) (r : LaneRule), s.env? = some e → elementLane e i = some r →
    (e.exists? (sourcesUse r.1 r.2.1 1) = false → exec i s = .next (s.takeTrap e .illop 0 e.lanes)) ∧
    (e.exists? (sourcesUse r.1 r.2.1 1) = true → (e.useRegs (sourcesUse r.1 r.2.1 1)).any e.awaited.contains = true →
      exec i s = .next (s.setGroup e.gid (e.g.setSlot e.slot { e.sl with wait := .loads })))

/-! ### Cross-lane operations -/

/-- R80, R298: BALLOT gives segment w of the mask of active lanes whose condition holds. R80, R412: VOTE gives 1 where
all, some, or uniformly all active lanes hold, else 0; of no lane all and uniform are true. -/
def Obligations.VotesAndBallots : Prop :=
  (∀ (s : State) (e : Env) (x : XArgs), s.env? = some e → e.Ready (sourcesUse x 1 1) →
     e.Quiet (e.deadFlag (sourcesUse x 1 1)) → ∃ v : Word,
       (∀ k, k < 32 → v.getLsbD k =
         ((e.active x).getLsbD (32 * (x.fn.toNat % 4) + k) && e.holdsIn x (32 * (x.fn.toNat % 4) + k))) ∧
       (e.SpreadNoPop x v → exec (.ballot x) s = .next (s.setGroup e.gid (e.spreadGroup x (e.deadFlag (sourcesUse x 1 1)) v)))) ∧
  (∀ (s : State) (e : Env) (x : XArgs), s.env? = some e → e.Ready (sourcesUse x 1 1) →
     e.Quiet (e.deadFlag (sourcesUse x 1 1)) → ∃ v : Word, (v = 0 ∨ v = 1) ∧ (v = 1 ↔ e.voted x) ∧
       (e.SpreadNoPop x v → exec (.vote x) s = .next (s.setGroup e.gid (e.spreadGroup x (e.deadFlag (sourcesUse x 1 1)) v))))

/-- R380, R381: REDUX gives every active lane, or sD, the reduction of the active lanes' values; an integer reduction is the
fold of its operation from its identity and sets no flag. -/
def Obligations.ReductionsFoldActiveLanes : Prop :=
  (∀ (s : State) (e : Env) (x : XArgs), s.env? = some e → e.Ready (sourcesUse x 1 1) →
    let r := reduce x.ty (x.fn.toNat % 8) x.rm (e.active x) (e.val x (.ofTy x.ty) x.ty x.a)
    let fl := { e.deadFlag (sourcesUse x 1 1) with inexact := r.2 }
    e.Quiet fl → e.SpreadNoPop x (BitVec.ofNat 32 r.1) →
    exec (.redux x) s = .next (s.setGroup e.gid (e.spreadGroup x fl (BitVec.ofNat 32 r.1)))) ∧
  ∀ (t : Ty) (op : Nat) (rm : Rm) (m : LaneMask) (v : Val), t = .i32 ∨ t = .n32 → op ≤ 5 →
    reduce t op rm m v = ((((LaneMask.toList m).map fun l => BitVec.ofNat 32 (v.at l)).foldl (wordReduce t op)
      (BitVec.ofNat 32 (identity t op))).toNat, false)

/-- R415: XPOSE moves each element to its transposed place, every source read first, in the active lanes only. R411: VGET
gives sD lane n, zero beyond lane 95; VPUT writes lane n of vD where it is active, and counts as a vector instruction in
any case. -/
def Obligations.MovesBetweenLanes : Prop :=
  (∀ (s : State) (e : Env) (x : XArgs) (d : BitVec 8), s.env? = some e → x.dst = .vec d → x.a = .vec d false false →
     x.ty = .b32 ∨ x.ty = .b16 ∨ x.ty = .b8 →
     let u : Use := { srcs := [(x.a, 8)], dst := some x.dst, n := 8 }
     e.Ready u → e.Quiet (e.deadFlag u) → ∃ rs : List Lanes, rs.length = 8 ∧
       exec (.xpose x) s = .next (s.setGroup e.gid
         { (e.passed.modSlot e.slot fun y => y.wrote d.toNat 8) with
           regs := (e.readRegs u (e.deadFlag u)).setVecs d.toNat (e.active x) rs }) ∧
       let w := x.ty.width
       let q := 32 / w
       ∀ k h l, k < 8 → h < q → l < 96 →
         let b := l / (8 * q)
         let j := l % (8 * q)
         let r := q * k + h
         elementAt (rs.getD (j / q) []) (8 * q * b + r) w (j % q) = elementAt (e.g.regs.vec (d.toNat + k)) l w h) ∧
  (∀ (s : State) (e : Env) (x : XArgs), s.env? = some e →
     let w := if x.ty = .b64 then 2 else 1
     let n := (e.val x .int .b64 x.b).at64 0
     (∀ d : BitVec 6, x.dst = .scal d →
       let u : Use := { srcs := [(x.a, w)], dst := some x.dst }
       let v := e.val x .int .b64 x.a
       let r : BitVec 64 := BitVec.ofNat 64 (if 95 < n then 0 else if x.ty = .b64 then v.at64 n else v.at n)
       e.Ready u → e.Quiet (e.deadFlag u) → e.NoPop d r →
       exec (.vget x) s = .next (s.setGroup e.gid
         (e.withScalar { e.passed with regs := e.readRegs u (e.deadFlag u) } d r))) ∧
     (∀ (d : BitVec 8) (a : BitVec 6), x.dst = .vec d → x.a = .scal a → e.Ready { dst := some x.dst, n := w } →
       exec (.vput x) s = .next (s.setGroup e.gid
         { (e.passed.modSlot e.slot fun y => y.wrote d.toNat w) with
           regs := e.g.regs.setVecs d.toNat (e.active x &&& mkMask fun l => l = n)
             (if x.ty = .b64 then [mkLanes fun _ => (e.s a).setWidth 32, mkLanes fun _ => (e.s a).extractLsb' 32 32]
              else [mkLanes fun _ => (e.s a).setWidth 32]) })))

/-! ### Predicates and single lanes -/

/-- R370, R373: PLOG and the forms of PMOV that write a predicate write the bits of their lanes and no others. R373: PMOV
of a predicate gives the active lanes of vD its bits as 0 or 1, and sD the 32 bits of a segment. -/
def Obligations.PredicatesComputedAndMoved : Prop :=
  (∀ (s : State) (e : Env) (x : XArgs) (d : BitVec 3), s.env? = some e → x.dst = .pred d →
     (∀ a b, x.a = .pred a → x.b = .pred b → exec (.plog x) s = .next (s.setGroup e.gid
       { e.passed with
         regs := e.g.regs.setPred d.toNat (e.active x)
           (predLogic (x.fn.setWidth 3) (e.g.regs.pred a.toNat) (e.g.regs.pred b.toNat)) })) ∧
     (∀ a, x.a = .pred a → exec (.pmov x) s = .next (s.setGroup e.gid
       { e.passed with regs := e.g.regs.setPred d.toNat (e.active x) (e.g.regs.pred a.toNat) })) ∧
     (∀ a, x.a = .scal a → exec (.pmov x) s = .next (s.setGroup e.gid
       { e.passed with
         regs := e.g.regs.setPred d.toNat (e.active x &&& mkMask fun l => l / 32 = x.fn.toNat % 4)
           (mkMask fun l => (e.s a).getLsbD (l % 32)) })) ∧
     (x.a.isVec = true → e.Ready (sourcesUse x 1 1) → e.Quiet (e.deadFlag (sourcesUse x 1 1)) →
       exec (.pmov x) s = .next (s.setGroup e.gid
         { e.passed with
           regs := (e.readRegs (sourcesUse x 1 1) (e.deadFlag (sourcesUse x 1 1))).setPred d.toNat (e.active x)
             (mkMask fun l => (e.val x .int .b32 x.a).at l != 0) }))) ∧
  (∀ (s : State) (e : Env) (x : XArgs) (a : BitVec 3), s.env? = some e → x.a = .pred a →
     (∀ d : BitVec 8, x.dst = .vec d → d.toNat < e.g.bound → e.awaited.contains d.toNat = false →
       exec (.pmov x) s = .next (s.setGroup e.gid
         { (e.passed.modSlot e.slot fun y => y.wrote d.toNat 1) with
           regs := e.g.regs.setVec d.toNat (e.active x)
             (mkLanes fun l => if (e.g.regs.pred a.toNat).getLsbD l then 1 else 0) })) ∧
     (∀ d : BitVec 6, x.dst = .scal d →
       let v : BitVec 64 := ((e.g.regs.pred a.toNat).extractLsb' (32 * (x.fn.toNat % 4)) 32).setWidth 64
       e.NoPop d v → exec (.pmov x) s = .next (s.setGroup e.gid (e.withScalar e.passed d v))))

/-! ### Control -/

/-- R85, R306: BR, BRC, CALL and BRX move the whole slot to their target in the code window; CALL leaves the address
behind it in lk; a BRC whose condition is false passes. R85, R100, R306: a branch taken to a target outside the code
window traps ILLOP, one to a register address that is not a multiple of 4 MISALIGN, at the branch with nothing changed
before. The INFO of MISALIGN is the model's choice (log 19). R386: RET sets PC to lk, and nothing else changes; MISALIGN
where lk is no multiple of 4, then ILLOP outside the code window. -/
def Obligations.BranchesAndReturns : Prop :=
  (∀ (s : State) (e : Env), s.env? = some e →
     (∀ off : BitVec 22, e.inWindow (e.pc + off.signExtend 64 * 4) = true →
       exec (.br off) s = .next (s.setGroup e.gid (e.jumped (e.pc + off.signExtend 64 * 4))) ∧
       exec (.call off) s = .next (s.setGroup e.gid
         { e.jumped (e.pc + off.signExtend 64 * 4) with regs := e.g.regs.setS 60 (e.pc + 4) })) ∧
     (∀ (a : BitVec 6) (cc : BitVec 2) (off : BitVec 14),
       let taken : Bool := match cc with
         | 0 => e.s a == 0
         | 1 => e.s a != 0
         | 2 => (e.s a).msb
         | _ => !(e.s a).msb
       (taken = false → exec (.brc a cc off) s = .next (s.setGroup e.gid e.passed)) ∧
       (taken = true → e.inWindow (e.pc + off.signExtend 64 * 4) = true →
         exec (.brc a cc off) s = .next (s.setGroup e.gid (e.jumped (e.pc + off.signExtend 64 * 4))))) ∧
     (∀ a : BitVec 6, (e.s a).extractLsb' 0 2 = 0 → e.inWindow (e.s a) = true →
       exec (.brx a) s = .next (s.setGroup e.gid (e.jumped (e.s a))))) ∧
  (∀ (s : State) (e : Env), s.env? = some e →
     (∀ off : BitVec 22, e.inWindow (e.pc + off.signExtend 64 * 4) = false →
       exec (.br off) s = .next (s.takeTrap e .illop 0 e.lanes) ∧ exec (.call off) s = .next (s.takeTrap e .illop 0 e.lanes)) ∧
     (∀ a : BitVec 6, ((e.s a).extractLsb' 0 2 ≠ 0 → exec (.brx a) s = .next (s.takeTrap e .misalign (e.s a) e.lanes)) ∧
       ((e.s a).extractLsb' 0 2 = 0 → e.inWindow (e.s a) = false → exec (.brx a) s = .next (s.takeTrap e .illop 0 e.lanes)))) ∧
  (∀ (s : State) (e : Env), s.env? = some e →
     ((e.s 60).extractLsb' 0 2 = 0 → e.inWindow (e.s 60) = true → exec .ret s = .next (s.setGroup e.gid (e.jumped (e.s 60)))) ∧
     ((e.s 60).extractLsb' 0 2 ≠ 0 → ∃ info, exec .ret s = .next (s.takeTrap e .misalign info e.lanes)) ∧
     ((e.s 60).extractLsb' 0 2 = 0 → e.inWindow (e.s 60) = false → exec .ret s = .next (s.takeTrap e .illop 0 e.lanes)))

/-- R77, R85: BRV splits the slot's lanes by its predicate: without taken lanes it passes, with all taken it jumps; with
the other slot free the taken lanes go there with the splitting slot's last-result file; else the smaller part, the taken
one of equals, is stored on the stack and becomes stacked. A target outside the window, tested only where some lane is
taken, traps ILLOP; a full stack traps DSTKOVF. R79, R341: a JOIN that finds the other slot free and the stack empty
passes; where the other slot runs it waits; where it waits at the same address, slot 0 takes the union of the lanes and
passes, its last-result file reading poison, and slot 1 is freed; at different addresses the slot at the lower one passes.
With the other slot free the top entry of the stack comes into it, and the executing slot keeps waiting for a path that
runs. -/
def Obligations.DivergenceAndReconvergence : Prop :=
  (∀ (s : State) (e : Env) (pn : Bool) (pi : BitVec 3) (off : BitVec 24), s.env? = some e →
     let t := e.under pn pi
     let f := e.lanes &&& ~~~t
     let target := e.pc + off.signExtend 64 * 4
     let keep (pc : BitVec 64) (m : LaneMask) : Slot := { e.sl.clear with pc := pc, mask := m }
     (t = 0 → exec (.brv pn pi off) s = .next (s.setGroup e.gid (e.g.setSlot e.slot (keep (e.pc + 12) e.lanes)))) ∧
     (t ≠ 0 → e.inWindow target = false → exec (.brv pn pi off) s = .next (s.takeTrap e .illop 0 e.lanes)) ∧
     (t ≠ 0 → e.inWindow target = true → f = 0 →
       exec (.brv pn pi off) s = .next (s.setGroup e.gid (e.g.setSlot e.slot (keep target e.lanes)))) ∧
     (t ≠ 0 → e.inWindow target = true → f ≠ 0 → e.otherLive = false →
       exec (.brv pn pi off) s = .next (s.setGroup e.gid
         ((e.g.setSlot (!e.slot) { live := true, pc := target, mask := t, l0 := e.sl.l0, l1 := e.sl.l1 }).setSlot e.slot
           (keep (e.pc + 12) f)))) ∧
     (t ≠ 0 → e.inWindow target = true → f ≠ 0 → e.otherLive = true → e.gr.k.dsb / 16 ≤ e.g.depth →
       exec (.brv pn pi off) s = .next (s.takeTrap e .dstkovf 0 e.lanes)) ∧
     ∀ (pa : Nat) (leaf : BitVec 64) (s1 : State), t ≠ 0 → e.inWindow target = true → f ≠ 0 → e.otherLive = true →
       e.g.depth < e.gr.k.dsb / 16 → e.g.audit = .off → e.hbm = true →
       s.xlate e (e.stackAt e.g.depth) 1 = (.ok pa leaf, s1) → leafWatch leaf = false →
       let taken : Bool := decide ((LaneMask.toList t).length ≤ (LaneMask.toList f).length)
       let m := if taken then t else f
       let pc := if taken then target else e.pc + 12
       exec (.brv pn pi off) s = .next ((s1.stored e (e.stackAt e.g.depth) pa (leBytes 16 (stackEntry e.gr.k.hdr pc false m))).modGroup e.gid
         fun g => { g.setSlot e.slot (if taken then keep (e.pc + 12) f else keep target t) with
           depth := g.depth + 1, stacked := g.stacked ||| m })) ∧
  (∀ (s : State) (e : Env), s.env? = some e → e.sl.live = true →
     let o := e.g.slot (!e.slot)
     (o.live = false → e.g.depth = 0 →
       exec .join s = .next (s.setGroup e.gid (e.g.setSlot e.slot { e.sl.clear with pc := e.pc + 4, join := false }))) ∧
     (o.live = true → o.join = false → exec .join s = .next (s.setGroup e.gid e.atJoin)) ∧
     (o.live = true → o.join = true → e.g.depth = 0 → o.pc = e.pc → exec .join s = .next (s.setGroup e.gid
       { e.g with
         slot0 := { e.g.slot0.clear with
           pc := e.pc + 4, join := false, mask := e.g.slot0.mask ||| e.g.slot1.mask, l0 := .poison, l1 := .poison }
         slot1 := {} })) ∧
     (o.live = true → o.join = true → e.g.depth = 0 → e.pc.toNat < o.pc.toNat →
       exec .join s = .next (s.setGroup e.gid (e.g.setSlot e.slot { e.sl.clear with pc := e.pc + 4, join := false }))) ∧
     (o.live = true → o.join = true → e.g.depth = 0 → o.pc.toNat < e.pc.toNat →
       exec .join s = .next (s.setGroup e.gid (e.atJoin.setSlot (!e.slot) { o.clear with pc := o.pc + 4, join := false }))) ∧
     ∀ (pa : Nat) (leaf : BitVec 64) (s1 : State), o.live = false → 0 < e.g.depth → e.g.audit = .off → e.hbm = true →
       (s.setGroup e.gid e.atJoin).xlate e (e.stackAt (e.g.depth - 1)) 0 = (.ok pa leaf, s1) → leafWatch leaf = false →
       let r := s1.loaded e pa 16
       badEntry e.atJoin r.1 = false → bit r.1 96 = false → r.2.atJoin e (entryPc e.gr.k.hdr r.1) = false →
       exec .join s = .next (r.2.setGroup e.gid (e.atJoin.popped e.gr.k.hdr (!e.slot) r.1 false)))

/-- R35, R79, R327: EXIT frees its slot. The other slot goes on, past its JOIN if it waited there; the top of a non-empty
stack comes into the freed slot, and waits at once where its W is set or its address is a JOIN's; and a group with nothing left to
run retires. R35, R156, R327: the last EXIT of a group waits for its engine operations, and then reports the error of one that
failed as its trap, the slot keeping its lanes.
The model's choices that it rests on: log 66, a popped address is looked at for a JOIN without changing a TLB or a budget; log 67,
the reported error is removed, and matrix errors come after those of engines. -/
def Obligations.ExitsFreeSlots : Prop :=
  (∀ (s : State) (e : Env), s.env? = some e →
     let o := e.g.slot (!e.slot)
     (o.live = true → o.join = false → e.g.depth = 0 → exec .exit s = .next (s.setGroup e.gid e.freed)) ∧
     (o.live = true → o.join = true → e.g.depth = 0 → exec .exit s = .next (s.setGroup e.gid
       (e.freed.setSlot (!e.slot) { o.clear with pc := o.pc + 4, join := false }))) ∧
     (∀ (pa : Nat) (leaf : BitVec 64) (s1 : State), 0 < e.g.depth → e.g.audit = .off → e.hbm = true →
       (s.setGroup e.gid e.freed).xlate e (e.stackAt (e.g.depth - 1)) 0 = (.ok pa leaf, s1) → leafWatch leaf = false →
       let r := s1.loaded e pa 16
       let waits : Bool := bit r.1 96 || r.2.atJoin e (entryPc e.gr.k.hdr r.1)
       badEntry e.freed r.1 = false → (o.live && o.join) = false → (o.live = true ∨ waits = false) →
       exec .exit s = .next (r.2.setGroup e.gid (e.freed.popped e.gr.k.hdr e.slot r.1 waits))) ∧
     (o.live = false → e.g.depth = 0 → e.Plain → e.g.eng = [[], [], [], []] → e.g.mat = [] → e.g.engErr = [] → e.g.matErr = [] →
       exec .exit s = .next (s.setGroup e.gid { e.freed with life := .retiring, dormant := 0 }))) ∧
  (∀ (s : State) (e : Env), s.env? = some e → e.otherLive = false → e.g.depth = 0 → e.Plain →
     ((∃ q ∈ e.g.eng, q ≠ []) → exec .exit s = .next (s.setGroup e.gid (e.waiting .engine))) ∧
     ∀ (c code : Nat) (a : BitVec 64), (∀ q ∈ e.g.eng, q = []) → e.g.mat = [] → c < 4 → e.g.engErr = [(c, code, a)] →
       exec .exit s = .next ((s.setGroup e.gid { e.g with engErr := [] }).takeTrap e (.ofErr code) a e.lanes))

/-- R366: NOP is the word 0, and only passes; every other word with OPC 0, under LEN 00 or 01, traps ILLOP. -/
def Obligations.NopOnlyPasses : Prop :=
  (∀ rest, decode (0 :: rest) = .ok (.nop, 1)) ∧
  (∀ (s : State) (e : Env), s.env? = some e → e.len = 4 →
    exec .nop s = .next (s.setGroup e.gid (e.g.setSlot e.slot { e.sl.clear with pc := e.pc + 4 }))) ∧
  ∀ (w : Word) (rest : List Word), w.extractLsb' 22 8 = 0 → (w.extractLsb' 30 2).toNat ≤ 1 → w ≠ 0 → FetchTrapsIllop (w :: rest)

/-- R83: a word whose LEN and OPC do not pair traps ILLOP. -/
def Obligations.BadPairingTraps : Prop :=
  ∀ (w : Word) (rest : List Word), BadPairing w → FetchTrapsIllop (w :: rest)

/-- R409: TRAP #n is 0x05C00000 + n and raises TRAPI with INFO n, from the state before it; a nonzero D or A traps ILLOP. -/
def Obligations.TrapRaisesTrapi : Prop :=
  (∀ n : BitVec 10, encode (.trap n) = [0x05C00000 + n.setWidth 32]) ∧
  (∀ n : BitVec 10, ∀ rest, decode ((0x05C00000 + n.setWidth 32) :: rest) = .ok (.trap n, 1)) ∧
  (∀ (s : State) (e : Env) (n : BitVec 10), s.env? = some e →
    exec (.trap n) s = .next (s.takeTrap e .trapi (n.setWidth 64) e.lanes)) ∧
  ∀ (w : Word) (rest : List Word), w.extractLsb' 22 10 = 0x17 → w.extractLsb' 10 12 ≠ 0 → FetchTrapsIllop (w :: rest)

/-- R257 to R260, R261, R304: TRAP and BKPT enter the handler: the record is stored in the lowest free continuation slot,
lk holds its address, l0 and l1 read poison, the slot goes on at TVEC with its lanes, and the slot of the area is taken;
nothing else of the group changes. R259, R262, R304: with no handler set, or inside a handler, TRAP and BKPT are
unhandled, which outside a step grid terminates the context. R260: the fields of a trap record, and zeros between them.
R261, R325: ERET and ERET.skip read the record back from its address in lk: PC is the record's, past its LENB bytes with
.skip, lk its LKSAV; the continuation slot is free and the other PC slot may issue. Outside a handler, or with entries
left on the stack, they trap ILLOP.
The model's choices that it rests on: log 61. -/
def Obligations.TrapsAndReturns : Prop :=
  ((∀ (s s1 : State) (e : Env) (n : BitVec 10) (i pa : Nat) (leaf : BitVec 64), s.env? = some e → e.CanHandle i →
      s.xlate e (e.c.contAddr i) 1 = (.ok pa leaf, s1) → e.hbm = true →
      let after (code : TrapCode) : State :=
        (((s1.charge e.c.vf 0 64).store e (e.c.contAddr i) pa (leBytes 64 (trapRecord e code (n.setWidth 64) e.lanes)) .group).modCtx e.cid
          fun c => { c with contUsed := c.contUsed ++ [i] }).modGroup e.gid fun g =>
            { g.modSlot e.slot (fun x => { x.clear with pc := e.c.tvec, l0 := .poison, l1 := .poison }) with
              handler := some (e.slot, i, g.depth)
              regs := g.regs.setS 60 (e.c.conta + BitVec.ofNat 64 (24576 * i)) }
      exec (.trap n) s = .next (after .trapi) ∧ exec (.bkpt n) s = .next (after .bkpti)) ∧
   (∀ (s : State) (e : Env) (n : BitVec 10), s.env? = some e → e.gr.step = none → (∀ job log st, e.g.audit ≠ .replay job log st) →
      e.c.tvec = 0 ∨ e.g.handler.isSome = true →
      let info (code : TrapCode) : TermInfo :=
        { cause := if e.g.handler.isSome then 2 else 1, code := code.num
          trapr := trapRecord e code (n.setWidth 64) e.lanes / 2 ^ 192 % 2 ^ 256, trpc := e.pc, tlenb := e.len
          tslot := e.slot, core := e.t.core, grid := e.gr.id, team := e.t.no, group := e.g.no }
      exec (.trap n) s = .next (s.terminateCtx e.cid (info .trapi)) ∧ exec (.bkpt n) s = .next (s.terminateCtx e.cid (info .bkpti))) ∧
   (∀ (e : Env) (code : TrapCode) (info : BitVec 64) (flanes : LaneMask), e.len < 256 →
      let r := trapRecord e code info flanes
      r < 2 ^ 512 ∧ bits r 511 448 = (e.g.regs.s.getD 60 0).toNat ∧ bits r 447 384 = info.toNat ∧ bits r 383 288 = flanes.toNat ∧
      bits r 287 192 = e.lanes.toNat ∧ bits r 191 128 = e.pc.toNat ∧ bits r 127 72 = 0 ∧ bits r 71 64 = e.len ∧
      bits r 63 9 = 0 ∧ bits r 8 8 = e.slot.toNat ∧ bits r 7 0 = code.num)) ∧
  (∀ (s s1 : State) (e : Env) (skip : Bool) (i depth pa : Nat) (leaf : BitVec 64), s.env? = some e →
     let run := exec (if skip then Instr.eretSkip else .eret) s
     (e.g.handler = none → run = .next (s.takeTrap e .illop 0 e.lanes)) ∧
     (e.g.handler = some (e.slot, i, depth) → depth < e.g.depth → run = .next (s.takeTrap e .illop 0 e.lanes)) ∧
     (e.g.handler = some (e.slot, i, depth) → e.g.depth ≤ depth → e.g.audit = .off → e.hbm = true →
       s.xlate e (e.g.regs.s.getD 60 0).toNat 0 = (.ok pa leaf, s1) → leafWatch leaf = false →
       let r := (s1.loaded e pa 64).1
       let target : BitVec 64 := BitVec.ofNat 64 (bits r 191 128 + if skip then bits r 71 64 else 0)
       (target - e.gr.k.hdr).toNat < 2 ^ 32 →
       run = .next (((s1.loaded e pa 64).2.modCtx e.cid fun c => { c with contUsed := c.contUsed.filter (· ≠ i) }).setGroup e.gid
         { e.jumped target with handler := none, regs := e.g.regs.setS 60 (BitVec.ofNat 64 (bits r 511 448)) })))

/-- R93, R94: an MPX stages its fields for the instruction that follows, and changes nothing else, where they pair; any other
pairing traps ILLOP at the MPX. Acquire does not pair with what only stores, release with what only loads, ORD or RX with an
engine, nor any field with an MPX. -/
def Obligations.PrefixPairs : Prop :=
  (∀ (s : State) (e : Env) (u : Cur) (p : Prefix), s.cur = some u → s.env? = some e →
    (∀ i, e.next = some i → pairOk p i = true → exec (.mpx p) s = .next { s with cur := some { u with pfx := some p } }) ∧
    ((∀ i, e.next = some i → pairOk p i = false) → exec (.mpx p) s = .next (s.takeTrap e .illop 0 e.lanes))) ∧
  ∀ (p q : Prefix) (x : XArgs), pairOk p (.mpx q) = false ∧
    (p.ord = .acq → pairOk p (.stg x) = false ∧ pairOk p (.sts x) = false ∧ pairOk p (.stf x) = false ∧ pairOk p (.reqst x) = false) ∧
    (p.ord = .rel → pairOk p (.ldg x) = false ∧ pairOk p (.lds x) = false ∧ pairOk p (.ldf x) = false ∧ pairOk p (.ldk x) = false ∧
      pairOk p (.pfg x) = false ∧ pairOk p (.reqld x) = false) ∧
    ((p.ord ≠ .rlx ∨ p.rx = true) → pairOk p (.cpy x) = false ∧ pairOk p (.gath x) = false ∧ pairOk p (.scat x) = false ∧
      pairOk p (.coll x) = false ∧ pairOk p (.cpyf x) = false)

/-! ### Steps, fetches and the decoder -/

/-- R82, R93, R94, R98, R100, R362: a step whose schedule issues a ready slot that its partition selects executes the instruction
that its fetched words decode to, or the MPX and the instruction it prefixes; words that decode to none trap ILLOP, an illegal MPX
together with what follows it (log 46), and so does an MPX whose following word lies outside the code window. Around the meaning the
step only lets a cycle pass, notes the issue for R63, enters the replay queue of R252, and lets the module's units and the resident
sets of R62 go on. A slot that waits has its instruction tried again: while it waits on, what the attempt did stays, and else the
slot is ready to issue it.
The model's choices that it rests on: logs 1, 21 and 25, one move and one cycle a step, and a waiting slot tried again; log 46, what
an illegal MPX spans; log 57, the trap that a re-execution's log tells; log 73, an MPX at the window's end. -/
def Obligations.StepRunsDecodedInstruction : Prop :=
  ∀ (s s1 : State) (gid n : Nat) (slot : Bool) (rest : List Move) (g : Group) (e : Env) (ws : List Word),
    s.sched = .issue gid slot :: rest → s.due = [] → (s.clocked rest).group? gid = some g → g.mayAct slot = true →
    (g.slot slot).wait.rests = false →
    let s0 := (s.clocked rest).noteIssue gid slot
    let u : Cur := { gid, slot, pc := (g.slot slot).pc, len := 4 }
    let ran (d : Env) (i : Instr) (t : State) : State :=
      if d.trapsEarly t then (s.clocked rest).outOfTurn gid slot else (t.replayEnter d i).after
    ((g.slot slot).wait = .ready → (s.clocked rest).selects gid slot = true → s0.envOf u = some e → e.inWindow e.pc = true →
      s0.fetchInstr e e.pc.toNat 0 = (.words ws s1, n) →
      (∀ err, decode ws = .error err → (mpxWord ws = false → step s = .next (s1.takeTrap { e with len := n } .illop 0 e.lanes).after) ∧
        ∀ (m : Nat) (ws2 : List Word) (s2 : State), mpxWord ws = true → e.inWindow (e.pc + 4) = true →
          s1.fetchInstr e (e.pc.toNat + 4) 4 = (.words ws2 s2, m) →
          step s = .next (s2.takeTrap { e with len := m } .illop 0 e.lanes).after) ∧
      (mpxWord ws = true → e.inWindow (e.pc + 4) = false → ((∃ p k, decode ws = .ok (.mpx p, k)) ∨ ∃ err, decode ws = .error err) →
        step s = .next (s1.takeTrap { e with len := 4 } .illop 0 e.lanes).after) ∧
      (∀ (i : Instr) (k : Nat) (d : Env), decode ws = .ok (i, k) → (∀ p, i ≠ .mpx p) →
        (s1.runs { u with len := n }).env? = some d → d.turn (s1.runs { u with len := n }) i = true →
        d.loggedTrap = none → step s = mapNext (ran d i) (exec i (s1.runs { u with len := n }))) ∧
      ∀ (p : Prefix) (k m : Nat) (i : Instr) (j : Nat) (ws2 : List Word) (s2 : State) (d : Env),
        decode ws = .ok (.mpx p, k) → e.inWindow (e.pc + 4) = true → s1.fetchInstr e (e.pc.toNat + 4) 4 = (.words ws2 s2, m) →
        decode ws2 = .ok (i, j) →
        let s3 := s2.runs { u with len := m, next := some i }
        s3.env? = some d → d.turn s3 i = true → d.loggedTrap = none → pairOk p i = true →
        step s = mapNext (ran d i) (exec i (s2.runs { u with len := m, next := some i, pfx := some p }))) ∧
    ∀ (i : Instr) (k : Nat) (d : Env), (g.slot slot).wait ≠ .ready → (s.clocked rest).envOf u = some e → e.inWindow e.pc = true →
      (s.clocked rest).fetchInstr e e.pc.toNat 0 = (.words ws s1, n) → decode ws = .ok (i, k) → (∀ p, i ≠ .mpx p) →
      (s1.runs { u with len := n }).env? = some d → d.turn (s1.runs { u with len := n }) i = true →
      d.loggedTrap = none → step s = mapNext
        (fun t => if t.stillWaits gid slot u.pc then t.after else (s.clocked rest).resumes gid slot)
        (exec i (s1.runs { u with len := n }))

/-- R3, R82, R100: the words fetched are the little-endian words of memory at the PC, one, three or five by the first
word's LEN, where every page of them is mapped for execution and no budget bounds the VF. A step names nothing where the slot it names
may not act, waits for an event alone, or is ready and not the one that its partition selects (R63).
That what is due goes before the schedule is the model's choice (log 114), and so are the moves of the schedule, one a step with
one cycle passing (logs 21, 25): an event, a latency, a load that misses (R62), the passing of time. Other choices that it rests on:
logs 53, 73, 104, 126, 133. -/
def Obligations.FetchesAndOtherMoves : Prop :=
  (∀ (s : State) (e : Env) (pa : Nat) (leaf : BitVec 64), s.Unmetered e.c.vf → e.hbm = true →
     (∀ k, k < 5 → s.xlate e (e.pc.toNat + 4 * k) 3 = (.ok (pa + 4 * k) leaf, s)) →
     let w (k : Nat) : Word := BitVec.ofNat 32 (s.num .module none (pa + 4 * k) 4)
     let n := match (w 0).extractLsb' 30 2 with
       | 0 => 1
       | 3 => 5
       | _ => 3
     s.fetchInstr e e.pc.toNat 0 = (.words ((List.range n).map w) s, 4 * n)) ∧
  (∀ (s : State) (i : Instr) (l : List Instr), s.due = i :: l → encode i = [] →
     step s = mapNext State.after (exec i (s.clocked s.sched))) ∧
  (∀ (s : State) (rest : List Move), s.due = [] →
     (∀ i : Instr, s.sched = .event i :: rest → encode i = [] → step s = mapNext State.after (exec i (s.clocked rest))) ∧
     (∀ n, s.sched = .tick n :: rest → step s = .next { s.clocked rest with cycle := s.cycle + 1 + n }.after) ∧
     (∀ gid id, s.sched = .miss gid id :: rest → step s = .next ((s.clocked rest).modGroup gid fun g => { g with
       loads := g.loads.map fun l => if l.id = id && l.dev then { l with miss := true } else l }).after) ∧
     (∀ gid slot n, s.sched = .stall gid slot n :: rest → step s = .next ((s.clocked rest).modGroup gid fun g =>
       g.modSlot slot fun x => { x with busy := s.cycle + 1 + n }).after) ∧
     ∀ (gid : Nat) (slot : Bool) (g : Group), s.sched = .issue gid slot :: rest → s.group? gid = some g →
       g.mayAct slot = false ∨ (g.slot slot).wait.rests = true ∨
         ((g.slot slot).wait = .ready ∧ (s.clocked rest).selects gid slot = false) →
       step s = .next (s.clocked rest).after)

/-- Words written out from the encodings of R84 to R97 decode to their instructions. -/
def Obligations.WordsDecode : Prop :=
  decode [0x05C00005] = .ok (.trap 5, 1) ∧ decode [0x00400000] = .ok (.br 0, 1) ∧ decode [0x070B0000] =
    .ok (.mpx { ord := .acq, scope := .device, cache := 0, nt := false, rx := false }, 1) ∧
  decode [0x08010C20] = .ok (.sadd 1 3 2, 1) ∧
  decode [0x915C0820, 0x00803000, 0x00000000] = .ok (.idiv { dst := .vec 4, ty := .i32, a := .vec 2 false false, b := .vec 3 false false }, 3) ∧
  decode [0x92DEA422, 0x00C04000, 0x10000000] = .ok (.icmp { dst := .pred 2, ty := .i32, fn := 2, a := .vec 3 false false, b := .scal 4 }, 3) ∧
  decode [0xA0040000, 0x00000000, 0x00FFFFFE] = .ok (.brv false 1 0xFFFFFE, 3) ∧
  decode [0x4AC50000, 0x89ABCDEF, 0x01234567] = .ok (.sliLit 5 0x0123456789ABCDEF, 3)

/-- R84 to R98: every instruction whose fields its entry accepts is decoded back from its own words, whatever follows them. -/
def Obligations.DecodeOfEncode : Prop :=
  ∀ (i : Instr) (rest : List Word), i.wf = true → encode i ≠ [] → decode (encode i ++ rest) = .ok (i, (encode i).length)

/-! ### Loads -/

/-- R138, R146, R149, R344: LDG and LDF read each active lane's words, or its page's elements, in the lanes' ascending
order, after the group's own stores to them; the values wait as an outstanding load of vD, the unit is over, and nothing else
changes. R62, R347: the load of an LDF is one at which the group is swapped out. R135, R215: LDK loads a pair of elements a lane, of
an i8 page their values in f32, and turns it by the lane's angle.
The model's choices that it rests on: logs 21, 126, 134. -/
def Obligations.LoadsWaitForRegisters : Prop :=
  (∀ (s : State) (e : Env) (x : XArgs) (d : BitVec 8) (base : BitVec 64) (pa : Nat → Nat) (leaf : Nat → BitVec 64),
     s.env? = some e → x.dst = .vec d → e.Fresh → e.g.audit = .off → s.Unmetered e.c.vf →
     let n := regCount x.fn
     let u : Use := { srcs := [(x.b, 1)], dst := some x.dst, n }
     e.Ready u → e.Quiet (e.deadFlag u) → e.LanesFit x n false base pa leaf →
     let s1 := s.setFlags e (e.deadFlag u)
     let r := e.loadsOf x n pa leaf s1 (e.activeLanes x)
     let t (fab : Bool) : State := (r.2.addLoad e (some (d.toNat, n)) r.1 true fab).memDone e x u
     (∀ g, x.a = .greg g → (e.greg x.a).written = true → base = (e.greg x.a).base →
       e.LanesMap s1 (fun s a => s.xlGreg e (e.greg x.a) 0 a) x base pa leaf → exec (.ldg x) s = .next (t false)) ∧
     (∀ a, x.a = .scal a → base = e.s a → e.LanesMap s1 (fun s a => s.xlFab e 0 a) x base pa leaf →
       exec (.ldf x) s = .next (t true))) ∧
  (∀ (s : State) (e : Env) (x : XArgs) (d : BitVec 8) (g : BitVec 4) (pa : Nat → Nat) (leaf : Nat → BitVec 64),
     s.env? = some e → x.dst = .vec d → x.a = .greg g → (e.greg x.a).written = true → e.Fresh → e.g.audit = .off →
     s.Unmetered e.c.vf →
     let u : Use := { srcs := [(x.b, 1), (x.c, 1)], dst := some x.dst, n := 2 }
     let base := (e.greg x.a).base
     e.Ready u → e.Quiet (e.deadFlag u) → e.LanesFit x 2 false base pa leaf →
     let s1 := s.setFlags e (e.deadFlag u)
     e.LanesMap s1 (fun s a => s.xlGreg e (e.greg x.a) 0 a) x base pa leaf →
     let r := e.loadsOf x 2 pa leaf s1 (e.activeLanes x)
     let vals := r.1.map fun (l, v) =>
       let el (j : Nat) : Nat := pairElem (x.ty = .page) (leafFmt (leaf l)) (v.getD j 0)
       let p := rotatePair ((e.val x .int .n32 x.c).at l) (el 0) (el 1)
       (l, [p.1, p.2])
     exec (.ldk x) s = .next ((r.2.addLoad e (some (d.toNat, 2)) vals true).memDone e x u))

/-- R139, R142 to R144, R346: LDS reads its lanes' words of the team's scratchpad at once; .fw does so where their
granules are FULL, and waits with all its lanes where they are EMPTY; .fwc of one lane also leaves its granule EMPTY.
R138, R142 to R144, R404: STS writes its active lanes' bytes to the scratchpad in ascending order, seen by the group; .ew
of one lane whose granule is EMPTY writes for the team, and waits where it is FULL.
The model's choices that it rests on: log 56. -/
def Obligations.ScratchpadAccesses : Prop :=
  (∀ (s : State) (e : Env) (x : XArgs) (d : BitVec 8), s.env? = some e → x.dst = .vec d → e.Fresh → e.g.audit = .off →
     let n := regCount x.fn
     let u : Use := { srcs := [(x.b, 1)], dst := some x.dst, n }
     e.Ready u → e.Quiet (e.deadFlag u) → e.ScratchFits x (4 * n) →
     let s1 := s.setFlags e (e.deadFlag u)
     let at_ (l : Nat) : Nat := (e.offset x l).toNat
     let s2 := (e.activeLanes x).foldl (fun s l => s.settleOwn e.gid (some e.g.team) (at_ l) (4 * n)) s1
     let cols := (List.range n).map fun j => mkLanes fun l => BitVec.ofNat 32 (s2.num e.viewer (some e.g.team) (at_ l + 4 * j) 4)
     (x.fn.toNat % 8 = 0 → exec (.lds x) s = .next ((s2.updRegs e fun r => r.setVecs d.toNat (e.active x) cols).memDone e x u)) ∧
     (∀ l, x.fn.toNat % 8 = 1 → e.activeLanes x = [l] → s.isFull e.g.team (at_ l) = true →
       let r := e.spWords s1 (at_ l) n
       exec (.lds x) s = .next ((r.2.fillLane e d.toNat l r.1).memDone e x u)) ∧
     (∀ l, x.fn.toNat % 8 = 2 → e.activeLanes x = [l] → s.isFull e.g.team (at_ l) = true →
       let r := e.spWords s1 (at_ l) n
       exec (.lds x) s = .next (((r.2.fillLane e d.toNat l r.1).modTeam e.g.team
         fun t => { t with full := Map.del t.full (at_ l / 16) }).memDone e x u)) ∧
     (x.fn.toNat % 8 = 1 ∨ x.fn.toNat % 8 = 2 → e.active x ≠ 0 →
       (∀ l, (e.active x).getLsbD l = true → s.isFull e.g.team (at_ l) = false) →
       exec (.lds x) s = .next ((s1.updSlot e fun y =>
         { y with unf := some (e.active x), dest := (List.range n).map (d.toNat + ·) }).updSlot e
         fun y => { y with wait := .granule }))) ∧
  (∀ (s : State) (e : Env) (x : XArgs), s.env? = some e → x.dst = .discard → e.Fresh → e.g.audit = .off → e.g.pair = none →
     releases (e.pfxOf .store .team).ord = false →
     let n := regCount x.fn
     let u := storeUse x n
     e.Ready u → e.Quiet (e.deadFlag u) → e.ScratchFits x (4 * n) →
     let s1 := s.setFlags e (e.deadFlag u)
     let at_ (l : Nat) : Nat := (e.offset x l).toNat
     let done (s : State) : State := (s.recordLanes e (e.active x) (fun l => e.offset x l) 0 (sizeCode (4 * n))
       (e.storeBytes x n)).memDone e x u
     (x.fn.toNat % 8 = 0 → exec (.sts x) s = .next
       (done ((e.activeLanes x).foldl (fun s l => s.storeSp e (at_ l) (e.storeBytes x n l) .group) s1))) ∧
     ∀ l, x.fn.toNat % 8 = 1 → e.activeLanes x = [l] →
       let s2 := s1.settleBytes (some e.g.team) (at_ l / 16 * 16) 16 .team
       (s2.isFull e.g.team (at_ l) = false →
         exec (.sts x) s = .next (done (s2.storeSp e (at_ l) (e.storeBytes x n l) .team))) ∧
       (s2.isFull e.g.team (at_ l) = true → exec (.sts x) s = .next
         ((s2.updSlot e fun y => { y with unf := some (e.active x) }).updSlot e fun y => { y with wait := .granule })))

/-- R400: SLDU reads eight bytes at its address once, whatever the mask, into sD, lanes of the slot where it is s61 to s63. R245, R400: SSTU stores eight bytes of
sD once, whatever the mask, and the signature takes their record. -/
def Obligations.UniformAccesses : Prop :=
  (∀ (s : State) (e : Env) (d a : BitVec 6) (imm : BitVec 10) (lit : BitVec 64) (pa : Nat) (leaf : BitVec 64), s.env? = some e →
     e.Fresh → e.g.audit = .off → s.Unmetered e.c.vf → leafWatch leaf = false →
     let r := s.readOwn e none pa 8
     let done : State := r.2.setGroup e.gid (e.withScalar e.passed d (BitVec.ofNat 64 r.1))
     e.NoPop d (BitVec.ofNat 64 r.1) →
     ((e.s a + imm.signExtend 64).toNat % 8 = 0 → s.xlate e (e.s a + imm.signExtend 64).toNat 0 = (.ok pa leaf, s) →
       exec (.sldu d a imm) s = .next done) ∧
     ((e.s a + lit).toNat % 8 = 0 → s.xlate e (e.s a + lit).toNat 0 = (.ok pa leaf, s) → exec (.slduLit d a lit) s = .next done)) ∧
  (∀ (s : State) (e : Env) (d a : BitVec 6) (imm : BitVec 10) (lit : BitVec 64) (pa : Nat) (leaf : BitVec 64), s.env? = some e →
     e.lanes ≠ 0 → e.Fresh → e.g.audit = .off → e.g.pair = none → s.Unmetered e.c.vf → leafWatch leaf = false →
     releases (e.pfxOf .store .pod).ord = false →
     let bytes := leBytes 8 (e.s d).toNat
     let done (va : BitVec 64) : State := ((s.store e va.toNat pa bytes .group).record e va 1 3 bytes).advance e
     ((e.s a + imm.signExtend 64).toNat % 8 = 0 → s.xlate e (e.s a + imm.signExtend 64).toNat 1 = (.ok pa leaf, s) →
       exec (.sstu d a imm) s = .next (done (e.s a + imm.signExtend 64))) ∧
     ((e.s a + lit).toNat % 8 = 0 → s.xlate e (e.s a + lit).toNat 1 = (.ok pa leaf, s) →
       exec (.sstuLit d a lit) s = .next (done (e.s a + lit))))

/-- R145, R337: GSET makes one translation and keeps it in a register, its limit ending at the page. R369: PFG translates its
lanes' addresses, which counts in the VF's walks and fills the TLBs, counts what they name in the VF's HBM traffic where that is
admitted, and passes; nothing that a program sees changes. Its offset register must exist. -/
def Obligations.TranslationAndPrefetch : Prop :=
  (∀ (s s1 : State) (e : Env) (x : XArgs) (d : BitVec 4) (a b : BitVec 6) (pa : Nat) (leaf : BitVec 64) (t : Tlb),
     s.env? = some e → x.dst = .greg d → x.a = .scal a → x.b = .scal b → e.g.audit = .off →
     let base := e.s a + x.xf.signExtend 64
     s.xlate e base.toNat 0 = (.ok pa leaf, s1) → s1.tlbFind e.t.core (asidOf e.cid) (base.toNat / 65536) = some t →
     let size := levelPages t.level * 65536
     exec (.gset x) s = .next (s1.setGroup e.gid { e.passed with
       regs := { e.g.regs with
         g := e.g.regs.g.set d.toNat
           { base, request := e.s b, written := true, frame := BitVec.ofNat 64 pa, leaf, level := t.level
             limit := min (e.s b).toNat (size - base.toNat % size) } } })) ∧
  (∀ (s : State) (e : Env) (x : XArgs), s.env? = some e →
     (e.exists? { srcs := [(x.b, 1)] } = true →
       let g := e.greg x.a
       let r := if g.written then s.prefetch e g (4 * regCount x.fn) (e.accs x g.base (e.active x)) else ([], s)
       let t := if r.2.admits e.c.vf 0 then r.2.charge e.c.vf 0 (sectorBytes r.1) else r.2
       exec (.pfg x) s = .next (t.setGroup e.gid e.passed) ∧
       t.mem = s.mem ∧ t.pend = s.pend ∧ t.groups = s.groups ∧ t.teams = s.teams ∧ t.ctxs = s.ctxs ∧ t.pageReqs = s.pageReqs) ∧
     (e.exists? { srcs := [(x.b, 1)] } = false → exec (.pfg x) s = .next (s.takeTrap e .illop 0 e.lanes)))

/-- R239, R384: REQLD reads a record of its context: eight bytes at its displacement into sD, which may be lanes of the slot, or each active lane's words
at its offset from the record, as an outstanding load. R239, R385: REQST writes four or eight bytes of the K fields of the
record that the group serves. -/
def Obligations.RequestRecordAccesses : Prop :=
  (∀ (s : State) (e : Env) (x : XArgs) (a : BitVec 6), s.env? = some e → x.a = .scal a → e.g.audit = .off → e.g.pair = none →
     (e.s a).toNat < 65536 →
     (∀ d : BitVec 6, x.dst = .scal d → s.recordOf e.cid (e.s a).toNat = true →
       ∀ off : Nat, x.xf.signExtend 64 = BitVec.ofNat 64 off → off % 8 = 0 → off ≤ 248 →
       let v := ((s.req (e.s a).toNat).bits >>> (8 * off)).setWidth 64
       e.NoPop d v → exec (.reqld x) s = .next (s.setGroup e.gid (e.withScalar e.passed d v))) ∧
     ∀ (d : BitVec 8) (at_ : Nat → Nat), x.dst = .vec d → e.Fresh →
       let n := regCount x.fn
       let u : Use := { srcs := [(x.b, 1)], dst := some x.dst, n }
       e.Ready u → e.Quiet (e.deadFlag u) →
       (∀ l, (e.active x).getLsbD l = true →
         (at_ l : Int) = 256 * (e.s a).toNat + (BitVec.ofNat 32 ((e.val x .int .b32 x.b).at l)).toInt + (x.xf.signExtend 64).toInt ∧
         at_ l % (4 * n) = 0 ∧ at_ l + 4 * n ≤ 2 ^ 24 ∧ s.recordOf e.cid (at_ l / 256) = true) →
       let s1 := s.setFlags e (e.deadFlag u)
       let vals := (e.activeLanes x).map fun l => (l, (List.range n).map fun j =>
         (((s.req (at_ l / 256)).bits >>> (8 * (at_ l % 256 + 4 * j))).setWidth 32).toNat)
       exec (.reqld x) s = .next ((s1.addLoad e (some (d.toNat, n)) vals).memDone e x u)) ∧
  (∀ (s : State) (e : Env) (x : XArgs) (a c : BitVec 6) (off : Nat), s.env? = some e → x.a = .scal a → x.c = .scal c →
     e.g.audit = .off → e.g.pair = none → releases (e.pfxOf .store .device).ord = false → e.lanes ≠ 0 →
     let n := if x.ty = .b64 then 8 else 4
     x.xf.signExtend 64 = BitVec.ofNat 64 off → off % n = 0 → (off = 12 ∧ n = 4) ∨ (132 ≤ off ∧ off + n ≤ 256) →
     (e.s a).toNat < 65536 → (e.s a).toNat = (e.place s).2.1.toNat →
     let r := s.req (e.s a).toNat
     let v := (e.s c).toNat % 2 ^ (8 * n)
     exec (.reqst x) s = .next
       (((s.setReq (e.s a).toNat { r with bits := BitVec.ofNat 2048 (setBits r.bits.toNat (8 * off) (8 * n) v) }).record e
         (BitVec.ofNat 64 (256 * (e.s a).toNat + off)) 3 (sizeCode n) (leBytes n v)).advance e))

/-! ### Stores and atomics -/

/-- R138, R149, R167, R245, R403, R404: STG and STF write each active lane's bytes in ascending order, each a store that the
group sees at once; the signature takes one record of the bytes written, the unit is over, and nothing else changes but INEXACT, which
is set where a typed store rounded (R123).
The model's choices that it rests on: log 33. -/
def Obligations.StoresWriteLanes : Prop :=
  ∀ (s : State) (e : Env) (x : XArgs) (base : BitVec 64) (pa : Nat → Nat) (leaf : Nat → BitVec 64),
    s.env? = some e → x.dst = .discard → e.Fresh → e.g.audit = .off → e.g.pair = none → s.Unmetered e.c.vf →
    releases (e.pfxOf .store .pod).ord = false →
    let n := regCount x.fn
    let u := storeUse x n
    e.Ready u → e.Quiet (e.deadFlag u) → e.LanesFit x n true base pa leaf →
    let s1 := s.setFlags e (e.deadFlag u)
    let va (l : Nat) : BitVec 64 := base + e.offset x l
    let bytes (l : Nat) : List Byte := e.laneBytes x n (leaf l) l
    let s2 := (e.activeLanes x).foldl (fun s l => s.store e (va l).toNat (pa l) (bytes l) .group) s1
    let inexact : Bool := x.ty = .page && (e.activeLanes x).any fun l =>
      (List.range n).any fun j => (formatOf (leaf l)).inexact x.rm (e.storeWord x j l)
    let t (space : Nat) : State := ((s2.setFlags e { inexact }).recordLanes e (e.active x) va space
      (sizeCode (bytes (LaneMask.lowest (e.active x))).length) bytes).memDone e x u
    (∀ r, x.a = .greg r → (e.greg x.a).written = true → base = (e.greg x.a).base →
      e.LanesMap s1 (fun s a => s.xlGreg e (e.greg x.a) 1 a) x base pa leaf → exec (.stg x) s = .next (t 1)) ∧
    (∀ a, x.a = .scal a → base = e.s a → e.LanesMap s1 (fun s a => s.xlFab e 1 a) x base pa leaf → exec (.stf x) s = .next (t 2))

/-- R140, R167, R295: one lane's atomic reads the latest bytes of their coherence order, gives their old value and stores
what the operation makes of it; a .cas that fails stores nothing. R140, R191, R295, R296: ATS performs its active lanes'
atomics in ascending order, and vD receives the old values; ATG and ATF do so on device and fabric memory, in an order
that is free where several lanes name one word (log 26), and the old values wait as an outstanding load. R176: the write of one
that acquires is performed at its scope at once, before anything later. An atomic waits while a lichen half holds bytes of it whose
place in the order is fixed (log 127), which no lane here meets.
The model's choices that it rests on: logs 22, 26, 126, 127. -/
def Obligations.AtomicAccesses : Prop :=
  ((∀ (op : BitVec 3) (signed : Bool) (old x exp : BitVec 32),
     atomicNew op.toNat signed 32 old.toNat x.toNat exp.toNat = (wordAtomic op signed old x exp).map BitVec.toNat) ∧
   (∀ (op : BitVec 3) (old x exp : BitVec 64),
     atomicNew op.toNat false 64 old.toNat x.toNat exp.toNat = (wordAtomic op false old x exp).map BitVec.toNat) ∧
   ∀ (s : State) (e : Env) (x : XArgs) (level : Scope) (sp : Option Nat) (l va a : Nat), e.g.audit = .off → e.g.pair = none →
     let n := atomicSize x
     let s1 := s.settleBytes sp a n (if sp.isSome then .team else .pod) e.g.team
     let old := s1.num e.viewer sp a n
     s.atomicLane e x level sp l va a =
       (old, match atomicNew (x.fn.toNat % 8) (x.ty = .i32) (8 * n) old (e.atomicArgs x l).1 (e.atomicArgs x l).2 with
       | none => s1
       | some v => if sp.isSome then s1.addStore e.gid e.g.team e.t.core (some e.g.team) a (leBytes n v) .team false a true
           else s1.addStore e.gid e.g.team e.t.core none a (leBytes n v) level false va true)) ∧
  (∀ (s : State) (e : Env) (x : XArgs) (base : BitVec 64) (pa : Nat → Nat) (leaf : Nat → BitVec 64), s.env? = some e →
     e.Fresh → e.g.audit = .off → e.g.pair = none → s.Unmetered e.c.vf → e.Ready (atomicUse x) → e.Quiet (e.deadFlag (atomicUse x)) →
     let s1 := s.setFlags e (e.deadFlag (atomicUse x))
     (releases (e.pfxOf .atomic .team).ord = false → e.ScratchFits x 4 →
       let at_ (l : Nat) : Nat := (e.offset x l).toNat
       let r := e.atomicsOf x .team (some e.g.team) at_ at_ s1 (e.activeLanes x)
       (∀ d, x.dst = .vec d → exec (.ats x) s = .next ((r.2.updRegs e fun g => g.setVec d.toNat (e.active x)
         (mkLanes fun l => BitVec.ofNat 32 (((r.1.find? fun p => p.1 = l).map (·.2)).getD 0))).atomicDone e x 0 0)) ∧
       (x.dst = .discard → exec (.ats x) s = .next (r.2.atomicDone e x 0 0))) ∧
     (releases (e.pfxOf .atomic .pod).ord = false → (∀ l, (e.active x).getLsbD l = true → (base + e.offset x l).toNat % atomicSize x = 0) →
       let order := (s1.atomicOrder (e.accs x base (e.active x))).map (·.lane)
       let p := e.pfxOf .atomic .pod
       let r := e.atomicsOf x (if acquires p.ord then p.scope else .group) none (fun l => (base + e.offset x l).toNat) pa
         { s1 with free := s1.free + 1 } order
       let t (space : Nat) : State := (r.2.addLoad e (atomicDst x) (r.1.map fun p => (p.1, halves (atomicSize x) p.2)) true
         x.a.isScal).atomicDone e x base space
       (∀ l, (e.active x).getLsbD l = true → s.pinnedBy e.g.team none (pa l) (atomicSize x) = false) →
       (∀ g, x.a = .greg g → (e.greg x.a).written = true → base = (e.greg x.a).base →
         e.LanesMap { s1 with free := s1.free + 1 } (fun s a => s.xlGreg e (e.greg x.a) 2 a) x base pa leaf →
         exec (.atg x) s = .next (t 1)) ∧
       (∀ a, x.a = .scal a → base = e.s a → e.LanesMap { s1 with free := s1.free + 1 } (fun s a => s.xlFab e 2 a) x base pa leaf →
         exec (.atf x) s = .next (t 2))))

/-- R138, R139, R260, R346: accesses that are not aligned to their size trap MISALIGN, with the first such lane's address
and all such lanes; a scratchpad access outside the grant traps ACCESS; no lane is performed. R176, R404: a store whose
prefix releases, while an earlier store of the group is not performed at its scope, waits and performs nothing: for the answers of
homes where operations of the group are out, else for stores. -/
def Obligations.AccessChecksAndReleases : Prop :=
  (∀ (s : State) (e : Env) (x : XArgs) (l : Nat), s.env? = some e → e.Fresh → e.g.audit = .off → x.ty ≠ .page →
     let n := regCount x.fn
     let bad (base : BitVec 64) : LaneMask := mkMask fun l => (e.active x).getLsbD l && (base + e.offset x l).toNat % (4 * n) != 0
     let ul : Use := { srcs := [(x.b, 1)], dst := some x.dst, n }
     let us := storeUse x n
     (∀ g, x.a = .greg g → (e.greg x.a).written = true → bad (e.greg x.a).base ≠ 0 →
       l = LaneMask.lowest (bad (e.greg x.a).base) →
       (e.Ready ul → e.Quiet (e.deadFlag ul) → exec (.ldg x) s = .next ((s.setFlags e (e.deadFlag ul)).takeTrap e .misalign
         ((e.greg x.a).base + e.offset x l) (bad (e.greg x.a).base))) ∧
       (e.Ready us → e.Quiet (e.deadFlag us) → exec (.stg x) s = .next ((s.setFlags e (e.deadFlag us)).takeTrap e .misalign
         ((e.greg x.a).base + e.offset x l) (bad (e.greg x.a).base)))) ∧
     (bad 0 ≠ 0 → l = LaneMask.lowest (bad 0) → e.Ready ul → e.Quiet (e.deadFlag ul) →
       exec (.lds x) s = .next ((s.setFlags e (e.deadFlag ul)).takeTrap e .misalign (e.offset x l) (bad 0))) ∧
     (bad 0 = 0 → e.t.granted = false → e.active x ≠ 0 → l = LaneMask.lowest (e.active x) → e.Ready ul → e.Quiet (e.deadFlag ul) →
       exec (.lds x) s = .next ((s.setFlags e (e.deadFlag ul)).takeTrap e .access (e.offset x l) (e.active x)))) ∧
  (∀ (s : State) (e : Env) (x : XArgs) (g : BitVec 4), s.env? = some e → e.Fresh → e.g.audit = .off → e.g.pair = none →
     x.a = .greg g → (e.greg x.a).written = true →
     let n := regCount x.fn
     let u := storeUse x n
     (x.ty ≠ .page → ∀ l, (e.active x).getLsbD l = true → ((e.greg x.a).base + e.offset x l).toNat % (4 * n) = 0) →
     e.Ready u → e.Quiet (e.deadFlag u) → releases (e.pfxOf .store .pod).ord = true →
     (s.setFlags e (e.deadFlag u)).settledAt e.gid (e.pfxOf .store .pod).scope = false →
     exec (.stg x) s = .next ((s.setFlags e (e.deadFlag u)).updSlot e fun y => { y with wait := s.behind e.gid }))

/-! ### Keys, bindings and fences -/

/-- R169, R172, R173, R180, R291, R382: ACQ of a bound key that nobody ahead keeps from it makes the group a holder, and
sD says whether a holder has abandoned the key since its last grant (log 36); where it cannot be granted the request queues and the slot
waits; a grant that came while it waited completes it; a key held, an eighth one beside it, or an address outside its space traps ACCESS.
A pod key whose home is another module is asked for there. REL waits for every earlier access to the key's bound sectors at the key's
scope, then gives up the key and ends the group's interval; REL of a key not held traps ACCESS, and either of a misaligned key MISALIGN.
R170, R171, R175, R181, R303, R334: BIND and UNBIND by a group that holds the key exclusively, or of a key that is free, change the
context's bindings once what the group stored to the bound sectors, a new region's among them, is performed at the key's scope, and wait
before; one whose sector is bound to another key, by a holder not exclusive, or UNBIND of an unbound key, traps ACCESS; a full or release
fence passes once every earlier access is performed at its scope, opening an interval, and waits before; an acquire fence waits for
earlier atomics and for what is out on the fabric.
The model's choices that it rests on: logs 36, 125, 128, 129, 137, 139; modules that keep the group in their detectors, or sectors of a pod
key, are told. -/
def Obligations.KeysBindingsAndFences : Prop :=
  (∀ (s s1 : State) (e : Env) (d a : BitVec 6) (space : BitVec 2), s.env? = some e → e.g.audit = .off → e.g.pair = none →
     let k := e.keyOf space (e.s a)
     let y := e.c.key k
     let taken (ex : Bool) (v : BitVec 64) : Group :=
       { e.withScalar e.passed d v with keys := e.g.keys ++ [k], exKeys := if ex then e.g.exKeys ++ [k] else e.g.exKeys }
     (k.addr.toNat % 8 ≠ 0 → (∀ ex, exec (.acq d a space ex) s = .next (s.takeTrap e .misalign k.addr e.lanes)) ∧
       exec (.rel a space) s = .next (s.takeTrap e .misalign k.addr e.lanes)) ∧
     (k.addr.toNat % 8 = 0 →
       (∀ v, e.sl.granted = some v → e.NoPop d v → ∀ ex, exec (.acq d a space ex) s = .next (s.setGroup e.gid (taken ex v))) ∧
       (e.sl.granted = none → k ∈ e.g.keys ∨ 8 ≤ e.g.keys.length ∨ e.inSpace space k.addr.toNat 8 = false →
         ∀ ex, exec (.acq d a space ex) s = .next (s.takeTrap e .access k.addr e.lanes)) ∧
       (e.sl.granted = none → k ∉ e.g.keys → e.g.keys.length < 8 → e.inSpace space k.addr.toNat 8 = true →
         (e.KeyHere s k s1 → (∃ b ∈ e.c.binds, b.1 = k) → (∀ q ∈ y.queue, ¬(q.who = e.gid ∧ q.slot = e.slot)) → ∀ ex : Bool,
           ((if ex then y.holders = [] else ∀ h ∈ y.holders, h.2 = false) → y.queue = [] →
             e.NoPop d (if y.abandoned then 1 else 0) →
             exec (.acq d a space ex) s = .next ((s1.modCtx e.cid fun c => c.modKey k fun z =>
               { z with holders := z.holders ++ [(e.gid, ex)], abandoned := false }).setGroup e.gid
                 (taken ex (if y.abandoned then 1 else 0)))) ∧
           (y.queue ≠ [] ∨ ¬(if ex then y.holders = [] else ∀ h ∈ y.holders, h.2 = false) →
             exec (.acq d a space ex) s = .next ((s1.modCtx e.cid fun c => c.modKey k fun z =>
               { z with queue := z.queue ++ [{ who := e.gid, slot := e.slot, ex, bind := false }] }).setGroup e.gid (e.waiting .key)))) ∧
         (∀ n, space = 2 → s.destination e.cid e.c e.t.core k.addr.toNat = some n → n ≠ s.node → e.Fresh → e.sl.reps = [] →
           s.admits e.c.vf 1 = true → ∀ ex : Bool, ∃ t, exec (.acq d a space ex) s = .next t ∧
             t.group? e.gid = some (e.g.setSlot e.slot { e.sl with wait := .key, sent := true }) ∧
             t.fabOut = s.fabOut ++ [{ id := s.nextId, gid := e.gid, slot := e.slot, idx := 0, dest := n, req :=
               { node := s.node, id := s.nextId, ctxid := e.cid, va := k.addr, kind := .key (if ex then 1 else 0) e.gid 0 0, hops := 0 } }])) ∧
       (k ∉ e.g.keys → exec (.rel a space) s = .next (s.takeTrap e .access k.addr e.lanes)) ∧
       (k ∈ e.g.keys → e.KeyHere s k s1 →
         (s.relSettled e e.c k = false → exec (.rel a space) s = .next (s.setGroup e.gid (e.waiting (s.behind e.gid)))) ∧
         (s.relSettled e e.c k = true →
           exec (.rel a space) s = .next (((s1.modCtx e.cid fun c => c.modKey k fun z =>
             { z with holders := z.holders.filter fun h => h.1 ≠ e.gid }).release e.gid (keyScope space)).setGroup e.gid
               { e.passed with
                 keys := e.g.keys.filter (· ≠ k), exKeys := e.g.exKeys.filter (· ≠ k), interval := e.g.interval + 1
                 relScope := keyScope space }))))) ∧
  (∀ (s : State) (e : Env) (c : Ctx) (k : KeyId), k.space ≠ 1 →
    (∀ p ∈ s.pend, p.gid = e.gid → p.short (keyScope k.space) = true → p.sp = none →
      ∀ b ∈ c.binds ++ c.farBinds, b.1 = k → ¬(b.2.1 ≤ (p.va + p.bytes.length - 1) / 32 ∧ p.va / 32 < b.2.1 + b.2.2)) →
    (∀ o ∈ s.fabOut, o.gid ≠ e.gid) → s.relSettled e c k = true) ∧
  (∀ (s : State) (gid : Nat) (g : Group) (x : Scope), s.group? gid = some g → g.told = [] →
    s.release gid x = s.setGroup gid { g with interval := g.interval + 1, relScope := x }) ∧
  (∀ (s s1 : State) (e : Env), s.env? = some e → e.g.audit = .off → e.g.pair = none →
     (∀ (kr a b : BitVec 6) (space : BitVec 2),
       let k := e.keyOf space (e.s kr)
       let y := e.c.key k
       let len := (e.s b).toNat
       let bound : Ctx := { e.c with binds := e.c.binds ++ [(k, regionSectors (e.s a).toNat len)] }
       let unbound : Ctx := { e.c with binds := e.c.binds.filter fun p => p.1 ≠ k }
       let free : Prop := (e.gid, true) ∈ y.holders ∨ (y.queue = [] ∧ y.holders = [])
       let done (c : Ctx) : State := ((s1.setCtx e.cid c).tellBinds e.cid k (e.c.boundTo k)).setGroup e.gid e.passed
       let waits : State := s1.setGroup e.gid (e.waiting (s1.behind e.gid))
       let bad : State := s1.takeTrap e .access k.addr e.lanes
       k.addr.toNat % 8 = 0 → e.KeyHere s k s1 → e.inSpace space k.addr.toNat 8 = true → e.sl.granted = none →
       (∀ q ∈ y.queue, ¬(q.who = e.gid ∧ q.slot = e.slot)) →
       (k.space ≠ 2 → ∀ t : State, t.tellBinds e.cid k (e.c.boundTo k) = t) ∧
       (0 < len → len ≤ 2 ^ 32 → e.inSpace space (e.s a).toNat len = true →
         (s1.bindFits e.c k (e.s a).toNat len = true → (e.gid, false) ∉ y.holders →
           (s1.relSettled e bound k = true → free → exec (.bind kr a b space) s = .next (done bound)) ∧
           (s1.relSettled e bound k = false → exec (.bind kr a b space) s = .next waits)) ∧
         (s1.bindFits e.c k (e.s a).toNat len = false ∨ (e.gid, false) ∈ y.holders → exec (.bind kr a b space) s = .next bad)) ∧
       ((∃ p ∈ e.c.binds, p.1 = k) → (e.gid, false) ∉ y.holders →
         (s1.relSettled e e.c k = true → free → exec (.unbind kr space) s = .next (done unbound)) ∧
         (s1.relSettled e e.c k = false → exec (.unbind kr space) s = .next waits)) ∧
       ((∀ p ∈ e.c.binds, p.1 ≠ k) ∨ (e.gid, false) ∈ y.holders → exec (.unbind kr space) s = .next bad)) ∧
     (∀ (kind : Sys2Proof.Ord) (scope : Scope), kind ≠ .acq →
       (s.settledAt e.gid scope = true → exec (.fence kind scope) s = .next
         ((s.release e.gid scope).setGroup e.gid { e.passed with interval := e.g.interval + 1, relScope := scope })) ∧
       (s.settledAt e.gid scope = false → exec (.fence kind scope) s = .next (s.setGroup e.gid (e.waiting (s.behind e.gid))))) ∧
     ∀ scope : Scope,
       let waits : Prop := (∃ p ∈ s.pend, p.gid = e.gid ∧ p.atomic = true ∧ p.short scope = true) ∨
         ∃ o ∈ s.fabOut, o.gid = e.gid ∧ o.eng = none ∧ o.signal = false
       (¬waits → exec (.fence .acq scope) s = .next (s.setGroup e.gid e.passed)) ∧
       (waits → exec (.fence .acq scope) s = .next (s.setGroup e.gid (e.waiting (s.behind e.gid)))))

/-! ### Barriers and the register allotment -/

/-- R192, R273, R299, R300: an arrival at a barrier, all earlier stores seen by the team, is counted; a sync BAR waits while the phase
is short of its count, or where the phase's period is over, and a BAR.arrive writes 0 and goes on. The last arrival within the period
completes the phase, halted groups counted as arrived: its record is gone, and every slot that waits there is given status 0, or 1 where
a group of the team is halted. A slot with a status writes it to sD. An arrival waits while earlier stores are not seen by the team. A
count outside 1 to 16 and NGROUPS or against the phase's, a live other slot or a stack that is not empty trap ILLOP, nothing counted. -/
def Obligations.TeamBarriers : Prop :=
  ∀ (s : State) (e : Env) (d : BitVec 6) (n : BitVec 4) (c : BitVec 5), s.env? = some e → e.g.audit = .off →
    e.g.pair = none →
    let old := Map.get? e.t.bars n.toNat
    let ok : Bool := decide (1 ≤ c.toNat ∧ c.toNat ≤ 16 ∧ c.toNat ≤ e.gr.k.gpt ∧ e.otherLive = false ∧ e.g.depth = 0 ∧
      ∀ b, old = some b → b.expect = c.toNat)
    let b : Barrier := match old with
      | some b => { b with arrived := b.arrived ++ [e.g.no] }
      | none => { expect := c.toNat, t0 := s.cycle, period := e.c.bwto, arrived := [e.g.no] }
    let halted := s.haltedGroups e.t
    let arrivals := b.arrived.length + (halted.filter fun m => !b.arrived.contains m).length
    let counted (g : Group) : State :=
      ((s.release e.gid .team).setTeam e.g.team { e.t with bars := Map.set e.t.bars n.toNat b }).setGroup e.gid
        { g with interval := e.g.interval + 1, relScope := .team }
    let completes (t : State) (waiting : Nat → Bool → Group → Prop) : Prop :=
      (∀ x, t.team? e.g.team = some x → Map.get? x.bars n.toNat = none) ∧
      ∀ gid ∈ e.t.groups, ∀ g h, s.group? gid = some g → t.group? gid = some h → ∀ i, waiting gid i g →
        (h.slot i).granted = some (if halted = [] then 0 else 1) ∧ (h.slot i).wait = .ready ∧ (h.slot i).pc = (g.slot i).pc
    let there (i : Bool) (g : Group) : Prop := ∃ m r, (g.slot i).wait = .bar m r ∧ m = n.toNat
    (∀ v, e.sl.granted = some v → e.NoPop d v → exec (.bar d n c) s = .next (s.setGroup e.gid (e.withScalar e.passed d v))) ∧
    (e.sl.granted = none → (∀ m r, e.sl.wait ≠ .bar m r) →
      (ok = false → exec (.bar d n c) s = .next (s.takeTrap e .illop 0 e.lanes) ∧
        exec (.barArrive d n c) s = .next (s.takeTrap e .illop 0 e.lanes)) ∧
      (ok = true → s.settledAt e.gid .team = false →
        exec (.bar d n c) s = .next (s.setGroup e.gid (e.waiting (s.behind e.gid))) ∧
        exec (.barArrive d n c) s = .next (s.setGroup e.gid (e.waiting (s.behind e.gid)))) ∧
      (ok = true → s.settledAt e.gid .team = true → arrivals < c.toNat ∨ b.t0 + b.period < s.cycle →
        exec (.bar d n c) s = .next (counted (e.waiting (.bar n.toNat d))) ∧
        (e.NoPop d 0 → exec (.barArrive d n c) s = .next (counted (e.withScalar e.passed d 0)))) ∧
      (ok = true → s.settledAt e.gid .team = true → c.toNat ≤ arrivals → s.cycle ≤ b.t0 + b.period →
        (∃ t, exec (.bar d n c) s = .next t ∧ completes t fun gid i g => there i g ∨ (gid = e.gid ∧ i = e.slot)) ∧
        (d.toNat < 61 → ∃ t x, exec (.barArrive d n c) s = .next t ∧ completes t (fun gid i g => gid ≠ e.gid ∧ there i g) ∧
          t.group? e.gid = some x ∧ x.regs = e.g.regs.setS d.toNat 0 ∧ (x.slot e.slot).pc = e.pc + BitVec.ofNat 64 e.len ∧
          (x.slot e.slot).wait = .ready)))

/-- R25 to R30, R142, R292: ACQR gives a group its full allotment where the pool has it and nobody waits, the registers from P on and
every tile dead, and waits before; the team's first full grant also opens its scratchpad, every granule EMPTY. RELA gives back what the
prologue does not hold; SETB moves the boundary, kills what it moves over and gives sD the old one, and traps ILLOP outside the
allotment. RELA and SETB wait for matrix operations on what they take away, and for loads to registers there. R352: then they report
the error of such an operation as their trap, and change nothing.
The model's choices that it rests on: log 111, registers that a SETB had put above P keep their values over a RELA; log 15, what the
bytes of a scratchpad just opened read as. -/
def Obligations.AllotmentChanges : Prop :=
  ∀ (s : State) (e : Env), s.env? = some e → e.g.audit = .off →
    let k := e.gr.k
    let part := s.part e.t.core e.g.part
    let taken : State := s.modPart e.t.core e.g.part fun p => { p with used := p.used + (k.fullSlots - k.preg) }
    let full : Group := { e.passed with
      full := true, bound := k.freg
      regs := { e.g.regs.kill ((List.range (k.freg - k.preg)).map (k.preg + ·)) with tdead := -1 } }
    let reports (i : Instr) (r : MatErr) : Prop := exec i s = .next
      ((s.setGroup e.gid { e.g with matErr := e.g.matErr.erase r }).takeTrap e (.ofErr r.code) r.addr e.lanes)
    (e.g.full = true → exec .acqr s = .next (s.setGroup e.gid e.passed)) ∧
    (e.g.full = false → part.acqr = [] → k.fullSlots - k.preg ≤ part.pool →
      (e.t.granted = true → exec .acqr s = .next (taken.setGroup e.gid full)) ∧
      (e.t.granted = false → exec .acqr s = .next (({ taken with free := s.free + 1 }.setTeam e.g.team
        { e.t with
          granted := true, stale := s.free, sp := [], full := []
          mine := (s.core e.t.core).spLast.filterMap fun (p : Nat × Nat) => if p.2 = e.cid then spanOffset e.t.spans p.1 0 else none }).setGroup
            e.gid full))) ∧
    (e.g.full = false → (∀ q ∈ part.acqr, q ≠ (e.gid, e.slot)) → part.acqr ≠ [] ∨ part.pool < k.fullSlots - k.preg →
      exec .acqr s = .next
        ((s.modPart e.t.core e.g.part fun p => { p with acqr := p.acqr ++ [(e.gid, e.slot)] }).setGroup e.gid (e.waiting .acqr))) ∧
    (e.g.full = false → (e.gid, e.slot) ∈ part.acqr → exec .acqr s = .next (s.setGroup e.gid (e.waiting .acqr))) ∧
    (e.g.full = false → exec .rela s = .next (s.setGroup e.gid e.passed)) ∧
    (e.g.full = true →
      (e.g.mat ≠ [] → exec .rela s = .next (s.setGroup e.gid (e.waiting .matrix))) ∧
      (e.g.mat = [] → (∃ r ∈ e.loading, k.preg ≤ r) → exec .rela s = .next (s.setGroup e.gid (e.waiting .loads))) ∧
      (e.g.mat = [] → (∀ r ∈ e.loading, r < k.preg) →
        (∀ r, e.g.matErr.head? = some r → reports .rela r) ∧
        (e.g.matErr = [] → exec .rela s = .next
          ((s.modPart e.t.core e.g.part fun p => { p with used := p.used - (k.fullSlots - k.preg) }).setGroup e.gid
            { e.passed with full := false, bound := k.preg })))) ∧
    ∀ (d : BitVec 6) (n : BitVec 10),
      let tiles := min 16 ((k.fullSlots - n.toNat) / 16)
      let old : BitVec 64 := BitVec.ofNat 64 e.g.bound
      (256 < n.toNat ∨ k.fullSlots < n.toNat ∨ e.g.full = false → exec (.setb d n) s = .next (s.takeTrap e .illop 0 e.lanes)) ∧
      (n.toNat ≤ 256 → n.toNat ≤ k.fullSlots → e.g.full = true →
        ((∃ o ∈ e.g.mat, tiles ≤ o.tile) → exec (.setb d n) s = .next (s.setGroup e.gid (e.waiting .matrix))) ∧
        ((∀ o ∈ e.g.mat, o.tile < tiles) → (∃ r ∈ e.loading, n.toNat ≤ r) →
          exec (.setb d n) s = .next (s.setGroup e.gid (e.waiting .loads))) ∧
        ((∀ o ∈ e.g.mat, o.tile < tiles) → (∀ r ∈ e.loading, r < n.toNat) →
          (∀ r, e.g.matErr.find? (fun r => tiles ≤ r.tile) = some r → reports (.setb d n) r) ∧
          ((∀ r ∈ e.g.matErr, r.tile < tiles) → e.NoPop d old → ∃ r : Regs,
            exec (.setb d n) s = .next (s.setGroup e.gid (e.withScalar { e.passed with bound := n.toNat, regs := r } d old)) ∧
            (∀ i, i < 256 → r.vdead.getLsbD i = (e.g.regs.vdead.getLsbD i || (e.g.bound ≤ i && i < n.toNat))) ∧
            (∀ i, i < 16 → r.tdead.getLsbD i = (e.g.regs.tdead.getLsbD i || (e.g.tileCount k ≤ i && i < tiles))) ∧
            { r with vdead := e.g.regs.vdead, tdead := e.g.regs.tdead } = e.g.regs)))

/-! ### Launches, counters, suspension and special registers -/

/-- R19 to R23, R113, R342: LAUNCH reads its record, and the header that the record names, checks both, the level's queue and the
event-counter table in this order, and gives sD the new grid's number, which no live grid of the context has, or 2^63 and the first
failed check, a rejected launch having no other effect. The grid's depth, nesting, parent, teams, arguments and unmet dependences are
the record's and the launching grid's; with no dependence unmet it is queued at once. No nesting left traps DEPTH, a group other than 0
ILLOP. R66, R198: the looks at its dependences are walks, for which the instruction waits where their budget is spent.
The model's choices that it rests on: logs 18, 53, 112. -/
def Obligations.LaunchMakesGrid : Prop :=
  ∀ (s : State) (e : Env) (d a : BitVec 6) (pa pb ph : Nat) (leaf leaf2 leaf3 : BitVec 64), s.env? = some e →
    e.g.audit = .off → e.g.pair = none → leafWatch leaf = false → leafWatch leaf2 = false → leafWatch leaf3 = false →
    let va := e.s a
    let record := s.loadedBytes e [pa, pb]
    let r := leNat record.1
    let s1 := record.2
    let header := s1.loaded e ph 64
    let h := header.1
    let s2 := header.2
    let k := kernelOf (BitVec.ofNat 64 (bits r 63 0)) h
    let rejected (s' : State) (n : Nat) : Prop :=
      let v := 0x8000000000000000#64 + BitVec.ofNat 64 n
      e.NoPop d v → exec (.launch d a) s = .next (s'.setGroup e.gid (e.withScalar e.passed d v))
    (e.g.no ≠ 0 → exec (.launch d a) s = .next (s.takeTrap e .illop 0 e.lanes)) ∧
    (e.g.no = 0 → va.toNat % 128 ≠ 0 → exec (.launch d a) s = .next (s.takeTrap e .misalign va e.lanes)) ∧
    (e.g.no = 0 → va.toNat % 128 = 0 → e.hbm = true → e.Mapped s va.toNat 0 pa leaf → e.Mapped s (va.toNat + 64) 0 pb leaf2 →
      let deep : Prop := e.gr.nest = 0 ∨ e.gr.depth = 10
      (lrOk r = false → (deep → exec (.launch d a) s = .next (s1.takeTrap e .depth 0 e.lanes)) ∧ (¬deep → rejected s1 1)) ∧
      (lrOk r = true → e.Mapped s (bits r 63 0) 0 ph leaf3 →
        let unmet := (lrDeps r).filter fun p => !s2.counterMet e.cid p.1 p.2
        let q := e.c.fifos.getD (bits r 162 160) []
        let looks : Prop := lrDeps r = [] ∨ s2.admits e.c.vf 3 = true
        let s3 := s2.charge e.c.vf 3 (lrDeps r).length
        let id : BitVec 64 := (BitVec.ofNat 32 (s.gridId e.cid)).setWidth 64
        (deep → exec (.launch d a) s = .next (s2.takeTrap e .depth 0 e.lanes)) ∧
        (¬deep → ¬looks → exec (.launch d a) s = .next (s2.setGroup e.gid (e.waiting (.budget 3)))) ∧
        (¬deep → looks → kernelOk e.c (bits r 127 64) h = false → rejected s2 2) ∧
        (¬deep → looks → kernelOk e.c (bits r 127 64) h = true →
          (4096 ≤ q.length → rejected s2 3) ∧
          (q.length < 4096 → s3.countersFit e.cid e.c.vf (unmet.map (·.1)) = false → rejected s3 4) ∧
          (q.length < 4096 → s3.countersFit e.cid e.c.vf (unmet.map (·.1)) = true → e.NoPop d id → ∃ t, exec (.launch d a) s = .next t ∧
            t.group? e.gid = some (e.withScalar e.passed d id) ∧
            (∃ g, t.grid? s.nextId = some g ∧ g.ctx = e.cid ∧ g.id = BitVec.ofNat 32 (s.gridId e.cid) ∧ g.k = k ∧
              g.teams = bits r 159 128 ∧ g.args = BitVec.ofNat 64 (bits r 127 64) ∧ g.depth = e.gr.depth + 1 ∧
              g.nest = min (e.gr.nest - 1) k.maxn ∧ g.parent = some e.t.grid ∧ g.deps = unmet ∧
              g.counters = (lrDeps r).map (·.1) ∧ g.queued = decide (unmet = [])) ∧
            (unmet = [] → t.ctx? e.cid = some { e.c with fifos := e.c.fifos.set (bits r 162 160) (q ++ [s.nextId]) }) ∧
            t.mem = s2.mem ∧ t.pend = s2.pend ∧ t.teams = s.teams ∧
            (∀ n, n ≠ e.gid → t.group? n = s.group? n) ∧ ∀ n, n ≠ s.nextId → t.grid? n = s.grid? n)))) ∧
    (s.grids.length < 2 ^ 32 → ∀ n g, s.grid? n = some g → g.ctx = e.cid → g.id ≠ BitVec.ofNat 32 (s.gridId e.cid))

/-- R32, R326: EVSIG, once every earlier access is performed at device scope, adds sB to a counter word at device scope, evaluates
what waits for it, and gives sD the new value; R65: the access is charged when it is performed. Before that it waits, charged with
nothing; a misaligned counter traps MISALIGN.
The model's choices that it rests on: log 22, earlier stores to the word are performed before the addition; log 53, when the access is
charged; logs 112, 127, 129. -/
def Obligations.SignalsAddToCounters : Prop :=
  ∀ (s s0 : State) (e : Env) (d a b : BitVec 6) (pa : Nat) (leaf : BitVec 64), s.env? = some e →
    e.g.audit = .off → e.g.pair = none →
    let va := e.s a
    (va.toNat % 8 ≠ 0 → exec (.evsig d a b) s = .next (s.takeTrap e .misalign va e.lanes)) ∧
    (va.toNat % 8 = 0 → s.xlate e va.toNat 2 = (.ok pa leaf, s0) →
      (e.hbm = false → exec (.evsig d a b) s = .next (s0.setGroup e.gid (e.waiting (.budget 0)))) ∧
      (e.hbm = true → s0.settledAt e.gid .device = false →
        exec (.evsig d a b) s = .next (s0.setGroup e.gid (e.waiting (s0.behind e.gid)))) ∧
      (e.hbm = true → s0.settledAt e.gid .device = true →
        (s0.pinnedBy e.g.team none pa 8 = true → exec (.evsig d a b) s = .next (s0.setGroup e.gid (e.waiting .stores))) ∧
        (s0.pinnedBy e.g.team none pa 8 = false →
          let s1 := ((s0.charge e.c.vf 0 (unitBytes pa 8)).release e.gid .device).settleBytes none pa 8 .pod
          let v := BitVec.ofNat 64 (s1.num .pod none pa 8) + e.s b
          e.NoPop d v → exec (.evsig d a b) s = .next
            (((s1.addStore e.gid e.g.team e.t.core none pa (leBytes 8 v.toNat) .device false).signalled pa).gives e d v))))

/-- R34, R258, R407, R418: SUSP with one slot, an empty stack, aligned operands and nothing outstanding stores its continuation
record at the lowest free continuation slot, gives back its registers, tiles and place, and leaves the group suspended on its
counter; SUSP_RESUME of a group whose counter met its target, where its partition has room, makes it resident, the slot that executed
SUSP at the saved address with the saved lanes. A live other slot, a stack, or more registers than the prologue's trap ILLOP, a
misaligned counter or continuation address MISALIGN. R66, R198: the counter is looked at once by a walk, later where the budget of
walks defers it.
The model's choices that it rests on: logs 68, 112. -/
def Obligations.SuspendsAndResumes : Prop :=
  (∀ (s : State) (e : Env) (c a b : BitVec 6) (n : BitVec 4) (i : Nat) (pa : Nat → Nat), s.env? = some e →
    e.g.audit = .off → e.g.pair = none →
    (e.otherLive = true ∨ e.g.depth ≠ 0 ∨ e.gr.k.preg < 4 * n.toNat → exec (.susp c a b n) s = .next (s.takeTrap e .illop 0 e.lanes)) ∧
    (e.otherLive = false → e.g.depth = 0 → 4 * n.toNat ≤ e.gr.k.preg →
      ((e.s a).toNat % 8 ≠ 0 → exec (.susp c a b n) s = .next (s.takeTrap e .misalign (e.s a) e.lanes)) ∧
      ((e.s a).toNat % 8 = 0 → (e.s c).toNat % 4 ≠ 0 → exec (.susp c a b n) s = .next (s.takeTrap e .misalign (e.s c) e.lanes)) ∧
      ((e.s a).toNat % 8 = 0 → (e.s c).toNat % 4 = 0 → e.g.loads = [] → (∀ q ∈ e.g.eng, q = []) → e.g.mat = [] → e.g.engErr = [] →
        e.g.matErr = [] → s.countersFit e.cid e.c.vf [e.s a] = true → e.hbm = true → e.c.freeCont = some i →
        (∀ j, j < 9 + 24 * n.toNat → ∃ leaf, e.Mapped s (e.c.contAddr i + 64 * j) 1 (pa j) leaf) →
        let bs := contBytes e (e.s c) (e.s a) (e.s b) n.toNat
        let s1 := (List.range (9 + 24 * n.toNat)).foldl (fun t j =>
          (t.charge e.c.vf 0 (unitBytes (pa j) 64)).addStore e.gid e.g.team e.t.core none (pa j) ((bs.drop (64 * j)).take 64)
            .group false) s
        let s2 := s1.modCtx e.cid fun c => { c with contUsed := c.contUsed ++ [i] }
        let looks := s.admits e.c.vf 3
        let s3 := if looks then (s2.vacate e.gid).charge e.c.vf 3 1 else s2.vacate e.gid
        exec (.susp c a b n) s = .next (s3.setGroup e.gid { e.g with
          life := .suspended { counter := e.s a, target := e.s b, cont := e.s c, slotNo := i, slot := e.slot, nv := 4 * n.toNat
                               met := looks && s2.counterMet e.cid (e.s a) (e.s b), look := !looks }
          full := false, bound := e.gr.k.preg, slot0 := {}, slot1 := {} })))) ∧
  ∀ (s : State) (gid : Nat) (g : Group) (t : Team) (gr : Grid) (c : Ctx) (r : SuspReg) (pa : Nat → Nat), s.group? gid = some g →
    s.team? g.team = some t → s.grid? t.grid = some gr → s.ctx? gr.ctx = some c → g.life = .suspended r → r.met = true →
    t.placing = .placed → g.stopping = false → c.cst = 1 → s.admits c.vf 0 = true → gr.k.preg ≤ (s.part t.core g.part).pool →
    (s.part t.core g.part).active.length + (s.part t.core g.part).pending.length < 32 → g.part < (s.core t.core).parts.length →
    let va (j : Nat) : Nat := c.contAddr r.slotNo + 64 * j
    (∀ j, j < 9 + 6 * r.nv → ∃ t' leaf, s.tlbFind t.core (asidOf gr.ctx) (va j / 65536) = some t' ∧
      useLeaf c.privc gr.ctx (va j) 0 t'.entry t'.level = .ok (pa j) leaf) →
    let bs := ((List.range (9 + 6 * r.nv)).map fun j => s.bytes (.group gid g.team t.core) none (pa j) 64).flatten
    let h := leNat (bs.take 64)
    ∃ u x, exec (.suspResume gid) s = .next u ∧ u.group? gid = some x ∧ x.life = .resident ∧
      x.regs = restoredRegs g.regs gr.k r.nv bs ∧ x.full = false ∧ x.bound = gr.k.preg ∧
      x.slot r.slot = { live := true, pc := BitVec.ofNat 64 (bits h 63 0), mask := BitVec.ofNat 96 (bits h 351 256) } ∧
      x.slot (!r.slot) = {} ∧
      (u.part t.core g.part).used = (s.part t.core g.part).used + gr.k.preg ∧ u.mem = s.mem ∧ u.pend = s.pend

/-- R18, R52, R70, R95, R224, R246, R272, R378, R379: RDSR gives sD the register's value; CORE traps PRIV in a context without
the privilege. WRSR writes POPID, ASTAT, MDEF, DSTKB and BWTO where their checks hold, and traps ILLOP for a read-only register or
a value with a bit that must be 0. SIGRD gives sD the group's signature. A group of which this is the re-execution reads and writes
its own BWTO (log 57), and s61 to s63 as sD are lanes of the slot. -/
def Obligations.SpecialRegisters : Prop :=
  ∀ (s : State) (e : Env), s.env? = some e → e.g.audit = .off →
    let into (d : BitVec 6) (v : BitVec 64) : State := s.setGroup e.gid (e.withScalar e.passed d v)
    let place := e.place s
    (∀ d : BitVec 6,
      (∀ p ∈ [(0x00#10, BitVec.ofNat 64 (LaneMask.lowest e.lanes)), (0x01, BitVec.ofNat 64 e.g.no), (0x02, BitVec.ofNat 64 e.t.no),
          (0x03, e.gr.id.setWidth 64), (0x04, BitVec.ofNat 64 e.gr.k.gpt), (0x05, BitVec.ofNat 64 e.gr.depth),
          (0x07, place.1.setWidth 64), (0x08, place.2.1.setWidth 64), (0x09, BitVec.ofNat 64 e.gr.stepNo),
          (0x0A, e.g.regs.popid.setWidth 64), (0x0B, place.2.2.setWidth 64), (0x0C, e.g.regs.astat), (0x0D, e.g.regs.mdef),
          (0x0E, BitVec.ofNat 64 s.cycle), (0x0F, BitVec.ofNat 64 (e.g.ownBwto.getD e.c.bwto)), (0x10, e.g.regs.dstkb),
          (0x11, BitVec.ofNat 64 e.cid)],
        e.NoPop d p.2 → exec (.rdsr d p.1) s = .next (into d p.2)) ∧
      (e.c.privc = true → e.NoPop d (BitVec.ofNat 64 e.t.core) → exec (.rdsr d 6) s = .next (into d (BitVec.ofNat 64 e.t.core))) ∧
      (e.c.privc = false → exec (.rdsr d 6) s = .next (s.takeTrap e .priv 0 e.lanes)) ∧
      ∀ x : XArgs, x.dst = .scal d → e.NoPop d e.g.sig → exec (.sigrd x) s = .next (into d e.g.sig)) ∧
    ∀ a : BitVec 6,
      let v := e.s a
      let put (r : Regs) : State := s.setGroup e.gid { e.passed with regs := r }
      let illop : State := s.takeTrap e .illop 0 e.lanes
      exec (.wrsr a 0x0A) s = .next (if v.toNat < 2 ^ 32 then put { e.g.regs with popid := v.setWidth 32 } else illop) ∧
      exec (.wrsr a 0x0C) s = .next (if v &&& ~~~(0x70F#64) = 0 then put { e.g.regs with astat := v } else illop) ∧
      exec (.wrsr a 0x0D) s = .next (if v &&& ~~~(0x3FF000#64) = 0 ∧ v.extractLsb' 19 3 ≤ 3 ∧ v.extractLsb' 16 3 ≤ 4 then
        put { e.g.regs with mdef := v } else illop) ∧
      exec (.wrsr a 0x0F) s = .next (if e.c.privc = false then s.takeTrap e .priv 0 e.lanes
        else if 256 ≤ v.toNat ∧ v.toNat < 2 ^ 32 then (s.setCtx e.cid { e.c with bwto := v.toNat }).setGroup e.gid e.passed else illop) ∧
      exec (.wrsr a 0x10) s = .next (if e.g.depth ≠ 0 then illop else if v.toNat % 16 ≠ 0 then s.takeTrap e .misalign v e.lanes
        else put { e.g.regs with dstkb := v }) ∧
      ∀ n ∈ [0x00#10, 0x01, 0x02, 0x03, 0x04, 0x05, 0x06, 0x07, 0x08, 0x09, 0x0B, 0x0E, 0x11], exec (.wrsr a n) s = .next illop

/-! ### Tensor records and engines -/

/-- R151 to R153, R394: SEAL checks the record it reads, and gives sD a handle of the lowest free entry, which then holds the copy,
or the first illegal field's offset, or that the table is full, or that an element lies outside; SEAL.rel frees a live entry,
whose generation rises, and gives 0, or 1 where no entry is named. s61 to s63 as sD are lanes of the slot.
The model's choices that it rests on: logs 41, 70. -/
def Obligations.SealsNameRecords : Prop :=
  ∀ (s : State) (e : Env) (d a : BitVec 6) (pa : Nat → Nat) (leaf : Nat → BitVec 64), s.env? = some e →
    e.g.audit = .off → e.g.pair = none → (∀ j, leafWatch (leaf j) = false) →
    let va := (e.s a).toNat
    let copy := s.loadedBytes e ((List.range 4).map pa)
    let r := leNat copy.1
    let answers (i : Instr) (t : State) (v : BitVec 64) : Prop :=
      e.NoPop d v → exec i s = .next (t.setGroup e.gid (e.withScalar e.passed d v))
    let failed (v : BitVec 64) : Prop := answers (.seal d a) (copy.2.setCtx e.cid e.c) v
    (va % 64 ≠ 0 → exec (.seal d a) s = .next (s.takeTrap e .misalign (e.s a) e.lanes)) ∧
    (va % 64 = 0 → e.hbm = true → (∀ j, j < 4 → e.Mapped s (va + 64 * j) 0 (pa j) (leaf j)) →
      (∀ b, recIllegal r = some b → failed (0x8000000000010000#64 + BitVec.ofNat 64 b)) ∧
      (recIllegal r = none → (∀ i, i < 4096 → Map.get? e.c.seals i ≠ none) → failed 0x8000000000020000#64) ∧
      ∀ i, recIllegal r = none → i < 4096 → Map.get? e.c.seals i = none → (∀ j, j < i → Map.get? e.c.seals j ≠ none) →
        i ≤ e.c.seals.length →
        (recInside r = false → failed 0x8000000000030000#64) ∧
        (recInside r = true → answers (.seal d a) (copy.2.setCtx e.cid { e.c with seals := Map.set e.c.seals i (BitVec.ofNat 2048 r) })
          (BitVec.ofNat 64 ((Map.get? e.c.sealGen i).getD 0 * 65536 + i)))) ∧
    ∀ b : BitVec 6,
      let h := (e.s b).toNat
      let i := h % 65536
      let gen := (Map.get? e.c.sealGen i).getD 0
      ((∃ y, Map.get? e.c.seals i = some y) → h / 65536 = gen → answers (.sealRel d b)
        (s.setCtx e.cid { e.c with seals := Map.del e.c.seals i, sealGen := Map.set e.c.sealGen i ((gen + 1) % 65536) }) 0) ∧
      (Map.get? e.c.seals i = none ∨ h / 65536 ≠ gen → answers (.sealRel d b) s 1)

/-- R154 to R157, R245, R310 to R319, R335, R336, R392, R393: CPY, CPYF, GATH, SCAT and COLL complete: where their operands pass the
tests of their entries, and the class's counter is below 255, exec answers the state in which the record of the operands has entered the
signature where some lane is active, the operation is the last of its class's queue, and PC has passed the instruction; the engine then
works. A counter at 255 stalls, a COLL's communicator unchanged. A handle that names no live entry traps SEALERR, in every class. A run
index beyond NRUN, one a lane or one in a scalar for all, traps ACCESS. COLL reads its communicator, whose counter it raises by one at
device scope.
The model's choices that it rests on: log 43; log 71, with no active lane only the grant is tested and an empty operation is queued. -/
def Obligations.EngineOperationsQueue : Prop :=
  ∀ (s : State) (e : Env) (x : XArgs) (a b : BitVec 6) (copy : BitVec 2048), s.env? = some e → x.a = .scal a → e.g.audit = .off →
    e.g.pair = none → x.dst = .discard →
    let r := copy.toNat
    let base := BitVec.ofNat 64 (recBase r)
    let high (y : BitVec 64) : Prop := y.toNat < 2 ^ 56
    let inScratch (y : BitVec 64) (n : Nat) : Prop := e.t.granted = true ∧ y.toNat + n ≤ e.gr.k.scrb
    let queued (s : State) (marks : List Nat) (data : List Byte) (cls : Nat) (op : EngOp) : State :=
      let s1 := if e.active x = 0 then s else s.record e 0 5 cls data
      (({ s1 with nextId := s1.nextId + 1 }.upd e fun g =>
        { g with eng := g.eng.set cls (e.g.eng.getD cls [] ++ [{ op with id := s1.nextId }]) }.report cls
          ((e.g.eng.getD cls []).length + 1)).updRegs e fun y => y.kill marks).advance e
    let room (cls : Nat) : Prop := (e.g.eng.getD cls []).length < 255
    let sealerr : State := s.takeTrap e .sealerr (e.s a) e.lanes
    (e.c.sealed (e.s a) = none →
      exec (.cpy x) s = .next sealerr ∧ exec (.cpyf x) s = .next sealerr ∧ exec (.coll x) s = .next sealerr ∧
      (let u : Use := { srcs := [(x.b, 1)], dst := some x.dst }
       e.Ready u → e.Quiet (e.deadFlag u) →
       exec (.gath x) s = .next ((s.setFlags e (e.deadFlag u)).takeTrap e .sealerr (e.s a) e.lanes) ∧
       exec (.scat x) s = .next ((s.setFlags e (e.deadFlag u)).takeTrap e .sealerr (e.s a) e.lanes))) ∧
    (e.c.sealed (e.s a) = some copy → x.b = .scal b →
      let off := e.offsetOf x.c
      let data := e.sourceBytes x x.a ++ e.sourceBytes x x.b ++ (if x.c.isScal then e.sourceBytes x x.c else [])
      let op (k : EngKind) : EngOp := { kind := k, record := copy, off, other := e.s b, runs := [] }
      let size := (recRuns r - 1) * recPitch r + recRun r
      (base + off).toNat % recZ r = 0 → (e.s b).toNat % recZ r = 0 → high (base + off) →
      ((if x.fn.getLsbD 0 then high (e.s b) else inScratch (e.s b) size) →
        (room 0 → exec (.cpy x) s = .next (queued s [] data 0 (op (.cpy (x.fn.getLsbD 0))))) ∧
        (¬room 0 → exec (.cpy x) s = .next (s.setGroup e.gid (e.waiting .engine)))) ∧
      ((if x.fn.toNat % 4 = 1 then inScratch (e.s b) size else high (e.s b)) →
        (room 3 → exec (.cpyf x) s = .next (queued s [] data 3 (op (.cpyf (x.fn.toNat % 4))))) ∧
        (¬room 3 → exec (.cpyf x) s = .next (s.setGroup e.gid (e.waiting .engine))))) ∧
    (∀ c : BitVec 6, e.c.sealed (e.s a) = some copy → x.c = .scal c →
      let u : Use := { srcs := [(x.b, 1)], dst := some x.dst }
      let index := (e.val x .int .n32 x.b).at
      let bad := (e.activeLanes x).filter fun l => recRuns r ≤ index l
      e.Ready u → e.Quiet (e.deadFlag u) → base.toNat % recZ r = 0 → (e.s c).toNat % recZ r = 0 →
      let s1 := s.setFlags e (e.deadFlag u)
      (bad ≠ [] → exec (.gath x) s = .next (s1.takeTrap e .access 0 (lanesOf bad)) ∧
        exec (.scat x) s = .next (s1.takeTrap e .access 0 (lanesOf bad))) ∧
      (bad = [] →
        let data := e.sourceBytes x x.a ++ e.sourceBytes x x.b ++ e.sourceBytes x x.c
        let runs := (e.activeLanes x).map index
        let op (k : EngKind) : EngOp := { kind := k, record := copy, off := 0, other := e.s c, runs, fin := runs = [] }
        let flat : Prop := if runs = [] then e.t.granted = true else inScratch (e.s c) ((runs.length - 1) * recPitch r + recRun r)
        ((if x.fn.getLsbD 0 then high (e.s c) else flat) →
          (room 1 → exec (.gath x) s = .next (queued s1 u.marks data 1 (op (.gath (x.fn.getLsbD 0))))) ∧
          (¬room 1 → exec (.gath x) s = .next (s1.updSlot e fun y => { y with wait := .engine }))) ∧
        (recRot r = true → exec (.scat x) s = .next (s1.takeTrap e .access 0 e.lanes)) ∧
        (recRot r = false → (x.fn.getLsbD 0 = false → flat) →
          (room 1 → exec (.scat x) s = .next (queued s1 u.marks data 1 (op (.scat (x.fn.getLsbD 0))))) ∧
          (¬room 1 → exec (.scat x) s = .next (s1.updSlot e fun y => { y with wait := .engine }))))) ∧
    ∀ (c : BitVec 6) (pc : Nat → Nat) (pq : Nat) (leaf : Nat → BitVec 64) (leafQ : BitVec 64), e.c.sealed (e.s a) = some copy →
      x.b = .scal b → x.c = .scal c → (e.s c).toNat % 64 = 0 → (e.s b).toNat % (if x.ty = .bf16 then 2 else 4) = 0 → high (e.s b) →
      s.collBusy e.cid (e.s c) = false → e.hbm = true →
      let header := s.loaded e (pc 0) 64
      let h := header.1
      let n := bits h 79 64
      let pieces := (n + 7) / 8
      let table := header.2.loadedBytes e ((List.range pieces).map fun j => pc (j + 1))
      let entries := dwords n table.1
      (∀ j, j < 1 + pieces → e.Mapped s ((e.s c).toNat + 64 * j) 0 (pc j) (leaf j)) → e.Mapped s ((e.s c).toNat + 16) 2 pq leafQ →
      2 ≤ n → n ≤ 1024 → commOk s.node e.cid h entries = true →
      recEfmt r = (if x.ty = .bf16 then 1 else 2) → (x.fn.toNat % 8 = 4 → recElems r % n = 0) →
      let q := (bits h 191 128 + 1) % 2 ^ 64
      let data := e.sourceBytes x x.a ++ e.sourceBytes x x.b ++ e.sourceBytes x x.c
      let counted := (table.2.charge e.c.vf 0 (unitBytes pq 8)).store e ((e.s c).toNat + 16) pq (leBytes 8 q) .device
      (¬room 2 → ∃ t, exec (.coll x) s = .next t ∧ t.group? e.gid = some (e.waiting .engine) ∧ t.mem = table.2.mem ∧
        t.pend = table.2.pend) ∧
      (room 2 → exec (.coll x) s = .next (queued counted [] data 2
        { kind := .coll (x.fn.toNat % 8) x.ty, record := copy, off := 0, other := e.s b, runs := [], comm := e.s c
          cid := BitVec.ofNat 64 (bits h 63 0), rank := bits h 95 80, root := bits h 111 96
          peers := entries.map (fun y => (bits y 63 32, bits y 27 16)), seqNo := q }))

/-- R155, R156, R309, R413: CNTRD gives the four counters, the copy class's lowest; WAITC passes once its class's counter
is at most n and reports no error, waits before, and traps the first error of its class, which is then consumed. R158,
R352, R353: MBATCH closes a batch of the operations since the last one and gives sD its number; a fifth open batch stalls until the
oldest of the four is complete.
MWAIT of batches 1 to sA passes when they are complete without error, waits before, traps the first error, which is then
consumed, and traps ILLOP for a number not yet closed. -/
def Obligations.UnitsAreAwaited : Prop :=
  (∀ (s : State) (e : Env) (n0 n1 n2 n3 : BitVec 8), s.env? = some e → e.g.audit = .off →
     (e.g.eng.getD 0 []).length = n0.toNat → (e.g.eng.getD 1 []).length = n1.toNat → (e.g.eng.getD 2 []).length = n2.toNat →
     (e.g.eng.getD 3 []).length = n3.toNat →
     (∀ (x : XArgs) (d : BitVec 6), x.dst = .scal d → e.NoPop d ((n3 ++ n2 ++ n1 ++ n0).setWidth 64) →
       exec (.cntrd x) s = .next (s.setGroup e.gid (e.withScalar e.passed d ((n3 ++ n2 ++ n1 ++ n0).setWidth 64)))) ∧
     ∀ (cls : BitVec 2) (n : BitVec 8), let m := (e.g.eng.getD cls.toNat []).length
       (m ≤ n.toNat → (∀ p ∈ e.g.engErr, p.1 ≠ cls.toNat) → exec (.waitc cls n) s = .next (s.setGroup e.gid e.passed)) ∧
       (n.toNat < m → exec (.waitc cls n) s = .next (s.setGroup e.gid (e.waiting .engine))) ∧
       ∀ (code : Nat) (addr : BitVec 64) (before after : List (Nat × Nat × BitVec 64)), m ≤ n.toNat →
         e.g.engErr = before ++ (cls.toNat, code, addr) :: after → (∀ p ∈ before, p.1 ≠ cls.toNat) →
         exec (.waitc cls n) s = .next ((s.setGroup e.gid { e.g with engErr := before ++ after }).takeTrap e (.ofErr code) addr e.lanes)) ∧
  (∀ (s : State) (e : Env), s.env? = some e → e.g.audit = .off →
     (∀ d : BitVec 6,
       let n := e.g.closed + 1
       let opened := (e.g.mat.filterMap (·.batch)).dedup
       let stalls (b : Nat) : State := s.setGroup e.gid (e.g.setSlot e.slot { e.sl with wait := .matrix, oldest := some b })
       ((e.sl.oldest = none ∧ opened.length < 4) ∨ (∃ b, e.sl.oldest = some b ∧ b ∉ opened) → e.NoPop d (BitVec.ofNat 64 n) →
         exec (.mbatch d) s = .next (s.setGroup e.gid { e.withScalar e.passed d (BitVec.ofNat 64 n) with
           closed := n
           mat := e.g.mat.map fun o => if o.batch = none then { o with batch := some n } else o
           matErr := e.g.matErr.map fun r => if r.batch = none then { r with batch := some n } else r })) ∧
       (e.sl.oldest = none → 4 ≤ opened.length → (∀ b ∈ opened, b ≤ e.g.closed) →
         ∃ b ∈ opened, (∀ c ∈ opened, b ≤ c) ∧ exec (.mbatch d) s = .next (stalls b)) ∧
       (∀ b, e.sl.oldest = some b → b ∈ opened → exec (.mbatch d) s = .next (stalls b))) ∧
     ∀ a : BitVec 6,
       let n := (e.s a).toNat
       let in_ (b : Option Nat) : Prop := ∃ m, b = some m ∧ m ≤ n
       (e.g.closed < n → exec (.mwait a) s = .next (s.takeTrap e .illop 0 e.lanes)) ∧
       (n ≤ e.g.closed → (∃ o ∈ e.g.mat, in_ o.batch) → exec (.mwait a) s = .next (s.setGroup e.gid (e.waiting .matrix))) ∧
       (n ≤ e.g.closed → (∀ o ∈ e.g.mat, ¬in_ o.batch) → (∀ o ∈ e.g.matErr, ¬in_ o.batch) →
         exec (.mwait a) s = .next (s.setGroup e.gid e.passed)) ∧
       ∀ (r : MatErr) (before after : List MatErr), n ≤ e.g.closed → (∀ o ∈ e.g.mat, ¬in_ o.batch) →
         e.g.matErr = before ++ r :: after → in_ r.batch → (∀ o ∈ before, ¬in_ o.batch) →
         exec (.mwait a) s = .next ((s.setGroup e.gid { e.g with matErr := before ++ after }).takeTrap e (.ofErr r.code) r.addr e.lanes))

/-! ### Matrix operations -/

/-- R76, R158 to R161, R351, R354 to R365: a matrix operation sets the flag of dead sources, marks Z sources dead, makes its
destination tile live, and enters the open batch with the fragments it captured; nothing else of the group changes, but that MSMX
is a register destination of l0. MLDT and MSTT first test their addresses. -/
def Obligations.MatrixOperationsIssue : Prop :=
  ∀ (s : State) (e : Env) (x : XArgs), s.env? = some e → e.g.audit = .off →
    let issued (u : Use) (t : Nat) (reads writes : Bool) (kind : MatKind) : Group :=
      let fl := (e.deadFlag u).or { poison := reads && e.g.regs.tdead.getLsbD t }
      let r := e.readRegs u fl
      { e.passed with
        mat := e.g.mat ++ [{ id := s.nextId, kind, tile := t }]
        regs := if writes && r.tdead.getLsbD t then r.setTile t (r.tile t) else r }
    let afterIn (s : State) (g : Group) : State := { s with nextId := s.nextId + 1 }.setGroup e.gid g
    let after := afterIn s
    let calm (u : Use) (t : Nat) (reads : Bool) : Prop :=
      e.Ready u ∧ e.Quiet ((e.deadFlag u).or { poison := reads && e.g.regs.tdead.getLsbD t })
    let frag (a : Src) (n : Nat) : List Lanes := (List.range n).map (e.srcVec a)
    let ub (n : Nat) : Use := { srcs := [(x.a, 8), (x.b, n)], dst := some x.dst }
    (∀ t : BitVec 4, x.dst = .tile t →
      (calm (ub 12) t.toNat true →
        exec (.mma x) s = .next (after (issued (ub 12) t.toNat true true (.mma x.ty (frag x.a 8) (frag x.b 12)))) ∧
        ∀ c : BitVec 6, x.c = .scal c →
          (x.fn.toNat % 4 ≠ 2 → exec (.mqk x) s = .next (after (issued (ub 12) t.toNat true true
            (.mqk x.ty (x.fn.toNat % 4) (e.s c) [] (frag x.a 8) (frag x.b 12))))) ∧
          (let p := (e.s c).toNat % 2 ^ 32
           let s1 := s.settleOwn e.gid (some e.g.team) p 512
           x.fn.toNat % 4 = 2 → p % 16 = 0 → e.t.granted = true → p + 512 ≤ e.gr.k.scrb →
            exec (.mqk x) s = .next (afterIn s1 (issued (ub 12) t.toNat true true (.mqk x.ty 2 (e.s c)
              ((List.range 32).map fun i => s1.num e.viewer (some e.g.team) (p + 16 * i) 12) (frag x.a 8) (frag x.b 12)))))) ∧
      (let n := if x.fn.getLsbD 0 then 8 else 16
       let u : Use := { srcs := [(x.a, 8), (x.b, 12 * (32 / n)), (x.c, 5)], dst := some x.dst }
       calm u t.toNat true → exec (.mmas x) s = .next (after (issued u t.toNat true true
        (.mmas x.ty n (frag x.a 8) (frag x.b (12 * (32 / n))) (frag x.c 5))))) ∧
      (calm { dst := some x.dst } t.toNat false →
        exec (.mzero x) s = .next (after (issued { dst := some x.dst } t.toNat false true .mzero)))) ∧
    (∀ (t : BitVec 4) (d : BitVec 8), x.a = .tile t → x.dst = .vec d →
      let u : Use := { srcs := [(x.a, 1)], dst := some x.dst, n := 3 }
      calm u t.toNat true → exec (.msmx x) s = .next (after
        ((issued u t.toNat true true (.msmx (x.fn.getLsbD 0) d.toNat e.lanes)).modSlot e.slot fun y =>
          { y with l0 := .reg (d.toNat + 2), l1 := .reg (d.toNat + 1) }))) ∧
    ∀ (a b : BitVec 6) (t : BitVec 4), x.a = .scal a → x.b = .scal b →
      let dev := x.fn.getLsbD 0
      let at_ : Int := (e.s a).toNat + (x.xf.signExtend 64).toInt
      let addr : BitVec 64 := BitVec.ofInt 64 at_
      let pitch : Nat := (e.s b).toNat % 2 ^ 32
      let last : Int := at_ + (31 * pitch + 192 : Nat)
      let aligned : Prop := at_ % 16 = 0 ∧ pitch % 16 = 0
      let fits : Prop := 192 ≤ pitch ∧ pitch ≤ 2 ^ 24 ∧ 0 ≤ at_ ∧
        if dev then last ≤ 2 ^ 56 else e.t.granted = true ∧ last ≤ e.gr.k.scrb
      (x.dst = .tile t → calm { dst := some x.dst } t.toNat false →
        (aligned → fits → exec (.mldt x) s = .next (after (issued { dst := some x.dst } t.toNat false true (.mldt dev addr pitch none none)))) ∧
        (¬aligned → exec (.mldt x) s = .next ((s.setFlags e {}).takeTrap e .misalign addr e.lanes)) ∧
        (aligned → ¬fits → exec (.mldt x) s = .next ((s.setFlags e {}).takeTrap e .access addr e.lanes))) ∧
      (x.c = .tile t → e.g.pair = none → aligned → fits → calm { srcs := [(x.c, 1)] } t.toNat true →
        exec (.mstt x) s = .next (after (issued { srcs := [(x.c, 1)] } t.toNat true false (.mstt dev addr pitch))))

/-! ### Trees, draws and populations -/

/-- R168, R216, R408: TMASK writes each active lane's ancestor row and depth to the scratchpad in ascending lanes, and its
predicate says which rows are bad: a parent that is not a lower active lane with a good row. R220, R238, R324, R387: DRAWC
gives each active lane the smallest index of its table, or of the fallback where its total is not usable, whose entry
passes u times the total, or all ones, and its status predicate says where the fallback was taken. RNGX gives each active
lane four words of the generator, keyed by sC or by the request that the group serves.
The model's choices that it rests on: logs 38, 75. -/
def Obligations.TreesDrawsAndRandomWords : Prop :=
  (∀ (s : State) (e : Env) (x : XArgs) (a : BitVec 6) (p : BitVec 3), s.env? = some e → x.a = .scal a → x.dst = .pred p →
     e.g.pair = none →
     let u : Use := { srcs := [(x.b, 1)], dst := some x.dst }
     let m := e.active x
     let at_ (l : Nat) : BitVec 64 := e.s a + BitVec.ofNat 64 (16 * l)
     e.Ready u → e.Quiet (e.deadFlag u) → (e.s a).toNat % 16 = 0 → e.t.granted = true →
     (∀ l, m.getLsbD l = true → (at_ l).toNat + 16 ≤ e.gr.k.scrb) →
     ∃ (row : Nat → LaneMask) (bad : Nat → Bool),
       (∀ l, m.getLsbD l = true →
         let parent := (BitVec.ofNat 32 ((e.val x .int .i32 x.b).at l)).toInt
         if parent < 0 then row l = 1 <<< l ∧ bad l = false
         else if parent < l ∧ m.getLsbD parent.toNat = true ∧ bad parent.toNat = false then
           row l = row parent.toNat ||| 1 <<< l ∧ bad l = false
         else row l = 0 ∧ bad l = true) ∧
       let bytes (l : Nat) : List Byte :=
         leBytes 12 (row l).toNat ++ leBytes 4 ((List.range 96).countP fun i => (row l).getLsbD i)
       let s1 := (e.activeLanes x).foldl (fun s l => s.storeSp e (at_ l).toNat (bytes l) .group) (s.setFlags e (e.deadFlag u))
       exec (.tmask x) s = .next ((((s1.recordLanes e m at_ 0 4 bytes).updRegs e fun r => r.kill u.marks).advance e).updRegs e
         fun r => r.setPred p.toNat m (mkMask bad))) ∧
  (∀ (s : State) (e : Env) (x : XArgs) (d : BitVec 8), s.env? = some e → x.dst = .vec d → e.g.audit = .off →
     let m := e.active x
     (∀ b : BitVec 6, x.b = .scal b → e.t.granted = true →
       let u : Use := { srcs := [(x.a, 1), (x.c, 1)], dst := some x.dst }
       let n := (e.s b).toNat
       let first (l : Nat) : Int := if x.a.isVec then (e.val x .int .b64 x.a).at l else (e.val x .int .b64 x.a).at64 l
       let second (l : Nat) : Int := first l + (x.xf.signExtend 64).toInt
       e.Ready u → e.Quiet (e.deadFlag u) → 1 ≤ n → n ≤ 98304 →
       (∀ l, m.getLsbD l = true → ∀ o ∈ [first l, second l], o % 4 = 0 ∧ 0 ≤ o ∧ o + 4 * n ≤ e.gr.k.scrb) →
       ∃ (out : Nat → Nat) (fb : Nat → Bool),
         (∀ l, m.getLsbD l = true →
           let entry (o : Int) (i : Nat) : Nat := s.num e.viewer (some e.g.team) (o.toNat + 4 * i) 4
           let o := if fb l then second l else first l
           fb l = !usable (entry (first l) (n - 1)) ∧
           if usable (entry o (n - 1)) then
             let past (i : Nat) : Bool := drawPast (entry o i) ((e.val x .int .n32 x.c).at l) (entry o (n - 1))
             out l < n ∧ (∀ i, i < out l → past i = false) ∧ (past (out l) = true ∨ out l = n - 1)
           else out l = 0xFFFFFFFF) ∧
         let r := e.readRegs u (e.deadFlag u)
         let r1 := if x.fn.toNat % 8 = 7 then r else r.setPred (x.fn.toNat % 8) m (mkMask fb)
         exec (.drawc x) s = .next (s.setGroup e.gid { e.passed.modSlot e.slot (fun y => y.wrote d.toNat 1) with
           regs := r1.setVec d.toNat m (mkLanes fun l => BitVec.ofNat 32 (out l)) })) ∧
     (let u : Use := { srcs := [(x.a, 1), (x.b, 1)], dst := some x.dst, n := 4 }
      let words (k0 k1 : Word) (l : Nat) : List Word :=
        rngLane k0 k1 (if e.inStep then BitVec.ofNat 32 e.gr.stepNo else 0) (BitVec.ofNat 32 ((e.val x .int .n32 x.a).at l))
          (BitVec.ofNat 32 ((e.val x .int .n32 x.b).at l)) l
      let made (k0 k1 : Word) : State := s.setGroup e.gid { e.passed.modSlot e.slot (fun y => y.wrote d.toNat 4) with
        regs := (e.readRegs u (e.deadFlag u)).setVecs d.toNat m
          ((List.range 4).map fun j => mkLanes fun l => if m.getLsbD l then (words k0 k1 l).getD j 0 else 0) }
      e.Ready u → e.Quiet (e.deadFlag u) →
      (∀ c : BitVec 6, x.fn = 1 → x.c = .scal c → exec (.rngx x) s = .next (made ((e.s c).setWidth 32) ((e.s c).extractLsb' 32 32))) ∧
      (x.fn = 0 → e.inStep = true →
       let rid := (e.place s).2.1.toNat
       let key := BitVec.ofNat 128 (recKey (s.req rid).h)
       (s.setFlags e (e.deadFlag u)).popOk e.cid rid = true →
       (∀ l, m.getLsbD l = true → (e.val x .int .n32 x.a).at l < s.popSize rid) →
       (x.a.isVec = false → (e.val x .int .n32 x.a).at 0 < s.popSize rid) →
       exec (.rngx x) s = .next (made (key.extractLsb' 0 32 ^^^ key.extractLsb' 64 32) (key.extractLsb' 32 32 ^^^ key.extractLsb' 96 32)))))

/-- R224 to R228, R235, R237, R371, R372, R388: on a population of this module whose step runs, with every particle below NPART,
PLWADD adds each active lane's increment in ascending lanes, PLWRD gives each lane its particle's log-weight, PMAP its parent, and
RSMP counts an arrival after the group's earlier accesses, its status saying what became of it, and waits before them; the first
arrival of a round under a deadline starts its timer. A record that is no such population traps ACCESS. R65, R66: the operations wait
where the request's VF has no budget of HBM or of walks, and are charged to it.
The model's choices that it rests on: logs 53, 76, 129. -/
def Obligations.PopulationOperations : Prop :=
  ∀ (s : State) (e : Env) (x : XArgs), s.env? = some e → e.g.audit = .off → e.g.pair = none → e.Fresh →
    e.g.regs.popid.extractLsb' 26 6 = 0 → e.popNode = s.node →
    let rid := e.popRid
    let m := e.active x
    let ua : Use := { srcs := [(x.a, 1), (x.b, 1)] }
    (s.popOk e.cid rid = false →
      (e.Ready ua → e.Quiet (e.deadFlag ua) →
        exec (.plwadd x) s = .next ((s.setFlags e (e.deadFlag ua)).takeTrap e .access 0 e.lanes)) ∧
      ∀ d : BitVec 6, x.dst = .scal d → exec (.rsmp x) s = .next (s.takeTrap e .access 0 e.lanes)) ∧
    (s.popOk e.cid rid = true →
      (let part (l : Nat) : Nat := (e.val x .int .n32 x.b).at l
       let inc (l : Nat) : Word := BitVec.ofNat 32 ((e.val x .float .f32 x.a).at l)
       let s1 := s.setFlags e (e.deadFlag ua)
       e.Ready ua → e.Quiet (e.deadFlag ua) → x.dst = .discard →
       (∀ l, m.getLsbD l = true → part l < s.popSize rid ∧ (s1.popAdd rid (part l) (inc l)).1 = some true) →
       (x.b.isVec = false → part 0 < s.popSize rid) →
       (s.blockReady (s.req rid).vf = false → m ≠ 0 →
         exec (.plwadd x) s = .next (s1.updSlot e fun y => { y with wait := s.blockWait (s.req rid).vf })) ∧
       (s.blockReady (s.req rid).vf = true →
       let s2 := (e.activeLanes x).foldl (fun t l => (t.popAdd rid (part l) (inc l)).2) s1
       exec (.plwadd x) s = .next ((s2.recordLanes e m (fun _ => e.g.regs.popid.setWidth 64) 4 3
         fun l => leBytes 4 (part l) ++ leBytes 4 (inc l).toNat).memDone e x ua))) ∧
      (∀ (n : Nat) (d : BitVec 8) (hp ep : Nat → Nat) (h en : Nat → Nat), x.dst = .vec d →
        let u : Use := { srcs := [(x.a, 1)], dst := some x.dst, n }
        let s1 := s.setFlags e (e.deadFlag u)
        e.Ready u → e.Quiet (e.deadFlag u) →
        (∀ l, m.getLsbD l = true → (e.val x .int .n32 x.a).at l < s.popSize rid ∧
          s1.popAt rid ((e.val x .int .n32 x.a).at l) = (.entry (hp l) (ep l) (h l) (en l), s1)) →
        (x.a.isVec = false → (e.val x .int .n32 x.a).at 0 < s.popSize rid) → s.blockReady (s.req rid).vf = true →
        let result (f : Nat → BitVec (32 * n)) : State := s.setGroup e.gid { e.passed.modSlot e.slot (fun y => y.wrote d.toNat n) with
          regs := (e.readRegs u (e.deadFlag u)).setVecs d.toNat m
            ((List.range n).map fun j => mkLanes fun l => if m.getLsbD l then (f l).extractLsb' (32 * j) 32 else 0) }
        (n = 2 → exec (.plwrd x) s = .next (result fun l => BitVec.ofNat (32 * n) (readWeight (en l)))) ∧
        (n = 1 → exec (.pmap x) s = .next (result fun l => BitVec.ofNat (32 * n) (bits (en l) 207 192)))) ∧
      (∀ (d : BitVec 6) (hp ep h en : Nat) (s2 : State), x.dst = .scal d → s.blockReady (s.req rid).vf = true →
        let i := (e.val x .int .n32 x.a).at 0
        i < s.popSize rid →
        (let u (n : Nat) : Use := { srcs := [(x.a, 1)], dst := some x.dst, n }
         let reads (j : Instr) (n : Nat) (v : BitVec 64) : Prop :=
           (s.setFlags e (e.deadFlag (u n))).popAt rid i = (.entry hp ep h en, s.setFlags e (e.deadFlag (u n))) →
           e.Ready (u n) → e.Quiet (e.deadFlag (u n)) → e.NoPop d v → exec j s = .next (s.setGroup e.gid
             (e.withScalar { e.passed with regs := e.readRegs (u n) (e.deadFlag (u n)) } d v))
         reads (.plwrd x) 2 (BitVec.ofNat 64 (readWeight en)) ∧ reads (.pmap x) 1 (BitVec.ofNat 64 (bits en 207 192))) ∧
        (s.settledAt e.gid .device = false → exec (.rsmp x) s = .next (s.setGroup e.gid (e.waiting (s.behind e.gid)))) ∧
        (let answers (t : State) (v : BitVec 64) : Prop :=
           e.NoPop d v → exec (.rsmp x) s = .next ((t.gives e d v).release e.gid .device)
         let arr := bits en 135 128
         let n := bits h 63 32 + 1
         let r := s.req rid
         let counted (hdr : Nat) : State := (s2.blockWrite r.vf ep 32 (setBits en 128 8 (arr + 1))).blockWrite r.vf hp 64 hdr
         s.settledAt e.gid .device = true →
         (s.popAt rid i = (.running, s2) → answers s2 3) ∧
         (s.popAt rid i = (.entry hp ep h en, s2) →
          (bits h 127 64 = e.gr.stepNo → answers s2 3) ∧
          (bits h 127 64 ≠ e.gr.stepNo → arr = recApp r.h → answers s2 2) ∧
          (bits h 127 64 ≠ e.gr.stepNo → arr ≠ recApp r.h → n < recNpart r.h * recApp r.h →
            answers ((counted (setBits (setBits h 0 2 1) 32 32 n)).setReq rid
              { r with running := false, timer := if bits h 1 0 = 0 ∧ recRpol r.h % 2 = 1 then some s.cycle else r.timer }) 0) ∧
          (bits h 127 64 ≠ e.gr.stepNo → arr ≠ recApp r.h → n = recNpart r.h * recApp r.h →
            answers ((counted (setBits (setBits (setBits h 0 2 2) 32 32 n) 64 64 e.gr.stepNo)).setReq rid
              { r with running := true, timer := none, startLen := recTlen r.n }) 1)))))

/-! ### Requests and steps -/

/-- R55, R56, R58, R223, R229, R377, R401, R402: STEPCMT of group 0 of team 0 of the commit grid, alone in the step, with its stores
and those of ended groups of its grid performed and no resample running, commits the step and counts what it did; it waits before, and
executed elsewhere or twice it traps ILLOP. QMOV moves a request of its context between the active states, or says why not. SPECV
records one verdict a step. s61 to s63 as sD are lanes of the slot.
The model's choices that it rests on: logs 53, 63, 91, 129. -/
def Obligations.StepCommands : Prop :=
  ∀ (s : State) (e : Env) (d : BitVec 6), s.env? = some e → e.g.audit = .off → e.g.pair = none →
    let answers (i : Instr) (t : State) (v : BitVec 64) : Prop :=
      e.NoPop d v → exec i s = .next (t.setGroup e.gid (e.withScalar e.passed d v))
    (e.gr.step = none ∨ e.gr.commit = false ∨ e.t.no ≠ 0 ∨ e.g.no ≠ 0 ∨ e.gr.committed = true →
      exec (.stepcmt d) s = .next (s.takeTrap e .illop 0 e.lanes)) ∧
    (∀ vf k m : Nat, e.gr.step = some (vf, k, m) → e.gr.commit = true → e.t.no = 0 → e.g.no = 0 → e.gr.committed = false →
      let waits (w : Wait) : Prop := exec (.stepcmt d) s = .next (s.setGroup e.gid (e.waiting w))
      let resampling : Prop := ∃ rid ∈ s.stepReqs vf k, (s.req rid).running = true
      let admitted : Prop := s.stepReqs vf k = [] ∨ s.blockReady vf = true
      (e.aloneInGrid s = false → waits .others) ∧
      (e.aloneInGrid s = true → resampling → waits .resample) ∧
      (e.aloneInGrid s = true → ¬resampling → s.settledAt e.gid .device = false → waits (s.behind e.gid)) ∧
      (e.aloneInGrid s = true → ¬resampling → s.settledAt e.gid .device = true →
        (s.gridSends e.t.grid = true → waits .fabric) ∧
        (s.gridSends e.t.grid = false → ¬admitted → waits (s.blockWait vf)) ∧
        (s.gridSends e.t.grid = false → admitted →
          let s0 := s.performAt .device fun p => p.sp.isNone && p.grid = e.t.grid
          let s1 := (s0.modGroup e.gid fun g => { g with relScope := .device }).tellRacers e.gid false
          let r := s1.commitStep vf k
          let v := BitVec.ofNat 16 r.1.held ++ BitVec.ofNat 16 r.1.retired ++ BitVec.ofNat 32 r.1.committed
          e.NoPop d v → exec (.stepcmt d) s = .next
            (((r.2.modGrid e.t.grid fun g => { g with committed := true }).gives e d v).skipAudit e)))) ∧
    (∀ (a : BitVec 6) (check : Bool),
      let rid := (e.s a).toNat
      let r := s.req rid
      let st := (r.bits.extractLsb' 48 3).toNat
      let t := if check then 3 else 2
      let mine : Prop := rid < 65536 ∧ r.ctx = some e.cid
      (¬mine → answers (.qmov d a check) s 3) ∧
      (mine → st = t → answers (.qmov d a check) s 1) ∧
      (mine → (st = 0 ∨ 4 ≤ st) → answers (.qmov d a check) s 2) ∧
      (mine → st ≠ t → 1 ≤ st → st ≤ 3 →
        answers (.qmov d a check) (s.setReq rid { r with bits := BitVec.ofNat 2048 (setBits r.bits.toNat 48 3 t) }) 0)) ∧
    ∀ (x : XArgs) (a b : BitVec 6), x.dst = .scal d → x.a = .scal a → x.b = .scal b →
      (e.inStep = false → exec (.specv x) s = .next (s.takeTrap e .access 0 e.lanes)) ∧
      (e.inStep = true →
        let entry := (Map.get? e.gr.table (e.place s).1.toNat).getD 0
        let rid := (e.place s).2.1.toNat
        let r := s.req rid
        let check : Prop := entry.extractLsb' 62 2 = 2
        (¬check → answers (.specv x) s 2) ∧
        (check → r.verdict = true → answers (.specv x) s 3) ∧
        (check → r.verdict = false → recDlen r.n < (e.s a).toNat → answers (.specv x) s 1) ∧
        (check → r.verdict = false → (e.s a).toNat ≤ recDlen r.n → answers (.specv x) (s.setReq rid
          { ((r.put 1024 32 (e.s a).toNat).put 1056 32 ((e.s b).toNat % 2 ^ 32)).put 96 32
              ((entry.extractLsb' 64 32).toNat + (e.s a).toNat + 1) with verdict := true }) 0))

/-! ### Units, grants and retirement -/

/-- R142, R144, R155, R156, R159, R166, R316, R344, R357 to R365: a load's lanes arrive in its registers and leave its outstanding
lanes; a matrix operation that is the first to name its tile replaces the tile by its result and leaves the list; an engine
operation whose elements are done is over, after what the group stored before it, and waits for the group's earlier accesses to
other modules; a raw copy to the scratchpad moves its next 16 bytes in one step; a
waiting scratchpad load or store is run again; a store is performed at a scope. Each wakes what waits for it.
The model's choices that it rests on: logs 50, 53. -/
def Obligations.UnitsComplete : Prop :=
  ∀ (s : State) (gid : Nat) (g : Group), s.group? gid = some g →
    (∀ (l : Load) (before after : List Load), g.loads = before ++ l :: after → (∀ m ∈ before ++ after, m.id ≠ l.id ∧ m.lanes ≠ 0) →
      exec (.loadCompletion gid l.id l.lanes) s = .next ((s.setGroup gid
        { g with regs := g.regs.setVecs l.reg l.lanes l.vals, loads := before ++ after }).wake gid fun w => w = .loads)) ∧
    (∀ (o : MatOp) (before after : List MatOp) (units : Nat), g.mat = before ++ o :: after → g.life ≠ .saved →
      (∀ m ∈ before, m.tile ≠ o.tile) → (∀ m ∈ before ++ after, m.id ≠ o.id) →
      let done (r : Regs) : State := (s.setGroup gid { g with regs := r, mat := before ++ after }).wake gid fun w =>
        w = .matrix || w = .loads || w = .engine
      let t := g.regs.tile o.tile
      let idx := before.length
      (∀ ty a b, o.kind = .mma ty a b → exec (.matrixCompletion gid idx units) s = .next (done (g.regs.setTile o.tile (mmaTile ty t a b)))) ∧
      (∀ ty n a b i, o.kind = .mmas ty n a b i →
        exec (.matrixCompletion gid idx units) s = .next (done (g.regs.setTile o.tile (mmasTile ty n t a b i)))) ∧
      (∀ ty mode x rows a b, o.kind = .mqk ty mode x rows a b → ∃ q, exec (.matrixCompletion gid idx units) s =
          .next (done (g.regs.setTile o.tile q)) ∧ ∀ r c, r < 32 → c < 48 →
          tileElem q r c = if mqkMasked mode x rows r c then 0xFF800000 else tileElem (mmaTile ty t a b) r c) ∧
      (o.kind = .mzero → ∃ q, exec (.matrixCompletion gid idx units) s = .next (done (g.regs.setTile o.tile q)) ∧
        ∀ r c, r < 32 → c < 48 → tileElem q r c = 0) ∧
      (∀ part d lanes, o.kind = .msmx part d lanes → exec (.matrixCompletion gid idx units) s =
        .next (done ((g.regs.setVecs d lanes (softTile part t).2).setTile o.tile (softTile part t).1)))) ∧
    (∀ (t : Team) (gr : Grid) (c : Ctx) (cls : BitVec 2) (o : EngOp) (before after : List EngOp), s.team? g.team = some t →
      s.grid? t.grid = some gr → s.ctx? gr.ctx = some c → g.eng.getD cls.toNat [] = before ++ o :: after → g.life ≠ .saved →
      (∀ m ∈ before ++ after, m.id ≠ o.id) → o.fin = false → o.parked = none →
      let a : Actor := { gid, g, t, gr, c }
      (∀ (f : FabOut) units, f ∈ s.fabOut → f.gid = gid → f.id < o.id → f.eng = none → f.signal = false →
        exec (.engineCompletion gid cls before.length units) s = .next s) ∧
      (∀ s1 units, s.afterEarlier a o.id = some s1 → (∀ fn ty, o.kind ≠ .coll fn ty) → o.total ≤ o.done →
        exec (.engineCompletion gid cls before.length units) s = .next (s1.engDone gid cls.toNat o.id none)) ∧
      ∀ (va pa : Nat) (tl : Tlb) (leaf : BitVec 64), o.kind = .cpy false → cls = 0 → s.Unmetered c.vf → s.afterEarlier a o.id = some s →
        let r := o.record.toNat
        recEfmt r = 2 → recRot r = false → recStride r 0 = 4 → recRun r ≤ recPitch r → o.done + 4 ≤ o.total → o.done % recSize r 0 + 4 ≤ recSize r 0 →
        o.dense o.done % 16 = 0 → o.stage ≤ o.dense o.done / 16 → (va : Int) = o.start (o.done / recSize r 0) + 4 * (o.done % recSize r 0 : Nat) → va + 16 ≤ 2 ^ 56 →
        va / 65536 = (va + 15) / 65536 → s.tlbFind t.core (asidOf gr.ctx) (va / 65536) = some tl →
        (∀ j, j < 4 → useLeaf c.privc gr.ctx (va + 4 * j) 4 tl.entry tl.level = .ok (pa + 4 * j) leaf) →
        exec (.engineCompletion gid cls before.length 0) s = .next
          (((List.range 4).foldl (fun s' j => s'.addStore gid g.team t.core (some g.team) (o.dense o.done + 4 * j)
            (s.bytes (.group gid g.team t.core) none (pa + 4 * j) 4) .team false (o.dense o.done + 4 * j)) s).modGroup gid fun g =>
              g.modEng 0 o.id fun y =>
                { y with done := y.done + 4, stage := o.dense o.done / 16 + 1, parked := none, reps := [] })) ∧
    (∀ (slot : Bool) (s1 : State) (x : XArgs) (e : Env), g.mayAct slot = true → (g.slot slot).wait = .granule → s1.env? = some e →
      (s.fetchUnit gid slot = .run (.lds x) s1 → ∃ t, exec (.lds x) s1 = .next t ∧
        exec (.fullEmptyWake gid slot) s = .next { t with cur := none }) ∧
      (s.fetchUnit gid slot = .run (.sts x) s1 → ∃ t, exec (.sts x) s1 = .next t ∧
        exec (.fullEmptyWake gid slot) s = .next { t with cur := none })) ∧
    ∀ (p : PStore) (scope : Scope), s.pend.find? (fun q => q.id = p.id) = some p → p.gid = gid → p.sp = none →
      ∃ t, exec (.storePerformed p.id scope) s = .next t ∧ (∀ q ∈ t.pend, q.id = p.id → q.held = false → q.level.covers scope = true) ∧
        t = (s.performAt scope fun q => q.id = p.id).wake gid fun w => w = .stores

/-- R26, R35, R36, R172, R180, R416: the oldest waiting ACQR is granted where the pool has what it lacks; the head of a key's queue
is granted beside holders that allow it, and its slot issues again with the status; a group whose lanes have retired and whose work
is complete gives back its slots and place, and its team and grid retire with it where they are complete and no write of the grid to
another module is unanswered, the grid's stores performed at device scope; an addition of a signal meets its counter after the stores
to it that came earlier (log 22), charged once (R65), goes to its home, waits for a budget (R66) or for what a lichen half holds there
(log 127), or is dropped with a host event.
The model's choices that it rests on: logs 22, 36, 53, 63, 78, 127. -/
def Obligations.GrantsAndRetirement : Prop :=
  (∀ (s : State) (core part gid : Nat) (slot : Bool) (rest : List (Nat × Bool)) (a : Actor), (s.part core part).acqr = (gid, slot) :: rest →
    s.actor gid = some a → a.g.full = false → a.gr.k.fullSlots - a.gr.k.preg ≤ (s.part core part).pool →
    exec (.acqrGrant core part) s = .next (((s.grantFull gid).modPart core part fun p =>
      { p with acqr := rest.filter fun q => q.1 ≠ gid }).wake gid fun w => w = .acqr)) ∧
  (∀ (s : State) (cid : Nat) (c : Ctx) (k : KeyId) (q : KeyReq) (rest : List KeyReq) (g : Group), s.ctx? cid = some c →
    (c.key k).queue = q :: rest → q.remote = none → s.group? q.who = some g →
    (if q.ex then (c.key k).holders = [] else ∀ h ∈ (c.key k).holders, h.2 = false) →
    ∃ t, exec (.keyGrant cid k) s = .next t ∧
      (∃ c', t.ctx? cid = some c' ∧ (c'.key k).queue = rest ∧
        (c'.key k).holders = (c.key k).holders ++ [(q.who, if q.bind then true else q.ex)]) ∧
      ∃ h, t.group? q.who = some h ∧ (h.slot q.slot).granted = some (if !q.bind && (c.key k).abandoned then 1 else 0) ∧
        ((g.slot q.slot).wait = .key → (h.slot q.slot).wait = .ready) ∧ h.regs = g.regs) ∧
  (∀ (s : State) (gid : Nat) (g : Group) (t : Team) (gr : Grid) (c : Ctx), s.group? gid = some g → s.team? g.team = some t →
    s.grid? t.grid = some gr → s.ctx? gr.ctx = some c → g.life = .retiring → g.audit = .off → s.idle gid g = true → g.keys = [] →
    g.part < (s.core t.core).parts.length →
    ∃ u, exec (.groupRetire gid) s = .next u ∧ (gr.done + 1 < gr.teams → u.mem = s.mem ∧ u.pend = s.pend) ∧
      (u.part t.core g.part).used = (s.part t.core g.part).used - g.held gr.k ∧
      gid ∉ (u.part t.core g.part).active ∧ gid ∉ (u.part t.core g.part).pending ∧
      (∀ h, u.group? gid = some h → h.life = .retired ∧ h.regs = g.regs) ∧
      ((∀ n ∈ t.groups, n = gid ∨ ∃ h, s.group? n = some h ∧ h.life = .retired) → t.retired = false → t.twin = none →
        t.placing = .placed → gid ∈ t.groups →
        (u.core t.core).spUsed = (s.core t.core).spUsed - gr.k.scrb ∧
        (gr.teams ≤ gr.done + 1 → s.hasChildren t.grid = false → s.gridSends t.grid = false → gr.parent = none →
          (∀ p ∈ u.pend, p.grid = t.grid → p.sp = none → p.held = false → p.level.covers .device = true) ∧
          u.grid? t.grid = none ∧ u.signals = s.signals ++ (match gr.cctr with
            | some a => [{ ctx := gr.ctx, addr := a, src := gr.id.toNat, grid := true }]
            | none => [])))) ∧
  ∀ (s : State) (i : Nat) (g : Signal) (c : Ctx), s.signals[i]? = some g → s.ctx? g.ctx = some c → g.parked = none →
    let s1 := { s with signals := s.signals.eraseIdx i }
    (g.addr.toNat % 8 ≠ 0 ∨ 2 ^ 56 ≤ g.addr.toNat → exec (.completionSignal i) s = .next
      { s1 with host := s.host ++ [.dropped g.ctx g.addr g.src] }) ∧
    (g.addr.toNat % 8 = 0 → g.addr.toNat < 2 ^ 56 →
      (∀ pa leaf s0, s.translateAt g.ctx c g.addr.toNat 2 = (.ok pa leaf, s0) →
        (s.admits c.vf 0 = false ∨ s.pinnedBy 0 none pa 8 = true → exec (.completionSignal i) s = .next s) ∧
        (s.admits c.vf 0 = true → s.pinnedBy 0 none pa 8 = false →
          let s2 := ((s0.eraseSignal i).charge c.vf 0 (unitBytes pa 8)).settleBytes none pa 8 .pod
          exec (.completionSignal i) s = .next
            ((s2.addStore 0 0 0 none pa (leBytes 8 (BitVec.ofNat 64 (s2.num .pod none pa 8) + 1).toNat) .device false).signalled pa))) ∧
      (∀ s0, s.translateAt g.ctx c g.addr.toNat 2 = (.access, s0) → exec (.completionSignal i) s = .next
        { s0.eraseSignal i with host := s0.host ++ [.dropped g.ctx g.addr g.src] }) ∧
      (∀ node s0, s.translateAt g.ctx c g.addr.toNat 2 = (.remote node, s0) → exec (.completionSignal i) s = .next
        ((s0.eraseSignal i).sendSignal g c.vf node)) ∧
      (∀ s0, s.translateAt g.ctx c g.addr.toNat 2 = (.deferred, s0) → exec (.completionSignal i) s = .next s) ∧
      ∀ w host mal s0, s.translateAt g.ctx c g.addr.toNat 2 = (.park w host mal, s0) → exec (.completionSignal i) s = .next
        { s0.fault w host mal with signals := s0.signals.set i { g with parked := some w } })

/-! ### The dispatcher -/

/-- R20, R24, R37, R60 to R64, R242, R250, R266: DISPATCH_TEAM takes the head of the highest level that fits, of the first context in
turn where it does, and places one team: a saved team where it fits, else a launch's next team on the eligible core with the most
free slots, the lowest number on ties, or the two halves of a lichen pair on cores of different clusters. Its groups take their
partitions in turn, their starting slots and registers, and the grid's last team takes it from its FIFO; where no head fits nothing
changes. PENDING_DISPLACE puts a pending group that has been ready for 4,032 cycles in the place of the youngest active one, and both
issue nothing for 4 cycles. A partition issues from a ready group of its active set: from the oldest, unless some have not issued for
64 cycles; of two ready slots of the group the one at the lower address is first, and the other one, where it may still act, is next.
A group that met an event of R62's list, or has a load that missed, is not ready, and its other slot issues nothing.
Which waits are such events is log 60 (DEDUCED), and which loads miss log 126; that both halves of a lichen pair are placed in one turn
is log 85 (DEDUCED); where a rotation starts, and who goes first among groups that are equal, are logs 105 and 132; a restored group
that was to retire still is (log 109).
The model's choices that it rests on: logs 60, 85, 105, 109, 126, 132. -/
def Obligations.DispatcherPlacesTeams : Prop :=
  (∀ (s : State) (cid level : Nat) (c : Ctx) (before after : List Nat), level < 8 →
    (∀ l, level < l → l < 8 → ∀ n ∈ s.rotated l, s.dispatchCtx n l = none) → s.rotated level = before ++ cid :: after →
    (∀ n ∈ before, s.dispatchCtx n level = none) → s.ctx? cid = some c → c.cst = 1 →
    (∀ (grid core : Nat) (gr : Grid) (rest : List Nat), s.restoringTeams cid level = [] → c.fifos.getD level [] = grid :: rest →
      s.grid? grid = some gr → s.launchOrdered gr = true → gr.k.gpt ≤ 16 →
      let placed (t : State) (core tid : Nat) (x : Team) (twin : Option (Nat × Bool)) : Prop :=
        let base := (s.core core).basePart
        t.team? tid = some x ∧ x.grid = grid ∧ x.no = gr.placed ∧ x.core = core ∧ x.base = base ∧ x.twin = twin.map (·.1) ∧
        x.groups = (List.range gr.k.gpt).map (tid + 1 + ·) ∧ x.granted = decide (gr.k.preg = gr.k.freg) ∧
        (t.core core).spUsed = (s.core core).spUsed + gr.k.scrb ∧
        ∀ n, n < gr.k.gpt → ∃ g, t.group? (tid + 1 + n) = some g ∧ g.team = tid ∧ g.no = n ∧ g.part = (base + n) % 4 ∧
          g.life = .resident ∧ g.full = decide (gr.k.preg = gr.k.freg) ∧ g.bound = gr.k.preg ∧ g.slot0 = startSlot gr.k ∧
          g.slot1.live = false ∧ g.depth = 0 ∧ g.since = s.cycle ∧ g.pair = twin.map (fun w => (w.1 + 1 + n, w.2)) ∧
          g.audit = (if auditSelects c gr gr.placed n then .selected [] 0 else .off) ∧
          g.regs = startRegs s.node gr (s.place gr x).2.1 gr.placed n ∧
          (tid + 1 + n ∈ (t.part core ((base + n) % 4)).active ∨ tid + 1 + n ∈ (t.part core ((base + n) % 4)).pending)
      let counted (t : State) : Prop :=
        (∃ h, t.grid? grid = some h ∧ h.placed = gr.placed + 1 ∧ h.done = gr.done) ∧ Map.get? t.rotation level = some cid ∧
        (gr.placed + 1 < gr.teams → t.mem = s.mem ∧ t.pend = s.pend ∧ t.ctxs = s.ctxs)
      (s.coresFor gr c = some (core, none) → (s.core core).parts.length = 4 →
        ∃ t x, exec .dispatchTeam s = .next t ∧ placed t core s.nextId x none ∧ counted t) ∧
      ∀ b, s.coresFor gr c = some (core, some b) → (s.core core).parts.length = 4 → (s.core b).parts.length = 4 →
        clusterOf b ≠ clusterOf core ∧
        let w := s.nextId + (1 + gr.k.gpt)
        ∃ t x y, exec .dispatchTeam s = .next t ∧ placed t core s.nextId x (some (w, true)) ∧ placed t b w y (some (s.nextId, false)) ∧
          counted t) ∧
    ∀ (tid core : Nat) (x : Team) (gr : Grid) (more : List (Nat × Team × Grid)), s.restoringTeams cid level = (tid, x, gr) :: more →
      s.pickCore c (s.savedNeed x gr.k) gr.k.scrb (s.pairAllows x) = some core → x.groups.Nodup →
      ∃ t, exec .dispatchTeam s = .next t ∧ Map.get? t.rotation level = some cid ∧
        (∃ y, t.team? tid = some y ∧ y.core = core ∧ y.base = (s.core core).basePart ∧ y.placing = .placed ∧ y.groups = x.groups) ∧
        ∀ n g, n ∈ x.groups → s.group? n = some g → g.life = .saved →
          t.group? n = some (g.restored (((s.core core).basePart + g.no) % 4) s.cycle)) ∧
  (∀ s : State, (∀ l, l < 8 → ∀ n ∈ s.rotated l, s.dispatchCtx n l = none) → exec .dispatchTeam s = .next s) ∧
  (∀ (s : State) (c : Ctx) (need : List (Nat × Nat)) (scrb : Nat) (allowed : Nat → Bool),
    let ok (n : Nat) : Prop := n < 256 ∧ allowed n = true ∧ s.mayUse c n = true ∧ (s.core n).fits need scrb = true
    (s.pickCore c need scrb allowed = none ↔ ∀ n, ¬ok n) ∧
    ∀ n, s.pickCore c need scrb allowed = some n → ok n ∧ ∀ m, ok m →
      (s.core m).freeSlots ≤ (s.core n).freeSlots ∧ ((s.core m).freeSlots = (s.core n).freeSlots → n ≤ m)) ∧
  (∀ (s : State) (core part gid y cyc : Nat) (g h : Group), s.group? gid = some g → s.group? y = some h →
    s.youngest (s.part core part).active = some y → gid ∈ (s.part core part).pending → part < (s.core core).parts.length → y ≠ gid →
    g.readySince = some cyc → cyc + 4032 ≤ s.cycle →
    ∃ t, exec (.pendingDisplace core part gid) s = .next t ∧
      (t.part core part).active = (s.part core part).active.filter (· ≠ y) ++ [gid] ∧
      (t.part core part).pending = (s.part core part).pending.filter (· ≠ gid) ++ [y] ∧
      t.group? gid = some (g.hold s.cycle) ∧ t.group? y = some (h.hold s.cycle) ∧ t.mem = s.mem ∧ t.pend = s.pend ∧
      (∀ slot n, n < s.cycle + 4 → (g.hold s.cycle).slotReady n slot = false ∧ (h.hold s.cycle).slotReady n slot = false) ∧
      ∀ m x, m ∈ (s.part core part).active → s.group? m = some x → x.since ≤ h.since) ∧
  (∀ (s : State) (p : Part) (n : Nat), s.nextGroup p = some n → ∃ g, s.group? n = some g ∧ n ∈ p.active ∧ g.ready s.cycle = true ∧
    ∀ m h, m ∈ p.active → s.group? m = some h → h.ready s.cycle = true →
      if g.starved s.cycle then h.starved s.cycle = true → h.since ≤ g.since else h.starved s.cycle = false ∧ g.since ≤ h.since) ∧
  (∀ (s : State) (p : Part), s.nextGroup p = none ↔ ∀ m h, m ∈ p.active → s.group? m = some h → h.ready s.cycle = false) ∧
  (∀ (s : State) (gid : Nat) (slot : Bool) (g : Group) (t : Team), s.group? gid = some g → s.team? g.team = some t →
    (s.part t.core g.part).second = none →
    (s.selects gid slot = true ↔ g.slotReady s.cycle slot = true ∧ s.nextGroup (s.part t.core g.part) = some gid ∧
      (g.slotReady s.cycle (!slot) = false ∨ (g.slot slot).pc ≤ (g.slot (!slot)).pc))) ∧
  (∀ (s : State) (gid : Nat) (slot : Bool) (g : Group) (t : Team) (q : Nat × Bool), s.group? gid = some g → s.team? g.team = some t →
    s.pairMate (s.part t.core g.part) = some q → (s.selects gid slot = true ↔ (gid, slot) = q)) ∧
  (∀ (g : Group) (slot : Bool), g.missing = true → g.canIssue slot = false ∧ ∀ cyc, g.ready cyc = false) ∧
  ∀ (g : Group) (slot : Bool), (g.slot (!slot)).live = true → (g.slot (!slot)).wait.swaps = true →
    g.canIssue slot = false ∧ ∀ cyc, g.ready cyc = false

/-! ### Pages and tables -/

/-- R197, R200, R201, R203, R207, R208, R212: an allocation takes the VF's own list first, within quota and borrowing, in both tiers.
Growth maps a zeroed frame at the placeholder, with RCT 0, and whatever waits for the page walks again; a write to a shared page takes
the frame over when it is its only reference, else a copy, the old frame released; a mapping by the VF's driver takes a frame, and
KVMAP is counted again, and it waits where no frame is free, the quota is spent or HBM is being filled; a reply of retry resolves its
request, a failure fails what waits, and a stale one gives back the frame that is still mapped; a page of any size moves out or in unless
it is rooted or its fourth move is too recent, when it is rooted for 8 ms.
The model's choices that it rests on: logs 17, 53, 81, 83, 106, 120. -/
def Obligations.PagesAreMapped : Prop :=
  (∀ (s : State) (vf : Nat), let v := s.vf vf
    (v.hquota + v.hborrow ≤ v.hused → s.allocate vf = (.quota, s)) ∧
    ∀ f cyc rest, v.hused < v.hquota + v.hborrow → v.free = (f, cyc) :: rest → ∃ t, s.allocate vf = (.got f, t) ∧
      (t.vf vf).hused = v.hused + 1 ∧ (t.vf vf).free = rest ∧ (t.frame f).count = 1 ∧ (t.frame f).owner = some vf ∧
      (∀ a, a / 65536 = f → t.byte .module none a = 0) ∧ ∀ a, a / 65536 ≠ f → memByte t.mem a = memByte s.mem a) ∧
  (∀ (s : State) (vf cid page : Nat), let v := s.vf vf
    (v.pquota + v.pborrow ≤ v.pused → s.allocatePool vf cid page = (.none .quota, s)) ∧
    ∀ f cyc rest, v.pused < v.pquota + v.pborrow → v.pfree = (f, cyc) :: rest → ∃ t, s.allocatePool vf cid page = (.got f, t) ∧
      (t.vf vf).pused = v.pused + 1 ∧ (t.vf vf).pfree = rest ∧ t.poolHeld = s.poolHeld ++ [(f, cid, page)]) ∧
  (∀ (s : State) (cid page pa : Nat) (c : Ctx) (w : PageWant) (e : BitVec 64), s.ctx? cid = some c →
    s.wants.find? (·.hits cid page) = some w → s.walk c (page * 65536) = (.grow e, pa) →
    (∀ f s1, s.allocate c.vf = (.got f, s1) → f < 2 ^ 32 →
      let s2 := s1.modWriteNum pa 8 (((e ||| 1) &&& ~~~(0xFFF0FFFFFFFF2000#64)) ||| BitVec.ofNat 64 (f * 65536)).toNat
      (s2.kvOwner cid (page * 65536) = none → exec (.growAllocate cid page) s = .next (s2.resolve cid page)) ∧
      ∀ rid, s2.kvOwner cid (page * 65536) = some rid → exec (.growAllocate cid page) s = .next ((s2.kvCount rid 1).resolve cid page)) ∧
    (∀ s1, s.allocate c.vf = (.quota, s1) → exec (.growAllocate cid page) s = .next
      (if (s1.vf c.vf).qtrap then s1.failPage w.ctx w.page .quota 0 else s1)) ∧
    ∀ s1, s.allocate c.vf = (.host, s1) → exec (.growAllocate cid page) s = .next (s1.fault w true false)) ∧
  (∀ (s : State) (cid page pa : Nat) (c : Ctx) (w : PageWant) (e : BitVec 64), s.ctx? cid = some c →
    s.wants.find? (fun w => w.hits cid page && kindWrites w.kind) = some w → s.walk c (page * 65536) = (.leaf e 4, pa) →
    leafCow e = true →
    let own := (e ||| 4) &&& ~~~(0x4000#64)
    let finish (t : State) (x : BitVec 64) : State :=
      ((t.modWriteNum pa 8 x.toNat).tlbDrop (asidOf cid) page (page + 1)).resolve cid page
    (s.countOf e = 1 → exec (.cowCopy cid page) s = .next (finish s own)) ∧
    ∀ f s1, s.countOf e ≠ 1 → s.admits c.vf 2 = true → s.allocate c.vf = (.got f, s1) → f < 2 ^ 32 →
      exec (.cowCopy cid page) s = .next
        (finish (((s1.copyFrame (leafFrame e) f).charge c.vf 2 65536).releaseEntry c.vf e)
          ((own &&& ~~~(0xFFF0FFFFFFFF0000#64)) ||| BitVec.ofNat 64 (f * 65536)))) ∧
  (∀ (s : State) (cid page pa off : Nat) (pool : Bool) (c : Ctx) (value : BitVec 64) (w : Walk), s.dev.ready = true → off % 8 = 0 →
    s.ctx? cid = some c → s.walk c (page * 65536) = (w, pa) → (∀ e l, w ≠ .leaf e l) → (∀ n, w ≠ .moved n) →
    s.walkLevel c (page * 65536) = 4 →
    let noted (t : State) (f : PageReq → PageReq) : State :=
      { t with pageReqs := t.pageReqs.map fun r => if r.want.hits cid page && r.cgen = c.cgen then f r else r }
    (∀ f s1, pool = false → s.allocate c.vf = (.got f, s1) → exec (.registerWrite ⟨(.mapping c.vf cid page pool), off⟩ value) s = .next
      ((noted (s1.modWriteNum pa 8 (mappedEntry value f)) fun r => { r with frame := some f }).kvRecount cid page)) ∧
    (∀ f s1, pool = true → s.allocatePool c.vf cid page = (.got f, s1) → exec (.registerWrite ⟨(.mapping c.vf cid page pool), off⟩ value) s =
      .next (noted (s1.modWriteNum pa 8 (forwardEntry f.1)) fun r => { r with pool := some f })) ∧
    (let waits (s1 : State) : Prop := exec (.registerWrite ⟨(.mapping c.vf cid page pool), off⟩ value) s =
       .next { s1 with mapq := s1.mapq ++ [{ vf := c.vf, cid, page, pool, value }] }
     (∀ s1, pool = false → s.allocate c.vf = (.reclaim, s1) → waits s1) ∧
     (∀ s1, pool = false → s.allocate c.vf = (.quota, s1) → (s1.vf c.vf).qtrap = false → waits s1) ∧
     (∀ s1, pool = true → s.allocatePool c.vf cid page = (.none .quota, s1) → (s1.vf c.vf).qtrap = false → waits s1) ∧
     ∀ s1, pool = false → s.allocate c.vf = (.host, s1) → s1.dev.fillDone = false → waits s1)) ∧
  (∀ (s : State) (vf : Nat) (reply : BitVec 128) (r : PageReq) (c : Ctx), s.dev.ready = true →
    (reply.extractLsb' 66 62 ≠ 0 ∨ 2 ≤ reply.extractLsb' 64 2 → exec (.pageReply vf reply) s = .next
      { s with dev := { s.dev with badReplies := s.dev.badReplies + 1 } }) ∧
    (reply.extractLsb' 66 62 = 0 → reply.extractLsb' 64 2 < 2 →
      ((∀ q ∈ s.pageReqs, ¬(q.vf = vf ∧ q.posted = true ∧ q.tag = reply.setWidth 32)) → exec (.pageReply vf reply) s = .next s) ∧
      (s.pageReqs.find? (fun q => q.vf = vf && q.posted && q.tag.toNat = (reply.setWidth 32 : BitVec 32).toNat) = some r →
        (r.cgen ≠ reply.extractLsb' 32 32 → exec (.pageReply vf reply) s = .next s) ∧
        (r.cgen = reply.extractLsb' 32 32 → s.ctx? r.want.ctx = some c →
          let s1 := { s with pageReqs := s.pageReqs.filter fun q => q.tag ≠ r.tag }
          let s2 := s1.postRequests s1.pageReqs []
          (c.cgen = r.cgen → c.cst ≠ 3 → exec (.pageReply vf reply) s = .next (if reply.extractLsb' 64 2 = 0 then
              (s2.kvRecount r.want.ctx r.want.page).resolve r.want.ctx r.want.page
            else s2.failPage r.want.ctx r.want.page .xlfail 0)) ∧
          (c.cgen ≠ r.cgen ∨ c.cst = 3 → exec (.pageReply vf reply) s = .next (s2.frameBack r) ∧
            (r.pool = none → (∀ f, r.frame = some f → (s2.frame f).count = 0 ∨ (s2.frame f).owner ≠ some vf) → s2.frameBack r = s2) ∧
            ∀ f, r.frame = some f → r.pool = none → (s2.frame f).count ≠ 0 → (s2.frame f).owner = some vf →
              ((s2.frameBack r).vf vf).free = (s2.vf vf).free ++ [(f, s2.cycle)] ∧
              ((s2.frameBack r).vf vf).hused = (s2.vf vf).hused - 1))))) ∧
  (∀ (s : State) (vf cid page dest pa level : Nat) (c : Ctx) (e entry : BitVec 64) (data : List Byte), s.ctx? cid = some c →
    s.walk c (page * 65536) = (.leaf e level, pa) → dest ≠ s.node →
    let n := levelPages level
    let first := page / n * n
    let m := s.movesOf cid first
    (leafRoot e = true → exec (.pageMigrate vf cid page ⟨dest, entry, data⟩) s = .next (s.refuseMove vf)) ∧
    (leafRoot e = false → (∃ t, m.times[3]? = some t ∧ s.cycle < t + 1050000) → exec (.pageMigrate vf cid page ⟨dest, entry, data⟩) s = .next
      ((((s.modWriteNum pa 8 (e ||| 0x8000#64).toNat).setMoves cid first { m with rooted := some (s.cycle + 8400000) }).tlbDrop
        (asidOf cid) first (first + n)).refuseMove vf)) ∧
    (leafRoot e = false → (∀ t, m.times[3]? = some t → t + 1050000 ≤ s.cycle) → s.devAdmits 2 = true →
      ∃ t, exec (.pageMigrate vf cid page ⟨dest, entry, data⟩) s = .next t ∧ HostMsg.moved cid first dest ∈ t.host ∧
        (t.movesOf cid first).times = (s.cycle :: m.times).take 4)) ∧
  (∀ (s : State) (vf cid page pa node : Nat) (c : Ctx) (entry : BitVec 64) (data : List Byte), s.ctx? cid = some c →
    s.walk c (page * 65536) = (.moved node, pa) → s.devAdmits 2 = true →
    let n := levelPages (s.walkLevel c (page * 65536))
    let first := page / n * n
    (s.allocateRun c.vf n = none → exec (.pageMigrate vf cid page ⟨s.node, entry, data⟩) s = .next s) ∧
    ∀ f s1, s.allocateRun c.vf n = some (f, s1) → ∃ t, exec (.pageMigrate vf cid page ⟨s.node, entry, data⟩) s = .next t ∧
      (t.movesOf cid first).times = (s.cycle :: (s.movesOf cid first).times).take 4 ∧
      let s2 := (s1.modWrite (f * 65536) (data.take (65536 * n))).modWriteNum pa 8 (mappedEntry entry f)
      let s3 := ((s2.leavePool c.vf cid first).devCharge 2 (65536 * n)).noteMove cid first
      t = if n = 1 then s3.kvRecount cid first else s3) ∧
  (∀ (s s1 : State) (vf n f : Nat), s.allocateRun vf n = some (f, s1) → 1 < n →
    f % n = 0 ∧ (s.vf vf).hused + n ≤ (s.vf vf).hquota + (s.vf vf).hborrow ∧ (s1.vf vf).hused = (s.vf vf).hused + n ∧
    ∀ i, i < n → (s1.frame (f + i)).count = 1 ∧ (s1.frame (f + i)).owner = some vf) ∧
  ∀ (s : State) (cid page pa t level : Nat) (c : Ctx) (e : BitVec 64), s.ctx? cid = some c → (s.movesOf cid page).rooted = some t →
    (s.cycle < t → exec (.rootExpiry cid page) s = .next s) ∧
    (t ≤ s.cycle → s.walk c (page * 65536) = (.leaf e level, pa) → exec (.rootExpiry cid page) s = .next
      (((s.setMoves cid page { s.movesOf cid page with rooted := none }).modWriteNum pa 8 (e &&& ~~~(0x8000#64)).toNat).tlbDrop
        (asidOf cid) page (page + levelPages level)))

/-- R65, R146, R209, R210, R417, R205: commands are executed in queue order. An invalidation performs the accesses of its address
space, takes every entry that overlaps its range from the TLBs, has the translation registers over it translated again, and counts
once no store of a lichen half that used a removed translation is left; a sync counts after every earlier command; a flush drops
hints; a command with an illegal value counts 2^32, and one whose completion word is not the VF's is discarded. At a home, a load is
answered with its data, a store is performed and answered, both charged to HBM or held while its budget is spent; an operation that
meets a forwarding entry goes on, charged to fabric egress, until its fourth forward fails, and one of an unknown context is not at home;
at the sender a reply ends the wait, and "not home" sends the operation again by the route table, once. R279: what comes by a port that is
not up waits, and nothing answers an operation that has not left.
The model's choices that it rests on: logs 42, 53, 77, 84, 99, 107. -/
def Obligations.InvalidationsAndFabric : Prop :=
  (∀ (s : State) (asid lo hi : Nat), let t := s.tlbDrop asid lo hi
    t.mem = s.mem ∧ t.pend = s.pend ∧ t.ctxs = s.ctxs ∧
    (∀ n x, x ∈ (t.core n).tlb ↔ x ∈ (s.core n).tlb ∧ ¬(x.asid = asid ∧ x.page < hi ∧ lo < x.page + x.pages)) ∧
    (∀ l ∈ t.tlb2, ∀ x ∈ l, ¬(x.asid = asid ∧ x.page < hi ∧ lo < x.page + x.pages)) ∧
    ∀ gid g cid, s.group? gid = some g → s.ctxOf g = some cid → asidOf cid = asid → ∃ h, t.group? gid = some h ∧
      ∀ (i : Nat) (r : GReg), g.regs.g[i]? = some r → h.regs.g[i]? = some
        (if r.base.toNat / 65536 < hi ∧ lo ≤ (r.base.toNat + max 1 r.limit - 1) / 65536 then { r with stale := true } else r)) ∧
  (∀ (s : State) (vf : Nat) (c : BitVec 256), s.dev.ready = true →
    let lo := (invRange c).1
    let hi := (invRange c).2
    let i := if invOp c = 2 then Instr.sync vf c else if invOp c = 3 then Instr.flushRouteHints vf c else Instr.invalidate vf c
    (s.wordOk vf (invCmpl c) = false → exec i s = .next (s.discard vf) ∧ ((s.discard vf).vf vf).discw = (s.vf vf).discw + 1) ∧
    (∀ q rest l p, s.wordOk vf (invCmpl c) = true → s.invq = q :: rest → invOk q.cmd = true → invOp q.cmd = 1 → q.waits = some l →
      p ∈ s.pend → p.held = true → p.id ∈ l → exec i s = .next { s with invq := s.invq ++ [{ vf, cmd := c }] }) ∧
    (s.wordOk vf (invCmpl c) = true → s.invq = [] →
      (invOk c = false → exec i s = .next (s.complete (invCmpl c) (2 ^ 32))) ∧
      (invOk c = true → invOp c = 2 → exec (.sync vf c) s = .next (s.complete (invCmpl c) 1)) ∧
      (invOk c = true → invOp c = 3 → ∃ hs : List (List (Nat × Nat × Nat)),
        exec (.flushRouteHints vf c) s = .next ({ s with hints := hs }.complete (invCmpl c) 1) ∧
        hs.length = s.hints.length ∧ ∀ i h, h ∈ hs.getD i [] ↔ h ∈ s.hints.getD i [] ∧ ¬(h.1 = invAsid c ∧ lo ≤ h.2.1 ∧ h.2.1 < hi)) ∧
      (invOk c = true → invOp c = 1 →
        let s1 : State := { s with invq := [{ vf, cmd := c }] }
        let s2 := (s1.performAt .pod fun p => !p.held && p.sp.isNone && (s1.asidGroups (invAsid c)).contains p.gid).tlbDrop
          (invAsid c) lo hi
        let late (p : PStore) : Bool := (s1.invHeld c).contains p.id
        ((s2.pend.any fun p => p.held && late p) = false → exec (.invalidate vf c) s = .next
          ({ s2.performAt .pod late with invq := [] }.complete (invCmpl c) 1)) ∧
        ((s2.pend.any fun p => p.held && late p) = true → exec (.invalidate vf c) s = .next
          { s2 with invq := [{ vf, cmd := c, waits := some (s1.invHeld c) }] })))) ∧
  (∀ (s : State) (r : FabReq) (c : Ctx), s.ctx? r.ctxid = some c → c.cst = 1 ∨ c.cst = 2 → s.fabHeld = [] → s.CameIn r.node →
    (∀ node n own, (r.kind = .read n own ∨ ∃ bs, r.kind = .write bs) → (s.walk c r.va.toNat).1 = .moved node → s.admits c.vf 3 = true →
      let s1 := s.charge c.vf 3 1
      (r.hops < 3 → exec (.fabricIngress r) s = .next (s1.sendFor c.vf node { r with hops := r.hops + 1 })) ∧
      (3 ≤ r.hops → exec (.fabricIngress r) s = .next ((s1.tell (.forwardLimit r.ctxid r.va)).answer r .xlfail))) ∧
    ∀ pa leaf s1, leafWatch leaf = false → r.acc = none →
      (∀ n own, r.kind = .read n own → s.translateAt r.ctxid c r.va.toNat 0 = (.ok pa leaf, s1) →
        let s2 := s1.charge c.vf 0 (unitBytes pa n)
        (s1.admits c.vf 0 = true → exec (.fabricIngress r) s = .next (s2.answer r (.data (s2.ownedBytes own pa n)))) ∧
        (s1.admits c.vf 0 = false → exec (.fabricIngress r) s = .next { s1 with fabHeld := s1.fabHeld ++ [r] })) ∧
      ∀ bs, r.kind = .write bs → s.translateAt r.ctxid c r.va.toNat 1 = (.ok pa leaf, s1) →
        (s1.admits c.vf 0 = true → exec (.fabricIngress r) s = .next
          (((s1.charge c.vf 0 (unitBytes pa bs.length)).modWrite pa bs).answer r (.data []))) ∧
        (s1.admits c.vf 0 = false → exec (.fabricIngress r) s = .next { s1 with fabHeld := s1.fabHeld ++ [r] })) ∧
  (∀ (s : State) (r : FabReq), s.ctx? r.ctxid = none → s.fabHeld = [] → r.id ≠ 0 → r.node ≠ s.node → s.CameIn r.node →
    exec (.fabricIngress r) s = .next (s.post r.node (.notHome r.node r.id))) ∧
  (∀ (s : State) (r : FabReq), s.fabHeld = [] → r.node ≠ s.node → (s.dev.ports.getD (Config.portOf r.node) {}).link ≠ 2 →
    exec (.fabricIngress r) s = .next { s with portIn := s.portIn ++ [(Config.portOf r.node, .request r)] }) ∧
  ∀ (s : State) (id : Nat) (o : FabOut), s.fabOut.find? (fun p => p.id = id) = some o →
    (∀ rep, o.dest ≠ s.node → (s.dev.ports.getD (Config.portOf o.dest) {}).link ≠ 2 →
      exec (.fabricReply id rep) s = .next { s with portIn := s.portIn ++ [(Config.portOf o.dest, .reply id rep)] } ∧
      exec (.notHome id) s = .next { s with portIn := s.portIn ++ [(Config.portOf o.dest, .notHome id)] }) ∧
    (s.CameIn o.dest → s.unsent id = true → ∀ rep, exec (.fabricReply id rep) s = .next s ∧ exec (.notHome id) s = .next s) ∧
    (s.CameIn o.dest → s.unsent id = false →
    (∀ (rep : FabRep) (g : Group), o.signal = false → o.eng = none → o.idx < 96 → (∀ n x, rep ≠ .hint n x) →
      s.group? o.gid = some g → (o.writes = true → g.halts = false ∧ s.ending = []) → (∀ p ∈ s.fabOut, p.id ≠ id → ¬(p.gid = o.gid ∧ p.slot = o.slot ∧ p.eng = none)) →
      ∃ (t : State) (h : Group), exec (.fabricReply id rep) s = .next t ∧ t.fabOut = s.fabOut.filter (fun p => p.id ≠ id) ∧ t.mem = s.mem ∧
        t.group? o.gid = some h ∧ (h.slot o.slot).reps = (g.slot o.slot).reps ++ [(o.idx, rep)] ∧ h.regs = g.regs ∧
        ((g.slot o.slot).wait = .fabric → (h.slot o.slot).wait = .ready)) ∧
    let s0 := s.dropHint o.req.ctxid (o.req.va.toNat / 65536)
    (1 ≤ o.misses → exec (.notHome id) s = .next (s0.deliver id .xlfail)) ∧
    ∀ c n, o.misses = 0 → FabKind.population o.req.kind = false → s.ctx? o.req.ctxid = some c → s0.route c o.req.va.toNat = some n →
      n ≠ s.node → exec (.notHome id) s = .next ({ s0 with fabOut := s0.fabOut.map fun (p : FabOut) =>
        if p.id = id then { p with dest := n, misses := p.misses + 1 } else p }.sendFor c.vf n o.req))

/-! ### Contexts -/

/-- R2, R256, R262 to R267, R270, R282: a start takes its context from a legal CCB, and a refused one names the lowest bad field;
terminate ends every group, team and grid of its context, with CST 3 and CGEN one higher, and tells the host when no write of it to
another module is unanswered; pre-emption saves teams with their registers, each once its matrix operations are complete, the VF's later
commands waiting meanwhile; restore reads the CCB again and lets them wait for the dispatcher; a VF reset leaves no context and blank
records; a host launch is accepted as a launch is, waits, or its STAT says why not.
The model's choices that it rests on: logs 42, 53, 80, 86, 88, 94, 109, 116. -/
def Obligations.ContextCommands : Prop :=
  (∀ (s : State) (vf : Nat) (cmd : BitVec 256), s.dev.ready = true → s.commandsWait vf = true →
    let i := if ccOp cmd = 0x10 then Instr.preempt vf cmd else if ccOp cmd = 0x11 then Instr.restore vf cmd
      else if ccOp cmd = 0x12 then Instr.terminate vf cmd else Instr.start vf cmd
    exec i s = .next { s with cmdq := s.cmdq ++ [(vf, cmd)] }) ∧
  (∀ (s : State) (vf : Nat) (cmd : BitVec 256), s.dev.ready = true → s.commandsWait vf = false → s.wordOk vf (ccCmpl cmd) = true →
    ccOp cmd = 0x13 →
    let a := ccCcba cmd
    let b := s.num .module none a 256
    let refused (n : Nat) : Prop := exec (.start vf cmd) s = .next (s.complete (ccCmpl cmd) (2 ^ 32 + 2 ^ 16 * (n + 1)))
    let low : Option Nat := if ccAbort cmd then some 8 else if ccOne cmd then some 9 else if cmd.extractLsb' 10 6 ≠ 0 then some 10
      else if cmd.extractLsb' 24 8 ≠ 0 then some 24 else none
    ((a % 256 ≠ 0 ∨ s.ownsFrame vf (a / 65536) = false) → refused (2048 + low.getD 64)) ∧
    (a % 256 = 0 → s.ownsFrame vf (a / 65536) = true →
      (∀ off, s.ccbBad vf cmd b = some off → refused off) ∧
      (∀ off, s.ccbBad vf cmd b = none → low = some off → refused (2048 + off)) ∧
      (s.ccbBad vf cmd b = none → low = none → cmd.extractLsb' 128 64 ≠ 0 → refused (2048 + 128)) ∧
      (s.ccbBad vf cmd b = none → low = none → cmd.extractLsb' 128 64 = 0 → ∃ (t : State) (c : Ctx), exec (.start vf cmd) s = .next (t.complete (ccCmpl cmd) 1) ∧
        t.ctx? (ccCtx cmd) = some c ∧ c.cst = 1 ∧ c.vf = vf ∧ c.ccb.toNat = a ∧ c.ptroot = BitVec.ofNat 64 b ∧
        c.tvec = BitVec.ofNat 64 (b / 2 ^ 128) ∧ c.trec = BitVec.ofNat 64 (b / 2 ^ 192) ∧ c.cgen = BitVec.ofNat 32 (b / 2 ^ 384) ∧
        c.privc = b.testBit 364 ∧ c.bwto = 2 ^ 24 ∧ c.seals = [] ∧ c.binds = [] ∧ c.keys = [] ∧
        (∀ n, n ≠ ccCtx cmd → t.ctx? n = s.ctx? n) ∧ t.groups = s.groups))) ∧
  (∀ (s : State) (vf : Nat) (cmd : BitVec 256) (c : Ctx), s.dev.ready = true → s.commandsWait vf = false →
    s.wordOk vf (ccCmpl cmd) = true → s.ctx? (ccCtx cmd) = some c → c.vf = vf → (c.cst = 1 ∨ c.cst = 2) → ccOk cmd = true →
    let cid := ccCtx cmd
    (ccOp cmd = 0x12 → ∃ t : State, exec (.terminate vf cmd) s = .next (t.complete (ccCmpl cmd) 1) ∧
      (let sent := (s.fabOut.filter fun o => o.writes && (s.groupsOf cid).contains o.gid).map (·.id)
       (sent = [] → HostMsg.terminated cid ∈ t.host) ∧ (sent ≠ [] → (cid, sent) ∈ t.ending)) ∧
      (∃ c', t.ctx? cid = some c' ∧ c'.cst = 3 ∧ c'.cgen = c.cgen + 1 ∧ c'.keys = [] ∧ c'.binds = [] ∧ c'.restores = [] ∧ ∀ q ∈ c'.fifos, q = []) ∧
      (∀ n gr, t.grid? n = some gr → gr.ctx ≠ cid) ∧
      ∀ n g, s.group? n = some g → s.ctxOf g = some cid → t.group? n = none) ∧
    (ccOp cmd = 0x10 → ccAbort cmd = false → s.runnersOf cid = [] →
      let j : SaveJob := { vf, cid, cmpl := some (ccCmpl cmd), teams := [], all := !ccOne cmd, back := false }
      let s1 := s.modCtx cid fun c => { c with stopped := (c.stopped ++ ccCores cmd).dedup }
      exec (.preempt vf cmd) s = .next (s1.beginSave j (ccCores cmd)) ∧
      (s.teamsOn cid (ccCores cmd) .placed = [] → exec (.preempt vf cmd) s = .next
        ((if ccOne cmd = false ∧ c.cst = 1 then s1.setCst cid 2 else s1).complete (ccCmpl cmd) 1))) ∧
    (ccOp cmd = 0x11 → ∃ t : State, exec (.restore vf cmd) s = .next (t.endRestore cid) ∧
      (∃ c' tids, t.ctx? cid = some c' ∧ c'.cst = 1 ∧ c'.restores = c.restores ++ [(ccCmpl cmd, tids)] ∧
        (∀ n, n ∈ c'.stopped ↔ n ∈ c.stopped ∧ n ∉ ccCores cmd) ∧
        (let b := s.num .module none c.ccb.toNat 256
         (s.ccbBad vf cmd b true = none → c'.tvec = BitVec.ofNat 64 (b / 2 ^ 128) ∧ c'.ptroot = BitVec.ofNat 64 b ∧ c'.privc = b.testBit 364) ∧
         (s.ccbBad vf cmd b true ≠ none → c'.tvec = c.tvec ∧ c'.ptroot = c.ptroot ∧ c'.privc = c.privc)) ∧
        ∀ tid x gr, s.team? tid = some x → s.grid? x.grid = some gr → gr.ctx = cid → x.core ∈ ccCores cmd → x.placing = .saved →
          x.retired = false → tid ∈ tids) ∧ t.groups = s.groups ∧
      ∀ tid x gr, s.team? tid = some x → s.grid? x.grid = some gr → gr.ctx = cid → x.core ∈ ccCores cmd → x.placing = .saved →
        x.retired = false → ∃ y, t.team? tid = some y ∧ y.placing = .restoring ∧ y.groups = x.groups)) ∧
  (∀ (s : State) (j : SaveJob) (tid : Nat) (t : Team) (gr : Grid) (c : Ctx), (s.settleTeam tid).team? tid = some t →
    (s.settleTeam tid).ctx? j.cid = some c → (s.settleTeam tid).grid? t.grid = some gr → t.retired = false → t.groups.Nodup →
    ((s.settleTeam tid).matrixLeft t = true → s.saveOne j tid = (true, s.settleTeam tid)) ∧
    ((s.settleTeam tid).matrixLeft t = false → ∃ u, s.saveOne j tid = (false, u) ∧
      (∃ x, u.team? tid = some x ∧ x.placing = (if j.back && decide (c.cst = 1) then .restoring else .saved) ∧ x.groups = t.groups) ∧
      ∀ n ∈ t.groups, ∀ g, (s.settleTeam tid).group? n = some g → g.onCore = true → ∃ h, u.group? n = some h ∧ h.life = .saved ∧
        h.retires = decide (g.life = .retiring) ∧ h.regs = g.regs ∧ h.stopping = false)) ∧
  (∀ (s : State) (cid gid : Nat) (g : Group), s.group? gid = some g → (s.saveGroup cid gid).group? gid = some { g with
    life := .saved, retires := decide (g.life = .retiring)
    slot0 := g.slot0.withdrawn (s.asksKey gid false), slot1 := g.slot1.withdrawn (s.asksKey gid true) }) ∧
  (∀ (s : State) (vf : Nat), s.dev.ready = true → ∃ t, exec (.vfReset vf) s = .next t ∧
    (∀ cid c, t.ctx? cid = some c → c.vf ≠ vf) ∧ (t.vf vf).hused = 0 ∧ (t.vf vf).launches = [] ∧
    (t.vf vf).streams = List.replicate 8 {} ∧ (∀ j ∈ t.audits, j.vf ≠ vf) ∧
    (∀ n, (t.core n).score = (s.core n).score) ∧
    ∀ i, i < (s.vf vf).recCount → t.req ((s.vf vf).recFirst + i) =
      { bits := BitVec.ofNat 2048 (vf % 2 ^ 32 * 2 ^ 960 + 5 * 2 ^ 48 + ((s.vf vf).recFirst + i) % 2 ^ 16 * 2 ^ 32) }) ∧
  ∀ (s : State) (vf : Nat) (cmd : BitVec 256), s.dev.ready = true →
    (s.wordOk vf (hlStat cmd) = false → exec (.hlaunch vf cmd) s = .next (s.discard vf)) ∧
    (s.wordOk vf (hlStat cmd) = true → (s.vf vf).launches = [] →
      let s' := s.setVf vf { s.vf vf with launches := [{ cmd }] }
      let over_ (t : State) : State := t.setVf vf { t.vf vf with launches := [] }
      (s.hlContext vf cmd = none → exec (.hlaunch vf cmd) s = .next (over_ (s'.modWriteNum (hlStat cmd).toNat 8 (2 ^ 63 + 5)))) ∧
      ∀ c, s.hlContext vf cmd = some c →
        (∀ s1, s'.readLaunch (hlCtx cmd) c (hlRec cmd).toNat = (.unreadable, s1) →
          exec (.hlaunch vf cmd) s = .next (over_ (s1.modWriteNum (hlStat cmd).toNat 8 (2 ^ 63 + 6)))) ∧
        (∀ s1, s'.readLaunch (hlCtx cmd) c (hlRec cmd).toNat = (.badRecord, s1) →
          exec (.hlaunch vf cmd) s = .next (over_ (s1.modWriteNum (hlStat cmd).toNat 8 (2 ^ 63 + 1)))) ∧
        (∀ s1, s'.readLaunch (hlCtx cmd) c (hlRec cmd).toNat = (.wait, s1) → exec (.hlaunch vf cmd) s = .next s1) ∧
        (∀ w s1, s'.readLaunch (hlCtx cmd) c (hlRec cmd).toNat = (.park w, s1) → exec (.hlaunch vf cmd) s = .next
          (s1.setVf vf { s1.vf vf with launches := [{ cmd, parked := some w }] })) ∧
        ∀ r h status n t s1, s'.readLaunch (hlCtx cmd) c (hlRec cmd).toNat = (.both r h, s1) →
          s1.launch c { ctx := hlCtx cmd, lrec := hlRec cmd, depth := 1, nest := none, parent := none, stat := some (hlStat cmd) } r h =
            (status, n, t) →
          (status = 0 → exec (.hlaunch vf cmd) s = .next (over_ t)) ∧
          (status ≠ 0 → exec (.hlaunch vf cmd) s = .next (over_ (t.modWriteNum (hlStat cmd).toNat 8 (2 ^ 63 + status)))))

/-! ### Requests and steps -/

/-- R42, R48, R51 to R53, R57, R58: a submission of a retired record of the VF to a configured stream makes it pending, any other is
counted; a host's bytes reach a submitted record's H fields only; a step that some request would take part in starts, where it was not
discarded (R268) and the budgets admit it (R66), with the snapshot, evictions, admission and its slot table, kept until it is written,
whose entries give TOFF as the sum of NTOK of the lower slots; while a shortfall of pages remains nothing is admitted; each grid of the
program is launched with its TEAMS product and the requests' keys, waits, or the step fails with its reason; Crozier commits where no
STEPCMT ran, and after a failure clears EN.
The model's choices that it rests on: logs 53, 89, 90, 115, 117, 118, 119. -/
def Obligations.RequestsAndSteps : Prop :=
  (∀ (s : State) (vf : Nat) (value : BitVec 64), s.dev.ready = true →
    let rid := value.toNat % 65536
    let k := value.toNat / 65536 % 8
    let r := s.req rid
    let ok : Prop := value.toNat < 2 ^ 19 ∧ (s.vf vf).hasRecord rid = true ∧ recState r.n = 5 ∧ sdConfigured (s.stream vf k).desc = true
    (ok → ∃ t, exec (.submission vf value) s = .next t ∧ t.mem = s.mem ∧
      recState (t.req rid).n = 0 ∧ bits (t.req rid).n 53 51 = 0 ∧
      (t.req rid).stream = some (vf, k, sdCtx (s.stream vf k).desc) ∧ (t.req rid).order = (s.vf vf).subs ∧
      (∀ i, (i < 48 ∨ 54 ≤ i) → (t.req rid).bits.getLsbD i = r.bits.getLsbD i) ∧ ∀ q, q ≠ rid → t.req q = s.req q) ∧
    (¬ok → exec (.submission vf value) s = .next (s.discard vf))) ∧
  (∀ (s : State) (src rid off : Nat) (bs : List Byte), s.dev.ready = true →
    let r := s.req rid
    ((s.vf src).hasRecord rid = false → exec (.recordWindowWrite src rid off bs) s = .next s) ∧
    ((s.vf src).hasRecord rid = true → ∃ t, exec (.recordWindowWrite src rid off bs) s = .next t ∧
      (∀ i, i < 256 → (t.req rid).bits.extractLsb' (8 * i) 8 =
        if off ≤ i ∧ i < off + bs.length ∧ hostMay (recState r.n = 5) i = true then bs.getD (i - off) 0 else r.bits.extractLsb' (8 * i) 8) ∧
      (t.req rid).stream = r.stream ∧ (∀ q, q ≠ rid → t.req q = s.req q) ∧
      (recState r.n = 5 → (t.vf src).discw = (s.vf src).discw) ∧
      (recState r.n ≠ 5 → (∃ i, off ≤ i ∧ i < off + bs.length ∧ i < 256 ∧ ownerOf i ≠ .host) →
        (t.vf src).discw = (s.vf src).discw + 1))) ∧
  (∀ (s : State) (vf k cid : Nat) (c : Ctx), s.streamCtx vf k = some (cid, c) →
    (let x := s.stream vf k
     let kt := sdKtpp x.desc
     let s0 := s.heldAgain
     let s1 := (s0.streamReqs vf k).foldl (fun s rid => s.snapshotReq rid) s0
     let wanted : Prop := (∃ rid ∈ s0.streamReqs vf k, (s0.req rid).takesPart = true) ∨
       (s1.admitAll vf k c false (s1.pendingOrder vf k)).1 = true
     x.phase = .idle → sdEn x.desc = true → x.aborted = false → s.dev.ready = true → s.blockReady vf = true →
       (¬wanted → exec (.stepStart vf k) s = .next s0) ∧
       (wanted →
       let e1 := s1.evictBeyond vf k
       let e2 := e1.2.evictAll vf k kt e1.1 (e1.2.reqs.length + 1)
       let t := e2.2.2
       let order := if e2.2.1 = true then [] else (t.pendingOrder vf k).filter fun rid => !e2.1.contains rid
       let a := t.admitAll vf k c false order
       let s5 := ((a.2.streamReqs vf k).filter fun rid => (a.2.req rid).takesPart &&
         (a.2.req rid).shadow.isSome).foldl (fun s rid => s.joinStep rid) a.2
       exec (.stepStart vf k) s = .next ((s5.modStream vf k fun x =>
         { x with phase := .writing, entries := (s5.slotTable vf k).1, table := (s5.slotTable vf k).2 }).writeTable vf k cid c))) ∧
    ((s.stream vf k).phase = .idle → ((s.stream vf k).aborted = true ∨ s.blockReady vf = false) →
      exec (.stepStart vf k) s = .next s) ∧
    ((s.stream vf k).phase = .writing → exec (.stepStart vf k) s = .next (s.writeTable vf k cid c)) ∧
    (∀ next r h s1, (s.stream vf k).phase = .launching next → (s.stream vf k).unreadable = false → (s.stream vf k).parked = none →
      s.readLaunch cid c (sdProg (s.stream vf k).desc + 128 * next) = (.both r h, s1) →
      let x := s.stream vf k
      let m := x.entries.length
      (kernelOk c (lrArgs r) h = false → exec (.stepGridLaunch vf k) s = .next (s1.failStep vf k next 2)) ∧
      (kernelOk c (lrArgs r) h = true → 2 ^ 24 < m * lrTeams r → exec (.stepGridLaunch vf k) s = .next (s1.failStep vf k next 3)) ∧
      ∀ status n t, kernelOk c (lrArgs r) h = true → m * lrTeams r ≤ 2 ^ 24 →
        s1.launch c { ctx := cid, lrec := BitVec.ofNat 64 (sdProg x.desc + 128 * next), depth := 1, nest := none, parent := none
                      step := some (vf, k, lrTeams r), prio := some (sdPrio x.desc), teams := some (m * lrTeams r)
                      slots := x.entries.map (·.1), table := x.entries, stepNo := x.stepNo
                      keys := (s1.stepReqs vf k).map fun rid => (rid, recKey (s1.req rid).h)
                      commit := next + 1 = sdNprog x.desc } r h = (status, n, t) →
        (status = 0 → exec (.stepGridLaunch vf k) s = .next (t.modStream vf k fun x =>
          { x with phase := .running (next + 1) n, parked := none })) ∧
        (status = 3 → exec (.stepGridLaunch vf k) s = .next s1) ∧
        (status ≠ 0 → status ≠ 3 → exec (.stepGridLaunch vf k) s = .next (t.failStep vf k next status))) ∧
    (∀ next s1, (s.stream vf k).phase = .launching next → (s.stream vf k).unreadable = false → (s.stream vf k).parked = none →
      let read := s.readLaunch cid c (sdProg (s.stream vf k).desc + 128 * next)
      (read = (.badRecord, s1) → exec (.stepGridLaunch vf k) s = .next (s1.failStep vf k next 1)) ∧
      (read = (.unreadable, s1) → exec (.stepGridLaunch vf k) s = .next (s1.failStep vf k next 5)) ∧
      (read = (.wait, s1) → exec (.stepGridLaunch vf k) s = .next s1) ∧
      ∀ w, read = (.park w, s1) → exec (.stepGridLaunch vf k) s = .next (s1.modStream vf k fun x => { x with parked := some w }))) ∧
  (∀ (s : State) (rids : List Nat) (toff count : Nat), let (m, l, tokens) := s.slotEntries rids toff 0 count
    let ntok (i : Nat) : Nat := match s.slotOwner rids i with
      | some (rid, _) => (s.req rid).ntok
      | none => 0
    let below (i : Nat) : Nat := toff + ((List.range i).map ntok).sum
    tokens = below count ∧ l.length = count ∧ ∀ i, i < count →
      (∀ rid part, s.slotOwner rids i = some (rid, part) → Map.get? m i = some (BitVec.ofNat 128 (slotEntryBits (below i) (s.req rid) rid part)) ∧
        l[i]? = some (slotEntryBits (below i) (s.req rid) rid part)) ∧
      (s.slotOwner rids i = none → Map.get? m i = none ∧ l[i]? = some (below i * 2 ^ 96))) ∧
  (∀ (s : State) (vf k ktpp fuel : Nat) (out : List Nat), (s.victim vf = none →
     s.evictAll vf k ktpp out (fuel + 1) = (out, decide ((s.vf vf).pagesLeft < s.demand vf k ktpp out), s)) ∧
     (s.demand vf k ktpp out ≤ (s.vf vf).pagesLeft → s.evictAll vf k ktpp out (fuel + 1) = (out, false, s)) ∧
     ∀ rid, s.victim vf = some rid → (s.vf vf).pagesLeft < s.demand vf k ktpp out →
       s.evictAll vf k ktpp out (fuel + 1) = (s.evict rid).evictAll vf k ktpp (out ++ [rid]) fuel) ∧
  ∀ (s : State) (vf k : Nat), (∀ rid ∈ s.stepReqs vf k, s.resampling rid = false) → (s.stepReqs vf k = [] ∨ s.blockReady vf = true) →
    ((s.stream vf k).phase = .committing → exec (.crozierCommit vf k) s = .next (s.commitStep vf k).2) ∧
    ((s.stream vf k).phase = .killed → exec (.crozierCommit vf k) s = .next s) ∧
    (∀ next gid c, (s.stream vf k).phase = .running next gid → s.grid? gid = none → sdNprog (s.stream vf k).desc ≤ next →
      s.ctx? (sdCtx (s.stream vf k).desc) = some c → c.cst = 1 → exec (.crozierCommit vf k) s = .next (s.commitStep vf k).2) ∧
    ∀ idx reason, (s.stream vf k).phase = .failed idx reason → exec (.crozierCommit vf k) s = .next
      (((((s.stepReqs vf k).foldl (fun s rid => s.setFault rid 0x08 (idx + reason * 256)) s).commitStep vf k).2.modStream vf k fun x =>
        { x with desc := BitVec.ofNat 512 (setBits x.desc.toNat 96 1 0) }).tell (.stepFailed vf k idx reason))

/-- R44, R47, R49, R50, R55, R57: what becomes of one request. At a commit it is retired with CAUSE 4 where it is faulted or TLEN is
short, held where AGATE awaits audits, else CLEN and TLEN take the lesser of TLEN and MAXLEN, STEPC counts, and HSTOP, a stop token or
MAXLEN retires it. At a snapshot an even GEN renews the shadow, and HSUSP suspends. An admission gives slots; an eviction takes
them and TLEN; a bad record is retired at once.
The model's choices that it rests on: logs 89, 91. -/
def Obligations.RequestTransitions : Prop :=
  (∀ (s : State) (vf rid stepNo : Nat) (t : Tally),
    let r := s.req rid
    let short : Prop := recFault r.n ≠ 0 ∨ recTlen r.n < recClen r.n
    let clen := min (recTlen r.n) (recMaxlen r.h)
    let stop : Option Nat := (List.range 4).find? fun i => recStop r.h i = recNtokv r.n && recStop r.h i ≠ 0xFFFFFFFF
    let audited : Prop := recAgate r.h = true ∧ ∃ j ∈ s.audits, j.vf = vf ∧ j.rid = rid ∧ j.stepNo = stepNo
    let u := s.settleReq vf rid stepNo t
    let q := u.2.req rid
    let gone (cause : Nat) : Prop := recState q.n = 5 ∧ bits q.n 53 51 = cause ∧ recSlot q.n = 0xFFFF ∧ q.inStep = false ∧ q.held = false ∧
      ∀ cid, r.ctx = some cid → u.2.signals =
        s.signals ++ [{ ctx := cid, addr := BitVec.ofNat 64 (recEvc r.h), src := rid, grid := false }]
    (short → u.1 = { t with retired := t.retired + 1 } ∧ gone 4 ∧ recClen q.n = recClen r.n ∧
      recFault q.n = if recFault r.n = 0 then 4 + 96 * 256 else recFault r.n) ∧
    (¬short → audited → u.1 = { t with held := t.held + 1 } ∧ u.2 = s.setReq rid { r with inStep := false, held := true, heldBy := stepNo }) ∧
    (¬short → ¬audited →
      recClen q.n = clen ∧ recTlen q.n = clen ∧ recStepc q.n = (recStepc r.n + 1) % 2 ^ 32 ∧ u.1.committed = t.committed + 1 ∧
      (recHstop r.h = true → gone 3) ∧
      (recHstop r.h = false → ∀ i, stop = some i → gone 1 ∧ bits q.n 55 54 = i) ∧
      (recHstop r.h = false → stop = none → clen = recMaxlen r.h → gone 2) ∧
      (recHstop r.h = false → stop = none → clen ≠ recMaxlen r.h → u.1.retired = t.retired ∧ u.2 = s.setReq rid q ∧
        recState q.n = recState r.n ∧ recSlot q.n = recSlot r.n ∧ q.inStep = false))) ∧
  (∀ (s : State) (rid : Nat), let r := s.req rid
    let q := (s.snapshotReq rid).req rid
    (recGen r.n % 2 = 1 → r.shadow = none → s.snapshotReq rid = s) ∧
    (recGen r.n % 2 = 0 → q.shadow = some r.bits ∧
      (recHsusp r.n = true → recState r.n < 4 → r.held = false → recState q.n = 4 ∧ recSlot q.n = 0xFFFF) ∧
      (recHsusp r.n = false → recState r.n = 4 → recState q.n = 0) ∧
      (recHsusp r.n = false → recState r.n ≠ 4 → q.bits = r.bits)) ∧
    (recGen r.n % 2 = 1 → q.shadow = r.shadow)) ∧
  (∀ (s : State) (c : Ctx) (rid slot : Nat), let r := s.req rid
    let q := (s.enter c rid slot).req rid
    recState q.n = 1 ∧ recAdmit q.n = s.cycle % 2 ^ 64 ∧ recNlive q.n = recNpart r.h ∧ recTlen q.n = recClen r.n ∧
    recClen q.n = recClen r.n ∧ recSlot q.n = slot % 2 ^ 16 ∧ q.admitted = true ∧ q.slotN = recNpart r.h ∧
    ∀ p, p ≠ rid → (s.enter c rid slot).req p = s.req p) ∧
  (∀ (s : State) (rid : Nat), let r := s.req rid
    let q := (s.evict rid).req rid
    recState q.n = 0 ∧ recSlot q.n = 0xFFFF ∧ recTlen q.n = recClen r.n ∧ recClen q.n = recClen r.n ∧ recFault q.n = recFault r.n ∧
    q.inStep = false) ∧
  (∀ (s : State) (vf rid : Nat), s.victim vf = some rid →
    let may (q : Nat) : Prop := q ∈ s.vfReqs vf ∧ recState (s.req q).n = 1 ∧ (s.req q).held = false ∧ recFault (s.req q).n = 0
    may rid ∧ ∀ q, may q → recEvr (s.req rid).h < recEvr (s.req q).h ∨
      (recEvr (s.req rid).h = recEvr (s.req q).h ∧ recAdmit (s.req rid).n ≤ recAdmit (s.req q).n)) ∧
  ∀ (s : State) (rid off : Nat), let r := s.req rid
    let t := s.rejectRecord rid off
    recState (t.req rid).n = 5 ∧ bits (t.req rid).n 53 51 = 4 ∧ recSlot (t.req rid).n = 0xFFFF ∧
    recFault (t.req rid).n = (4 + off * 256) % 2 ^ 32 ∧ recKvmap (t.req rid).n = recKvmap r.n ∧ t.mem = s.mem ∧
    (recEvc r.h % 8 = 0 → recEvc r.h < 2 ^ 56 → ∀ cid, r.ctx = some cid → t.signals =
      s.signals ++ [{ ctx := cid, addr := BitVec.ofNat 64 (recEvc r.h), src := rid, grid := false }]) ∧
    ((recEvc r.h % 8 ≠ 0 ∨ 2 ^ 56 ≤ recEvc r.h) → t.signals = s.signals ∧ HostMsg.evcDropped rid ∈ t.host)

/-! ### The Sporangium -/

/-- R230 to R232: the offspring counts of N particles sum to N for every draw word, one each where every weight is zero; each slot
then continues one particle, a particle with o offspring is continued in o slots, and one with offspring keeps its own slot. -/
def Obligations.OffspringSumToPopulation : Prop :=
  (∀ (u : Nat) (ls : List Int), u < 2 ^ 32 → (offspring u ls).length = ls.length ∧ (offspring u ls).sum = ls.length) ∧
  (∀ (u : Nat) (ls : List Int), (∀ l ∈ ls, l = -(2 ^ 63)) → offspring u ls = List.replicate ls.length 1) ∧
  ∀ (os : List Nat), os.sum = os.length →
    let ps := parentsOf os (cloneParents os 0) 0
    ps.length = os.length ∧ (∀ i, i < os.length → ps.count i = os.getD i 0) ∧
    ∀ i, i < os.length → os.getD i 0 ≠ 0 → ps[i]? = some i

/-- R225, R232 to R234, R236: a running resample ends with its pages remapped, PARENT written, SUM, NINF, ARR and NARR zero, ROUNDS one
higher and RST idle, EVC counted and those that wait for it woken; a block that is not mapped faults the request. A round that still
collects when its timer ends starts, LATE set, RSTEP the step that runs; else its timer only stops. R65, R66: both wait where the VF has
no budget of walks or of HBM, and are charged to it.
The model's choices that it rests on: logs 53, 101. -/
def Obligations.ResamplesComplete : Prop :=
  (∀ (s : State) (rid : Nat), s.blockReady (s.req rid).vf = false → exec (.sporangiumComplete rid) s = .next s) ∧
  (∀ (s s0 : State) (rid cid hp : Nat) (c : Ctx) (es : List (Nat × Nat)), (s.req rid).running = true → (s.req rid).ctx = some cid →
    s.ctx? cid = some c → s.blockReady (s.req rid).vf = true → s.popHeader (s.req rid) = some hp →
    s.popEntries rid 0 (recNpart (s.req rid).h) = (some es, s0) →
    let r := s.req rid
    let ktpp := (r.stream.map fun v => sdKtpp (s.stream v.1 v.2.1).desc).getD 1
    let ls := es.map fun p => if r.late && entArr p.2 < recApp r.h then -(2 ^ 63) else weightRead (entSum p.2) (entNinf p.2)
    let ps := parentsOf (offspring (recDraw r.h) ls) (cloneParents (offspring (recDraw r.h) ls) 0) 0
    let s1 := s0.remap rid cid c r.h (min (recKvpg r.h) (ceilDiv r.startLen ktpp)) ps
    let s2 := (List.zip es ps).foldl (fun s p => s.blockWrite r.vf p.1.1 32 (setBits (setBits p.1.2 0 137 0) 192 16 p.2)) s1
    let h := (s2.blockNum r.vf hp 64).1
    ∃ (h' : Nat) (u : State), exec (.sporangiumComplete rid) s = .next (u.wakeAll fun w => w = .resample) ∧
      u.mem = ((s2.blockNum r.vf hp 64).2.blockWrite r.vf hp 64 h').mem ∧
      hdrRst h' = 0 ∧ hdrNarr h' = 0 ∧ hdrRounds h' = (hdrRounds h + 1) % 2 ^ 32 ∧ hdrRstep h' = hdrRstep h ∧
      bit h' 3 = ls.all isMinusInf ∧ bit h' 2 = r.late ∧
      (u.req rid).running = false ∧ (u.req rid).late = false ∧ (u.req rid).timer = none ∧ (u.req rid).bits = (s2.req rid).bits ∧
      u.signals = s2.signals ++ [{ ctx := cid, addr := BitVec.ofNat 64 (recEvc r.h), src := rid, grid := false }]) ∧
  (∀ (s : State) (rid cid : Nat) (c : Ctx), (s.req rid).running = true → (s.req rid).ctx = some cid → s.ctx? cid = some c →
    s.blockReady (s.req rid).vf = true → s.popHeader (s.req rid) = none → ∃ u : State, exec (.sporangiumComplete rid) s = .next (u.wakeAll fun w => w = .resample) ∧
      u.mem = s.mem ∧ u.signals = s.signals ∧ (u.req rid).running = false ∧
      recFault (u.req rid).n = if recFault (s.req rid).n = 0 then 4 + 192 * 256 else recFault (s.req rid).n) ∧
  (∀ (s s0 : State) (rid cid hp : Nat) (c : Ctx), (s.req rid).running = true → (s.req rid).ctx = some cid → s.ctx? cid = some c →
    s.blockReady (s.req rid).vf = true → s.popHeader (s.req rid) = some hp → s.popEntries rid 0 (recNpart (s.req rid).h) = (none, s0) →
    ∃ u : State, exec (.sporangiumComplete rid) s = .next (u.wakeAll fun w => w = .resample) ∧ (u.req rid).running = false ∧
      u.signals = s.signals ∧ recFault (u.req rid).n = if recFault (s.req rid).n = 0 then 4 + 192 * 256 else recFault (s.req rid).n) ∧
  ∀ (s : State) (rid t vf k cid hp : Nat), (s.req rid).timer = some t → (s.req rid).stream = some (vf, k, cid) →
    s.popHeader (s.req rid) = some hp →
    let r := s.req rid
    let h := (s.blockNum r.vf hp 64).1
    let s1 := (s.blockNum r.vf hp 64).2
    (s.cycle < t + recDeadl r.h ∨ s.blockReady r.vf = false → exec (.deadlineExpiry rid) s = .next s) ∧
    (t + recDeadl r.h ≤ s.cycle → s.blockReady r.vf = true → hdrRst h ≠ 1 → exec (.deadlineExpiry rid) s = .next
      (s1.setReq rid { r with timer := none })) ∧
    (t + recDeadl r.h ≤ s.cycle → s.blockReady r.vf = true → hdrRst h = 1 → ∃ h', exec (.deadlineExpiry rid) s = .next
        ((s1.blockWrite r.vf hp 64 h').setReq rid { r with timer := none, late := true, running := true, startLen := recTlen r.n }) ∧
      hdrRst h' = 2 ∧ bit h' 2 = true ∧ hdrRstep h' = (s.stream vf k).stepNo % 2 ^ 64 ∧ hdrNarr h' = hdrNarr h)

/-! ### Reliability -/

/-- R244, R247 to R249, R252, R254: a queued audit is executed on a core of another cluster from its retained registers; equal
signatures pass, else the third one decides, its points go to the cores named, the host hears of it, and a wrong output
faults a request that has not committed it, one that AGATE holds too; points, decay and diagnosis move the score, 32 starts a diagnosis
and 64 quarantines. That a fault of the core that re-executes changes the signature by a given word is log 58 (DESIGN CHOICE), and that
lane 32 counts only where the spare is switched in is log 98 (DEDUCED).
The model's choices that it rests on: logs 58, 59, 95, 96, 98. -/
def Obligations.AuditsAndScores : Prop :=
  (∀ (s : State) (i core : Nat) (corrupt : BitVec 64) (j : AuditJob) (c : Ctx), s.audits[i]? = some j → s.ctx? j.ctx = some c → c.cst = 1 →
    j.runner = none → j.sigR = none → core < 256 → clusterOf core ≠ clusterOf j.core → (s.core core).quarantined = false →
    s.devAdmits 0 = true → (s.core core).fits [(j.gno, j.grid.k.fullSlots)] 0 = true →
    ∃ t g, exec (.auditReexecution i core corrupt) s = .next t ∧ t.audits = s.audits.set i { j with runner := some (s.nextId + 2), reCore := core } ∧
      t.mem = s.mem ∧ t.group? (s.nextId + 2) = some g ∧ g.audit = .replay j.gid j.log [] ∧ g.regs = j.regs ∧ g.no = j.gno ∧
      g.slot0 = startSlot j.grid.k ∧ g.sig = BitVec.allOnes 64 ^^^ corrupt) ∧
  (∀ (s : State) (i : Nat) (j : AuditJob) (r : BitVec 64), s.audits[i]? = some j → j.sigR = some r →
    let s1 := { s with audits := s.audits.eraseIdx i }
    (j.sigT = none → r = j.sigO → exec (.auditVerdict i) s = .next s1.heldAgain) ∧
    ∀ t, j.sigT = some t → ∃ (v : Nat) (s2 : State), exec (.auditVerdict i) s = .next (s2.heldAgain) ∧
      s2.audits = s1.audits ∧ HostMsg.audit (auditEvent j r t v) ∈ s2.host ∧
      (v = 1 ↔ r = t) ∧ (v = 2 ↔ r ≠ t ∧ j.sigO = t) ∧ (v = 3 ↔ r ≠ t ∧ j.sigO ≠ t) ∧
      (v = 1 → (s2.core j.core).score = min 255 ((s.core j.core).score + 16)) ∧
      (v = 2 → (s2.core j.reCore).score = min 255 ((s.core j.reCore).score + 16) ∧ s2.reqs = s.reqs) ∧
      (v = 3 → j.core ≠ j.reCore → j.core ≠ j.thCore → j.reCore ≠ j.thCore → ∀ n ∈ [j.core, j.reCore, j.thCore],
        (s2.core n).score = min 255 ((s.core n).score + 8)) ∧
      ∀ vf k m, j.grid.step = some (vf, k, m) → v ≠ 2 →
        ((s.req j.rid).inStep = true ∧ (s.stream vf k).stepNo = j.stepNo ∨ (s.req j.rid).held = true ∧ (s.req j.rid).heldBy = j.stepNo) →
        recFault (s.req j.rid).n = 0 → j.core < 256 → recFault (s2.req j.rid).n = 7 + j.core * 256) ∧
  (∀ (s : State) (core n : Nat), let t := s.setScore core n
    (t.core core).score = min 255 n ∧ (t.core core).parts = (s.core core).parts ∧
    ((t.core core).diag = true ↔ (s.core core).diag = true ∨ ((s.core core).score < 32 ∧ 32 ≤ n)) ∧
    ((t.core core).quarantined = true ↔ (s.core core).quarantined = true ∨ ((s.core core).score < 64 ∧ 64 ≤ n)) ∧
    ((s.core core).quarantined = false → (t.core core).quarantined = true → HostMsg.quarantined core ∈ t.host)) ∧
  (∀ (s : State) (core part l : Nat), (s.part core part).replay ≠ [] → part < (s.core core).parts.length →
    (s.laneUsed core part l = false → exec (.replayCheck core part true l) s = .next s) ∧
    (s.laneUsed core part 32 = true ↔ (s.part core part).spare ≠ none) ∧
    (l < 32 → (s.part core part).spare ≠ some l → s.laneUsed core part l = true) ∧ (32 < l → s.laneUsed core part l = false) ∧
    (s.laneUsed core part l = true →
    ∃ t, exec (.replayCheck core part true l) s = .next t ∧ (t.core core).score = min 255 ((s.core core).score + 4) ∧
      Map.get? (t.part core part).errs l = some ((Map.get? (s.part core part).errs l).getD 0 + 1) ∧ t.groups = s.groups ∧
      t.mem = s.mem)) ∧
  (∀ (s : State) (core : Nat),
    (0 < (s.core core).score → (s.core core).decayed + 2 ^ 20 ≤ s.cycle → exec (.scoreDecay core) s = .next (s.setCore core
      { s.core core with score := (s.core core).score - 1, decayed := (s.core core).decayed + 2 ^ 20 })) ∧
    exec (.coreReturnToService core) s = .next (s.setCore core { s.core core with quarantined := false })) ∧
  ∀ (s : State) (core : Nat) (failing : List (List Nat)), (s.core core).diag = true → s.devAdmits 3 = true → (s.core core).parts.length = 4 →
    let bad (i : Nat) : List Nat := (failing.getD i []).filter (· < 33)
    ∃ t, exec (.laneDiagnosisEnd core failing) s = .next t ∧ (t.core core).diag = false ∧ t.mem = s.mem ∧
      ((∀ i, i < 4 → bad i = []) → (t.core core).score = (s.core core).score ∧ t.groups = s.groups) ∧
      ((∃ i, i < 4 ∧ bad i ≠ []) → (∀ i, i < 4 → (bad i).length ≤ 1 ∧ (bad i ≠ [] → (s.part core i).spare = none)) →
        (t.core core).score = 16 ∧ ∀ i l, i < 4 → bad i = [l] → (t.part core i).spare = some l) ∧
      ((∃ i, i < 4 ∧ bad i ≠ [] ∧ (s.part core i).spare ≠ none) → (t.core core).score = 64 ∧
        ∀ i, i < 4 → (s.part core i).spare ≠ none → (t.part core i).spare = (s.part core i).spare)

/-- R45, R204, R253 to R255, R262, R273: an uncorrectable error halts a group outside a step grid, with a host event, and ends one inside
it, its request faulted with the core; a group at its drain point goes over to the spare; a barrier whose period is over
terminates its context, the record naming its first group and the diagnostic.
The model's choices that it rests on: log 63. -/
def Obligations.ErrorsAndWatchdog : Prop :=
  (∀ (s : State) (gid : Nat) (a : Actor), s.actor gid = some a → a.g.life = .resident → a.g.replays = false →
    (a.gr.step = none → exec (.uncorrectableError gid) s = .next
      (((s.endGroup gid .halted none).tell (.halted a.gr.ctx a.gr.id a.t.no a.g.no a.t.core)).sweep)) ∧
    (a.gr.step.isSome = true → exec (.uncorrectableError gid) s = .next ((s.endGroup gid .ended (some (2, a.t.core))).sweep))) ∧
  (∀ (s : State) (gid : Nat) (g : Group) (life : Life), s.group? gid = some g →
    ∃ h, (s.stopGroup gid life).group? gid = some h ∧ h.life = life ∧ h.regs = g.regs ∧ h.slot0.live = false ∧ h.slot1.live = false ∧
      h.loads = [] ∧ h.mat = [] ∧ ∀ p ∈ (s.stopGroup gid life).pend, p.gid = gid → p.held = false ∧ p.level ≠ .group) ∧
  (∀ (s : State) (gid : Nat) (g : Group), s.group? gid = some g → g.drained = false →
    let loading : Prop := g.loads ≠ [] ∨ g.mat ≠ [] ∨ ∃ b, (g.slot b).dest ≠ [] ∨ (g.slot b).sent = true
    (loading → ∀ bad, exec (.laneSpareSwitch gid bad) s = .next s) ∧
    (¬loading → exec (.laneSpareSwitch gid false) s = .next (s.setGroup gid { g with drained := true }))) ∧
  ∀ (s : State) (tid n : Nat) (t : Team) (b : Barrier) (gr : Grid), s.team? tid = some t → Map.get? t.bars n = some b →
    s.grid? t.grid = some gr → b.arrived ≠ [] →
    (s.cycle < b.t0 + b.period → exec (.barrierWatchdogExpiry tid n) s = .next s) ∧
    (b.t0 + b.period ≤ s.cycle → exec (.barrierWatchdogExpiry tid n) s = .next (s.terminateCtx gr.ctx
      { cause := 4, code := 9, core := t.core, grid := gr.id, team := t.no, group := b.arrived.foldl min 15
        extra := s.barDiagnostic t gr n b, cyc := some (b.t0 + b.period) })) ∧
    (s.barDiagnostic t gr n b).length = 64 + 16 * t.groups.length

/-! ### The module's registers -/

/-- R41, R65, R66, R269, R275, R276, R279, R281, R283 to R289: a period renews budgets, less an overdraft, and wakes deferred
groups; power steps one at a time; a reset verifies its firmware, and only then is the module ready; each filled region frees its
frames; a grant is taken within its granules and what the others leave, else VFSTAT names it; a stream's descriptor, a port's
generation and the registers of a VF are written as their rules say, by their own driver or the privileged one; traffic of a port that is
not up waits, both ways, and goes on in its order when it is (logs 99, 107); an attestation writes its report or counts its error.
The model's choices that it rests on: logs 9, 40, 92, 93, 97, 99, 106, 107. -/
def Obligations.DeviceRegisters : Prop :=
  (∀ (s : State), s.dev.period + 10500 ≤ s.cycle → ∃ t : State, exec .budgetPeriodStart s = .next (t.wakeAll fun w => match w with
      | .budget _ => true
      | _ => false) ∧
    t.dev.period = s.dev.period + 10500 ∧ t.groups = s.groups ∧ t.mem = s.mem ∧
    ∀ vf v, Map.get? s.vfs vf = some v → ∃ w, Map.get? t.vfs vf = some w ∧ w.budget = v.budget ∧
      w.ceng = v.next.1 ∧ w.ways = v.next.2.1 ∧ w.fshr = v.next.2.2 ∧ ∀ (i : Nat) (b : BitVec 64) (x : Option Int), v.budget[i]? = some b →
      v.left[i]? = some x → w.left[i]? = some (if b = BitVec.allOnes 64 then none else some ((b.toNat : Int) + min 0 (x.getD 0)))) ∧
  (∀ (s : State) (avg : Nat),
    (3600000 < avg → s.dev.power < 4 → s.dev.powerMark + 105000 ≤ s.cycle → exec (.powerStepDown avg) s = .next
      { s with dev := { s.dev with power := s.dev.power + 1, powerMark := s.cycle } }) ∧
    (avg < 3400000 → 0 < s.dev.power → s.dev.powerMark + 1050000 ≤ s.cycle → exec (.powerStepUp avg) s = .next
      { s with dev := { s.dev with power := s.dev.power - 1, powerMark := s.cycle } })) ∧
  (∀ (s : State) (r : ResetInput), ∃ t, exec (.moduleReset r) s = .next t ∧ t.mem = [] ∧ t.ctxs = [] ∧ t.groups = [] ∧ t.vfs = [] ∧ t.common = [] ∧
    t.dev.fuseKey = s.dev.fuseKey ∧ t.dev.fuseVersion = s.dev.fuseVersion ∧
    let ok : Prop := sha512 r.key = s.dev.fuseKey ∧ ecdsaVerify r.key r.image r.sig.1 r.sig.2 = true ∧ s.dev.fuseVersion ≤ r.version
    (ok → t.dev.ready = true ∧ t.dev.fwm = sha512 r.image ∧ t.dev.fwErr = false ∧ (t.dev.calErr = true ↔ r.badPorts ≠ []) ∧ (t.dev.memErr = true ↔ r.badStacks ≠ []) ∧
      ∀ i, i < 32 → (t.dev.ports.getD i {}).link = if i ∈ r.badPorts then 0 else 2) ∧
    (¬ok → t.dev.ready = false ∧ t.dev.fwErr = true ∧ t.dstat.getLsbD 0 = false ∧ t.dstat.getLsbD 4 = true)) ∧
  (∀ (s : State), s.dev.ready = true → s.dev.filled < 640 → ∃ t, exec .hbmRegionFill s = .next t ∧ t.dev.filled = s.dev.filled + 1 ∧
    (∀ a, a / 2 ^ 30 = s.dev.filled → memByte t.mem a = 0) ∧ (∀ a, a / 2 ^ 30 ≠ s.dev.filled → memByte t.mem a = memByte s.mem a) ∧
    (s.dev.filled / 80 ∉ s.dev.badStacks → t.common = s.common ++ [(s.dev.filled * 16384, 16384)]) ∧
    (s.dev.filled / 80 ∈ s.dev.badStacks → t.common = s.common) ∧ (t.dev.fillDone = true ↔ s.dev.filled + 1 = 640)) ∧
  (∀ (s : State) (vf : Nat) (value : BitVec 64), s.dev.ready = true → vf < 64 →
    let v := s.vf vf
    let n := value.toNat
    let others (f : Vf → Nat) : Nat := ((s.vfs.filter fun p => p.1 ≠ vf).map fun p => f p.2).sum
    (n % 128 = 0 → others (·.slots) + n ≤ 8192 → exec (.vfGrantWrite vf 0x038 value) s = .next (s.setVf vf { v with slots := n })) ∧
    ((n % 128 ≠ 0 ∨ 8192 < others (·.slots) + n) → exec (.vfGrantWrite vf 0x038 value) s = .next (s.setVf vf { v with stat := 7 })) ∧
    (others (·.next.2.1) + n ≤ 32 → exec (.vfGrantWrite vf 0x058 value) s = .next (s.setVf vf { v with next := (v.next.1, n, v.next.2.2) })) ∧
    (n < s.vfBinds vf → exec (.vfGrantWrite vf 0x048 value) s = .next (s.setVf vf { v with stat := 9 })) ∧
    (n < (s.countersInUse vf).length → exec (.vfGrantWrite vf 0x040 value) s = .next (s.setVf vf { v with stat := 8 })) ∧
    (s.ctxs = [] → exec (.vfGrantWrite vf 0x010 value) s = .next (s.setVf vf
      { v with cores := BitVec.ofNat 256 (v.cores.toNat / 2 ^ 64 * 2 ^ 64 + n) }))) ∧
  (∀ (s : State) (vf k : Nat) (d : BitVec 512), s.dev.ready = true → vf < 64 → k < 8 → (s.vf vf).streams.length = 8 →
    ∃ t, exec (.streamDescriptorWrite vf k d) s = .next t ∧ t.mem = s.mem ∧
      let old := (s.stream vf k).desc
      let new := (t.stream vf k).desc
      (sdEn old = true → ∀ i, i ≠ 96 → new.getLsbD i = old.getLsbD i) ∧ (sdEn old = true → sdEn new = sdEn d) ∧
      (sdEn old = false → (∀ i, i ≠ 96 → new.getLsbD i = d.getLsbD i) ∧ sdEn new = (sdEn d && streamOk (s.vf vf) d))) ∧
  (∀ (s : State) (i : Nat) (value : BitVec 64), s.dev.ready = true → i < 32 →
    let p := s.dev.ports.getD i {}
    let gen := value.toNat / 16 % 16
    (((gen = 3 ∧ p.g3 = true) ∨ (gen = 4 ∧ p.g4 = true)) →
      exec (.portGenWrite i value) s = .next { s with dev := { s.dev with ports := s.dev.ports.set i { p with gen := gen, link := 1 } } }) ∧
    (¬((gen = 3 ∧ p.g3 = true) ∨ (gen = 4 ∧ p.g4 = true)) → exec (.portGenWrite i value) s = .next s) ∧
    (p.link ≠ 1 → ∀ up, exec (.portRetrainDone i up) s = .next s) ∧
    (p.link = 1 → exec (.portRetrainDone i false) s = .next { s with dev := { s.dev with ports := s.dev.ports.set i { p with link := 0 } } }) ∧
    (p.link = 1 →
      let up : State := { s with
        dev := { s.dev with ports := s.dev.ports.set i { p with link := 2 } }
        host := s.host ++ (s.portWait.filter fun m => m.1 = i).map (·.2), portWait := s.portWait.filter fun m => m.1 ≠ i
        portIn := s.portIn.filter fun x => x.1 ≠ i }
      ((∀ x ∈ s.portIn, x.1 ≠ i) → exec (.portRetrainDone i true) s = .next up) ∧
      ∀ x rest, s.portIn = (i, x) :: rest → (∀ y ∈ rest, y.1 ≠ i) → exec (.portRetrainDone i true) s = .next (up.arrived x))) ∧
  (∀ (s : State) (node : Nat) (m : HostMsg),
    ((s.dev.ports.getD (Config.portOf node) {}).link ≠ 2 ∨ (∃ w ∈ s.portWait, w.1 = Config.portOf node) →
      s.post node m = { s with portWait := s.portWait ++ [(Config.portOf node, m)] }) ∧
    ((s.dev.ports.getD (Config.portOf node) {}).link = 2 → (∀ w ∈ s.portWait, w.1 ≠ Config.portOf node) →
      s.post node m = { s with host := s.host ++ [m] })) ∧
  (∀ (s : State) (value : BitVec 64), s.dev.ready = true →
    let vf := value.toNat % 64
    let a := value.toNat / 256 * 256
    let ended (s : State) (err : Bool) : State := { s with dev := { s.dev with arErr := err, arStore := none, arDone := s.dev.arDone + 1 } }
    (s.dev.arStore.isSome = true → exec (.areq value) s = .next s) ∧
    (s.dev.arStore = none → ((s.vf vf).en = false ∨ 2 ^ 48 ≤ a ∨ s.ownsFrame vf (a / 65536) = false) → exec (.areq value) s = .next (ended s true)) ∧
    (s.dev.arStore = none → (s.vf vf).en = true → a < 2 ^ 48 → s.ownsFrame vf (a / 65536) = true → ∃ bs : List Byte,
      let s2 := (s.takeFree.2).addStore 0 0 0 none a bs .device false
      exec (.areq value) s = .next { s2 with dev := { s2.dev with arErr := false, arStore := some s.nextId } } ∧ bs.length = 334 ∧
      bs.take 64 = leBytes 64 s.dev.nonce.toNat ∧ (bs.drop 64).take 64 = leBytes 64 s.dev.fwm.toNat ∧
      (bs.drop 128).take 64 = leBytes 64 (sha512 (s.vf vf).block).toNat ∧ (bs.drop 200).take 2 = [BitVec.ofNat 8 vf, 0]) ∧
    ∀ id, s.dev.arStore = some id → ((∀ p ∈ s.pend, p.id ≠ id) → s.attestEnd = ended s false) ∧ ((∃ p ∈ s.pend, p.id = id) → s.attestEnd = s)) ∧
  (∀ (s : State) (src : Source) (i : Nat), i < 17 →
    let keyOff := (s.readWindow src (capSecurity + 8)).toNat % 2 ^ 32
    s.readWindow src (capSecurity + keyOff + 8 * i) = bytesAt identityPub (8 * i)) ∧
  (∀ (s : State) (rid off : Nat), s.dev.ready = true → rid < 65536 → off < 256 →
    let at_ := 0x01000000 + 256 * rid + off
    (∀ vf, (s.vf vf).hasRecord rid = true → s.readWindow (.driver vf) at_ = BitVec.ofNat 64 ((s.req rid).n >>> (8 * off))) ∧
    (∀ vf, (s.vf vf).hasRecord rid = false → s.readWindow (.driver vf) at_ = 0) ∧ s.readWindow .privileged at_ = 0) ∧
  ∀ (s : State) (value : BitVec 64), s.dev.ready = true →
    (∀ i, i < 4 → exec (.registerWrite ⟨.privileged, 0x40 + 8 * i⟩ value) s = .next { s with dev := { s.dev with budgets := s.dev.budgets.set i value } } ∧
      ∀ vf, exec (.registerWrite ⟨(.driver vf), 0x40 + 8 * i⟩ value) s = .next s) ∧
    (∀ vf other off, vf < 64 → off < 4096 → other ≠ vf → exec (.registerWrite ⟨(.driver other), ctlBase + 4096 * vf + off⟩ value) s = .next s) ∧
    ∀ vf src, vf < 64 → src = .privileged ∨ src = .driver vf → let at_ (off : Nat) : Nat := ctlBase + 4096 * vf + off
      let v := s.vf vf
      (∀ i, i < 4 → exec (.registerWrite ⟨src, at_ (0x98 + 8 * i)⟩ value) s = .next (s.setVf vf { v with budget := v.budget.set i value })) ∧
      exec (.registerWrite ⟨src, at_ 0x0B8⟩ value) s = .next (s.setVf vf { v with prqb := value }) ∧
      exec (.registerWrite ⟨src, at_ 0x0E0⟩ value) s = .next (s.setVf vf { v with logn := value }) ∧
      (value.toNat < 4 → exec (.registerWrite ⟨src, at_ 0⟩ value) s = .next
        (s.setVf vf { v with en := value.getLsbD 0, qtrap := value.getLsbD 1 })) ∧
      ∀ off, off = 0x008 ∨ off = 0x078 ∨ off = 0x0C8 ∨ off = 0x168 ∨ off = 0x170 → exec (.registerWrite ⟨src, at_ off⟩ value) s = .next s

/-! ### The whole machine -/

/-- R3, R167: a step of any kind keeps memory in its one form, addresses rising and no byte listed that an unlisted one reads.
The model's choices that it rests on: log 4. -/
def Obligations.StepKeepsMemory : Prop := ∀ s t : State, s.MemInv → step s = .next t → t.MemInv

/-- R275: after reset nothing runs and nothing is stored, the module is not ready, and DSTAT reads 0.
The model's choices that it rests on: log 4. -/
def Obligations.ResetState : Prop :=
  State.reset.MemInv ∧ State.reset.ctxs = [] ∧ State.reset.groups = [] ∧ State.reset.grids = [] ∧ State.reset.pend = [] ∧
  State.reset.mem = [] ∧ State.reset.common = [] ∧ State.reset.cycle = 0 ∧ State.reset.dev.ready = false ∧ State.reset.dstat = 0 ∧
  (∀ a, memByte State.reset.mem a = 0) ∧ ∀ rid, (State.reset.req rid).stream = none

/-- R257, R366 and the entries: no instruction of a running group, and no event, ends a run: each answers a next state. -/
def Obligations.NothingStops : Prop :=
  ∀ (i : Instr) (s : State), (encode i = [] ∨ s.env?.isSome = true → ∃ t, exec i s = .next t) ∧
    (encode i ≠ [] → s.env? = none → exec i s = .fault .noIssuer)
end

