-- ==== Sys2Proof/Laws/State.lean ====
section
/-! SUPPORT. The fields of the state under its named updates, and maps by key: every lemma a later proof needs so that
no record update is unfolded. -/

namespace Sys2Proof.Machine

/-! ### Maps -/

theorem Map.get?_set_self {α : Type} (m : Map α) (i : Nat) (x : α) : Map.get? (Map.set m i x) i = some x := by
  induction m with
  | nil => simp [Map.set, Map.get?]
  | cons p m ih =>
    obtain ⟨k, v⟩ := p
    by_cases h1 : i < k
    · simp [Map.set, h1, Map.get?]
    · by_cases h2 : i = k
      · simp [Map.set, h2, Map.get?]
      · have h3 : ¬k = i := fun h => h2 h.symm
        simp [Map.set, h1, h2, h3, Map.get?, ih]

theorem Map.get?_set_ne {α : Type} (m : Map α) (i j : Nat) (x : α) (h : j ≠ i) :
    Map.get? (Map.set m i x) j = Map.get? m j := by
  have h' : ¬i = j := fun e => h e.symm
  induction m with
  | nil => simp [Map.set, Map.get?, h']
  | cons p m ih =>
    obtain ⟨k, v⟩ := p
    by_cases h1 : i < k
    · simp [Map.set, h1, Map.get?, h']
    · by_cases h2 : i = k
      · subst h2
        simp [Map.set, Map.get?, h']
      · simp [Map.set, h1, h2, Map.get?, ih]

theorem Map.set_set {α : Type} (m : Map α) (i : Nat) (x y : α) : Map.set (Map.set m i x) i y = Map.set m i y := by
  induction m with
  | nil => simp [Map.set]
  | cons p m ih =>
    obtain ⟨k, v⟩ := p
    by_cases h1 : i < k
    · simp [Map.set, h1]
    · by_cases h2 : i = k
      · simp [Map.set, h2]
      · simp [Map.set, h1, h2, ih]

/-! ### Fields under updates -/


@[simp] theorem State.setVf_node (s : State) (i : Nat) (x : Vf) : (s.setVf i x).node = s.node := rfl
@[simp] theorem State.setVf_cycle (s : State) (i : Nat) (x : Vf) : (s.setVf i x).cycle = s.cycle := rfl
@[simp] theorem State.setVf_mem (s : State) (i : Nat) (x : Vf) : (s.setVf i x).mem = s.mem := rfl
@[simp] theorem State.setVf_pend (s : State) (i : Nat) (x : Vf) : (s.setVf i x).pend = s.pend := rfl
@[simp] theorem State.setVf_dev (s : State) (i : Nat) (x : Vf) : (s.setVf i x).dev = s.dev := rfl
@[simp] theorem State.setVf_frames (s : State) (i : Nat) (x : Vf) : (s.setVf i x).frames = s.frames := rfl
@[simp] theorem State.setVf_common (s : State) (i : Nat) (x : Vf) : (s.setVf i x).common = s.common := rfl
@[simp] theorem State.setVf_cores (s : State) (i : Nat) (x : Vf) : (s.setVf i x).cores = s.cores := rfl
@[simp] theorem State.setVf_tlb2 (s : State) (i : Nat) (x : Vf) : (s.setVf i x).tlb2 = s.tlb2 := rfl
@[simp] theorem State.setVf_hints (s : State) (i : Nat) (x : Vf) : (s.setVf i x).hints = s.hints := rfl
@[simp] theorem State.setVf_pageReqs (s : State) (i : Nat) (x : Vf) : (s.setVf i x).pageReqs = s.pageReqs := rfl
@[simp] theorem State.setVf_nextTag (s : State) (i : Nat) (x : Vf) : (s.setVf i x).nextTag = s.nextTag := rfl
@[simp] theorem State.setVf_signals (s : State) (i : Nat) (x : Vf) : (s.setVf i x).signals = s.signals := rfl
@[simp] theorem State.setVf_fabOut (s : State) (i : Nat) (x : Vf) : (s.setVf i x).fabOut = s.fabOut := rfl
@[simp] theorem State.setVf_fabHeld (s : State) (i : Nat) (x : Vf) : (s.setVf i x).fabHeld = s.fabHeld := rfl
@[simp] theorem State.setVf_collIn (s : State) (i : Nat) (x : Vf) : (s.setVf i x).collIn = s.collIn := rfl
@[simp] theorem State.setVf_poolCommon (s : State) (i : Nat) (x : Vf) : (s.setVf i x).poolCommon = s.poolCommon := rfl
@[simp] theorem State.setVf_poolHeld (s : State) (i : Nat) (x : Vf) : (s.setVf i x).poolHeld = s.poolHeld := rfl
@[simp] theorem State.setVf_portWait (s : State) (i : Nat) (x : Vf) : (s.setVf i x).portWait = s.portWait := rfl
@[simp] theorem State.setVf_portIn (s : State) (i : Nat) (x : Vf) : (s.setVf i x).portIn = s.portIn := rfl
@[simp] theorem State.setVf_egress (s : State) (i : Nat) (x : Vf) : (s.setVf i x).egress = s.egress := rfl
@[simp] theorem State.setVf_ending (s : State) (i : Nat) (x : Vf) : (s.setVf i x).ending = s.ending := rfl
@[simp] theorem State.setVf_mapq (s : State) (i : Nat) (x : Vf) : (s.setVf i x).mapq = s.mapq := rfl
@[simp] theorem State.setVf_saves (s : State) (i : Nat) (x : Vf) : (s.setVf i x).saves = s.saves := rfl
@[simp] theorem State.setVf_cmdq (s : State) (i : Nat) (x : Vf) : (s.setVf i x).cmdq = s.cmdq := rfl
@[simp] theorem State.setVf_resetCtxs (s : State) (i : Nat) (x : Vf) : (s.setVf i x).resetCtxs = s.resetCtxs := rfl
@[simp] theorem State.setVf_modFab (s : State) (i : Nat) (x : Vf) : (s.setVf i x).modFab = s.modFab := rfl
@[simp] theorem State.setVf_invq (s : State) (i : Nat) (x : Vf) : (s.setVf i x).invq = s.invq := rfl
@[simp] theorem State.setVf_scrub (s : State) (i : Nat) (x : Vf) : (s.setVf i x).scrub = s.scrub := rfl
@[simp] theorem State.setVf_moves (s : State) (i : Nat) (x : Vf) : (s.setVf i x).moves = s.moves := rfl
@[simp] theorem State.setVf_rotation (s : State) (i : Nat) (x : Vf) : (s.setVf i x).rotation = s.rotation := rfl
@[simp] theorem State.setVf_audits (s : State) (i : Nat) (x : Vf) : (s.setVf i x).audits = s.audits := rfl
@[simp] theorem State.setVf_ctxs (s : State) (i : Nat) (x : Vf) : (s.setVf i x).ctxs = s.ctxs := rfl
@[simp] theorem State.setVf_reqs (s : State) (i : Nat) (x : Vf) : (s.setVf i x).reqs = s.reqs := rfl
@[simp] theorem State.setVf_grids (s : State) (i : Nat) (x : Vf) : (s.setVf i x).grids = s.grids := rfl
@[simp] theorem State.setVf_teams (s : State) (i : Nat) (x : Vf) : (s.setVf i x).teams = s.teams := rfl
@[simp] theorem State.setVf_groups (s : State) (i : Nat) (x : Vf) : (s.setVf i x).groups = s.groups := rfl
@[simp] theorem State.setVf_sched (s : State) (i : Nat) (x : Vf) : (s.setVf i x).sched = s.sched := rfl
@[simp] theorem State.setVf_cur (s : State) (i : Nat) (x : Vf) : (s.setVf i x).cur = s.cur := rfl
@[simp] theorem State.setVf_free (s : State) (i : Nat) (x : Vf) : (s.setVf i x).free = s.free := rfl
@[simp] theorem State.setVf_nextId (s : State) (i : Nat) (x : Vf) : (s.setVf i x).nextId = s.nextId := rfl
@[simp] theorem State.setVf_nextGrid (s : State) (i : Nat) (x : Vf) : (s.setVf i x).nextGrid = s.nextGrid := rfl
@[simp] theorem State.setVf_host (s : State) (i : Nat) (x : Vf) : (s.setVf i x).host = s.host := rfl
@[simp] theorem State.setVf_vfs (s : State) (i : Nat) (x : Vf) : (s.setVf i x).vfs = Map.set s.vfs i x := rfl

@[simp] theorem State.setCore_node (s : State) (i : Nat) (x : Core) : (s.setCore i x).node = s.node := rfl
@[simp] theorem State.setCore_cycle (s : State) (i : Nat) (x : Core) : (s.setCore i x).cycle = s.cycle := rfl
@[simp] theorem State.setCore_mem (s : State) (i : Nat) (x : Core) : (s.setCore i x).mem = s.mem := rfl
@[simp] theorem State.setCore_pend (s : State) (i : Nat) (x : Core) : (s.setCore i x).pend = s.pend := rfl
@[simp] theorem State.setCore_dev (s : State) (i : Nat) (x : Core) : (s.setCore i x).dev = s.dev := rfl
@[simp] theorem State.setCore_frames (s : State) (i : Nat) (x : Core) : (s.setCore i x).frames = s.frames := rfl
@[simp] theorem State.setCore_common (s : State) (i : Nat) (x : Core) : (s.setCore i x).common = s.common := rfl
@[simp] theorem State.setCore_tlb2 (s : State) (i : Nat) (x : Core) : (s.setCore i x).tlb2 = s.tlb2 := rfl
@[simp] theorem State.setCore_hints (s : State) (i : Nat) (x : Core) : (s.setCore i x).hints = s.hints := rfl
@[simp] theorem State.setCore_pageReqs (s : State) (i : Nat) (x : Core) : (s.setCore i x).pageReqs = s.pageReqs := rfl
@[simp] theorem State.setCore_nextTag (s : State) (i : Nat) (x : Core) : (s.setCore i x).nextTag = s.nextTag := rfl
@[simp] theorem State.setCore_signals (s : State) (i : Nat) (x : Core) : (s.setCore i x).signals = s.signals := rfl
@[simp] theorem State.setCore_fabOut (s : State) (i : Nat) (x : Core) : (s.setCore i x).fabOut = s.fabOut := rfl
@[simp] theorem State.setCore_fabHeld (s : State) (i : Nat) (x : Core) : (s.setCore i x).fabHeld = s.fabHeld := rfl
@[simp] theorem State.setCore_collIn (s : State) (i : Nat) (x : Core) : (s.setCore i x).collIn = s.collIn := rfl
@[simp] theorem State.setCore_poolCommon (s : State) (i : Nat) (x : Core) : (s.setCore i x).poolCommon = s.poolCommon := rfl
@[simp] theorem State.setCore_poolHeld (s : State) (i : Nat) (x : Core) : (s.setCore i x).poolHeld = s.poolHeld := rfl
@[simp] theorem State.setCore_portWait (s : State) (i : Nat) (x : Core) : (s.setCore i x).portWait = s.portWait := rfl
@[simp] theorem State.setCore_portIn (s : State) (i : Nat) (x : Core) : (s.setCore i x).portIn = s.portIn := rfl
@[simp] theorem State.setCore_egress (s : State) (i : Nat) (x : Core) : (s.setCore i x).egress = s.egress := rfl
@[simp] theorem State.setCore_ending (s : State) (i : Nat) (x : Core) : (s.setCore i x).ending = s.ending := rfl
@[simp] theorem State.setCore_mapq (s : State) (i : Nat) (x : Core) : (s.setCore i x).mapq = s.mapq := rfl
@[simp] theorem State.setCore_saves (s : State) (i : Nat) (x : Core) : (s.setCore i x).saves = s.saves := rfl
@[simp] theorem State.setCore_cmdq (s : State) (i : Nat) (x : Core) : (s.setCore i x).cmdq = s.cmdq := rfl
@[simp] theorem State.setCore_resetCtxs (s : State) (i : Nat) (x : Core) : (s.setCore i x).resetCtxs = s.resetCtxs := rfl
@[simp] theorem State.setCore_modFab (s : State) (i : Nat) (x : Core) : (s.setCore i x).modFab = s.modFab := rfl
@[simp] theorem State.setCore_invq (s : State) (i : Nat) (x : Core) : (s.setCore i x).invq = s.invq := rfl
@[simp] theorem State.setCore_scrub (s : State) (i : Nat) (x : Core) : (s.setCore i x).scrub = s.scrub := rfl
@[simp] theorem State.setCore_moves (s : State) (i : Nat) (x : Core) : (s.setCore i x).moves = s.moves := rfl
@[simp] theorem State.setCore_rotation (s : State) (i : Nat) (x : Core) : (s.setCore i x).rotation = s.rotation := rfl
@[simp] theorem State.setCore_audits (s : State) (i : Nat) (x : Core) : (s.setCore i x).audits = s.audits := rfl
@[simp] theorem State.setCore_vfs (s : State) (i : Nat) (x : Core) : (s.setCore i x).vfs = s.vfs := rfl
@[simp] theorem State.setCore_ctxs (s : State) (i : Nat) (x : Core) : (s.setCore i x).ctxs = s.ctxs := rfl
@[simp] theorem State.setCore_reqs (s : State) (i : Nat) (x : Core) : (s.setCore i x).reqs = s.reqs := rfl
@[simp] theorem State.setCore_grids (s : State) (i : Nat) (x : Core) : (s.setCore i x).grids = s.grids := rfl
@[simp] theorem State.setCore_teams (s : State) (i : Nat) (x : Core) : (s.setCore i x).teams = s.teams := rfl
@[simp] theorem State.setCore_groups (s : State) (i : Nat) (x : Core) : (s.setCore i x).groups = s.groups := rfl
@[simp] theorem State.setCore_sched (s : State) (i : Nat) (x : Core) : (s.setCore i x).sched = s.sched := rfl
@[simp] theorem State.setCore_cur (s : State) (i : Nat) (x : Core) : (s.setCore i x).cur = s.cur := rfl
@[simp] theorem State.setCore_free (s : State) (i : Nat) (x : Core) : (s.setCore i x).free = s.free := rfl
@[simp] theorem State.setCore_nextId (s : State) (i : Nat) (x : Core) : (s.setCore i x).nextId = s.nextId := rfl
@[simp] theorem State.setCore_nextGrid (s : State) (i : Nat) (x : Core) : (s.setCore i x).nextGrid = s.nextGrid := rfl
@[simp] theorem State.setCore_host (s : State) (i : Nat) (x : Core) : (s.setCore i x).host = s.host := rfl
@[simp] theorem State.setCore_cores (s : State) (i : Nat) (x : Core) : (s.setCore i x).cores = Map.set s.cores i x := rfl

@[simp] theorem State.setFrame_node (s : State) (i : Nat) (x : Frame) : (s.setFrame i x).node = s.node := rfl
@[simp] theorem State.setFrame_cycle (s : State) (i : Nat) (x : Frame) : (s.setFrame i x).cycle = s.cycle := rfl
@[simp] theorem State.setFrame_mem (s : State) (i : Nat) (x : Frame) : (s.setFrame i x).mem = s.mem := rfl
@[simp] theorem State.setFrame_pend (s : State) (i : Nat) (x : Frame) : (s.setFrame i x).pend = s.pend := rfl
@[simp] theorem State.setFrame_dev (s : State) (i : Nat) (x : Frame) : (s.setFrame i x).dev = s.dev := rfl
@[simp] theorem State.setFrame_common (s : State) (i : Nat) (x : Frame) : (s.setFrame i x).common = s.common := rfl
@[simp] theorem State.setFrame_cores (s : State) (i : Nat) (x : Frame) : (s.setFrame i x).cores = s.cores := rfl
@[simp] theorem State.setFrame_tlb2 (s : State) (i : Nat) (x : Frame) : (s.setFrame i x).tlb2 = s.tlb2 := rfl
@[simp] theorem State.setFrame_hints (s : State) (i : Nat) (x : Frame) : (s.setFrame i x).hints = s.hints := rfl
@[simp] theorem State.setFrame_pageReqs (s : State) (i : Nat) (x : Frame) : (s.setFrame i x).pageReqs = s.pageReqs := rfl
@[simp] theorem State.setFrame_nextTag (s : State) (i : Nat) (x : Frame) : (s.setFrame i x).nextTag = s.nextTag := rfl
@[simp] theorem State.setFrame_signals (s : State) (i : Nat) (x : Frame) : (s.setFrame i x).signals = s.signals := rfl
@[simp] theorem State.setFrame_fabOut (s : State) (i : Nat) (x : Frame) : (s.setFrame i x).fabOut = s.fabOut := rfl
@[simp] theorem State.setFrame_fabHeld (s : State) (i : Nat) (x : Frame) : (s.setFrame i x).fabHeld = s.fabHeld := rfl
@[simp] theorem State.setFrame_collIn (s : State) (i : Nat) (x : Frame) : (s.setFrame i x).collIn = s.collIn := rfl
@[simp] theorem State.setFrame_poolCommon (s : State) (i : Nat) (x : Frame) : (s.setFrame i x).poolCommon = s.poolCommon := rfl
@[simp] theorem State.setFrame_poolHeld (s : State) (i : Nat) (x : Frame) : (s.setFrame i x).poolHeld = s.poolHeld := rfl
@[simp] theorem State.setFrame_portWait (s : State) (i : Nat) (x : Frame) : (s.setFrame i x).portWait = s.portWait := rfl
@[simp] theorem State.setFrame_portIn (s : State) (i : Nat) (x : Frame) : (s.setFrame i x).portIn = s.portIn := rfl
@[simp] theorem State.setFrame_egress (s : State) (i : Nat) (x : Frame) : (s.setFrame i x).egress = s.egress := rfl
@[simp] theorem State.setFrame_ending (s : State) (i : Nat) (x : Frame) : (s.setFrame i x).ending = s.ending := rfl
@[simp] theorem State.setFrame_mapq (s : State) (i : Nat) (x : Frame) : (s.setFrame i x).mapq = s.mapq := rfl
@[simp] theorem State.setFrame_saves (s : State) (i : Nat) (x : Frame) : (s.setFrame i x).saves = s.saves := rfl
@[simp] theorem State.setFrame_cmdq (s : State) (i : Nat) (x : Frame) : (s.setFrame i x).cmdq = s.cmdq := rfl
@[simp] theorem State.setFrame_resetCtxs (s : State) (i : Nat) (x : Frame) : (s.setFrame i x).resetCtxs = s.resetCtxs := rfl
@[simp] theorem State.setFrame_modFab (s : State) (i : Nat) (x : Frame) : (s.setFrame i x).modFab = s.modFab := rfl
@[simp] theorem State.setFrame_invq (s : State) (i : Nat) (x : Frame) : (s.setFrame i x).invq = s.invq := rfl
@[simp] theorem State.setFrame_scrub (s : State) (i : Nat) (x : Frame) : (s.setFrame i x).scrub = s.scrub := rfl
@[simp] theorem State.setFrame_moves (s : State) (i : Nat) (x : Frame) : (s.setFrame i x).moves = s.moves := rfl
@[simp] theorem State.setFrame_rotation (s : State) (i : Nat) (x : Frame) : (s.setFrame i x).rotation = s.rotation := rfl
@[simp] theorem State.setFrame_audits (s : State) (i : Nat) (x : Frame) : (s.setFrame i x).audits = s.audits := rfl
@[simp] theorem State.setFrame_vfs (s : State) (i : Nat) (x : Frame) : (s.setFrame i x).vfs = s.vfs := rfl
@[simp] theorem State.setFrame_ctxs (s : State) (i : Nat) (x : Frame) : (s.setFrame i x).ctxs = s.ctxs := rfl
@[simp] theorem State.setFrame_reqs (s : State) (i : Nat) (x : Frame) : (s.setFrame i x).reqs = s.reqs := rfl
@[simp] theorem State.setFrame_grids (s : State) (i : Nat) (x : Frame) : (s.setFrame i x).grids = s.grids := rfl
@[simp] theorem State.setFrame_teams (s : State) (i : Nat) (x : Frame) : (s.setFrame i x).teams = s.teams := rfl
@[simp] theorem State.setFrame_groups (s : State) (i : Nat) (x : Frame) : (s.setFrame i x).groups = s.groups := rfl
@[simp] theorem State.setFrame_sched (s : State) (i : Nat) (x : Frame) : (s.setFrame i x).sched = s.sched := rfl
@[simp] theorem State.setFrame_cur (s : State) (i : Nat) (x : Frame) : (s.setFrame i x).cur = s.cur := rfl
@[simp] theorem State.setFrame_free (s : State) (i : Nat) (x : Frame) : (s.setFrame i x).free = s.free := rfl
@[simp] theorem State.setFrame_nextId (s : State) (i : Nat) (x : Frame) : (s.setFrame i x).nextId = s.nextId := rfl
@[simp] theorem State.setFrame_nextGrid (s : State) (i : Nat) (x : Frame) : (s.setFrame i x).nextGrid = s.nextGrid := rfl
@[simp] theorem State.setFrame_host (s : State) (i : Nat) (x : Frame) : (s.setFrame i x).host = s.host := rfl
@[simp] theorem State.setFrame_frames (s : State) (i : Nat) (x : Frame) : (s.setFrame i x).frames = Map.set s.frames i x := rfl

@[simp] theorem State.setCtx_node (s : State) (i : Nat) (x : Ctx) : (s.setCtx i x).node = s.node := rfl
@[simp] theorem State.setCtx_cycle (s : State) (i : Nat) (x : Ctx) : (s.setCtx i x).cycle = s.cycle := rfl
@[simp] theorem State.setCtx_mem (s : State) (i : Nat) (x : Ctx) : (s.setCtx i x).mem = s.mem := rfl
@[simp] theorem State.setCtx_pend (s : State) (i : Nat) (x : Ctx) : (s.setCtx i x).pend = s.pend := rfl
@[simp] theorem State.setCtx_dev (s : State) (i : Nat) (x : Ctx) : (s.setCtx i x).dev = s.dev := rfl
@[simp] theorem State.setCtx_frames (s : State) (i : Nat) (x : Ctx) : (s.setCtx i x).frames = s.frames := rfl
@[simp] theorem State.setCtx_common (s : State) (i : Nat) (x : Ctx) : (s.setCtx i x).common = s.common := rfl
@[simp] theorem State.setCtx_cores (s : State) (i : Nat) (x : Ctx) : (s.setCtx i x).cores = s.cores := rfl
@[simp] theorem State.setCtx_tlb2 (s : State) (i : Nat) (x : Ctx) : (s.setCtx i x).tlb2 = s.tlb2 := rfl
@[simp] theorem State.setCtx_hints (s : State) (i : Nat) (x : Ctx) : (s.setCtx i x).hints = s.hints := rfl
@[simp] theorem State.setCtx_pageReqs (s : State) (i : Nat) (x : Ctx) : (s.setCtx i x).pageReqs = s.pageReqs := rfl
@[simp] theorem State.setCtx_nextTag (s : State) (i : Nat) (x : Ctx) : (s.setCtx i x).nextTag = s.nextTag := rfl
@[simp] theorem State.setCtx_signals (s : State) (i : Nat) (x : Ctx) : (s.setCtx i x).signals = s.signals := rfl
@[simp] theorem State.setCtx_fabOut (s : State) (i : Nat) (x : Ctx) : (s.setCtx i x).fabOut = s.fabOut := rfl
@[simp] theorem State.setCtx_fabHeld (s : State) (i : Nat) (x : Ctx) : (s.setCtx i x).fabHeld = s.fabHeld := rfl
@[simp] theorem State.setCtx_collIn (s : State) (i : Nat) (x : Ctx) : (s.setCtx i x).collIn = s.collIn := rfl
@[simp] theorem State.setCtx_poolCommon (s : State) (i : Nat) (x : Ctx) : (s.setCtx i x).poolCommon = s.poolCommon := rfl
@[simp] theorem State.setCtx_poolHeld (s : State) (i : Nat) (x : Ctx) : (s.setCtx i x).poolHeld = s.poolHeld := rfl
@[simp] theorem State.setCtx_portWait (s : State) (i : Nat) (x : Ctx) : (s.setCtx i x).portWait = s.portWait := rfl
@[simp] theorem State.setCtx_portIn (s : State) (i : Nat) (x : Ctx) : (s.setCtx i x).portIn = s.portIn := rfl
@[simp] theorem State.setCtx_egress (s : State) (i : Nat) (x : Ctx) : (s.setCtx i x).egress = s.egress := rfl
@[simp] theorem State.setCtx_ending (s : State) (i : Nat) (x : Ctx) : (s.setCtx i x).ending = s.ending := rfl
@[simp] theorem State.setCtx_mapq (s : State) (i : Nat) (x : Ctx) : (s.setCtx i x).mapq = s.mapq := rfl
@[simp] theorem State.setCtx_saves (s : State) (i : Nat) (x : Ctx) : (s.setCtx i x).saves = s.saves := rfl
@[simp] theorem State.setCtx_cmdq (s : State) (i : Nat) (x : Ctx) : (s.setCtx i x).cmdq = s.cmdq := rfl
@[simp] theorem State.setCtx_resetCtxs (s : State) (i : Nat) (x : Ctx) : (s.setCtx i x).resetCtxs = s.resetCtxs := rfl
@[simp] theorem State.setCtx_modFab (s : State) (i : Nat) (x : Ctx) : (s.setCtx i x).modFab = s.modFab := rfl
@[simp] theorem State.setCtx_invq (s : State) (i : Nat) (x : Ctx) : (s.setCtx i x).invq = s.invq := rfl
@[simp] theorem State.setCtx_scrub (s : State) (i : Nat) (x : Ctx) : (s.setCtx i x).scrub = s.scrub := rfl
@[simp] theorem State.setCtx_moves (s : State) (i : Nat) (x : Ctx) : (s.setCtx i x).moves = s.moves := rfl
@[simp] theorem State.setCtx_rotation (s : State) (i : Nat) (x : Ctx) : (s.setCtx i x).rotation = s.rotation := rfl
@[simp] theorem State.setCtx_audits (s : State) (i : Nat) (x : Ctx) : (s.setCtx i x).audits = s.audits := rfl
@[simp] theorem State.setCtx_vfs (s : State) (i : Nat) (x : Ctx) : (s.setCtx i x).vfs = s.vfs := rfl
@[simp] theorem State.setCtx_reqs (s : State) (i : Nat) (x : Ctx) : (s.setCtx i x).reqs = s.reqs := rfl
@[simp] theorem State.setCtx_grids (s : State) (i : Nat) (x : Ctx) : (s.setCtx i x).grids = s.grids := rfl
@[simp] theorem State.setCtx_teams (s : State) (i : Nat) (x : Ctx) : (s.setCtx i x).teams = s.teams := rfl
@[simp] theorem State.setCtx_groups (s : State) (i : Nat) (x : Ctx) : (s.setCtx i x).groups = s.groups := rfl
@[simp] theorem State.setCtx_sched (s : State) (i : Nat) (x : Ctx) : (s.setCtx i x).sched = s.sched := rfl
@[simp] theorem State.setCtx_cur (s : State) (i : Nat) (x : Ctx) : (s.setCtx i x).cur = s.cur := rfl
@[simp] theorem State.setCtx_free (s : State) (i : Nat) (x : Ctx) : (s.setCtx i x).free = s.free := rfl
@[simp] theorem State.setCtx_nextId (s : State) (i : Nat) (x : Ctx) : (s.setCtx i x).nextId = s.nextId := rfl
@[simp] theorem State.setCtx_nextGrid (s : State) (i : Nat) (x : Ctx) : (s.setCtx i x).nextGrid = s.nextGrid := rfl
@[simp] theorem State.setCtx_host (s : State) (i : Nat) (x : Ctx) : (s.setCtx i x).host = s.host := rfl
@[simp] theorem State.setCtx_ctxs (s : State) (i : Nat) (x : Ctx) : (s.setCtx i x).ctxs = Map.set s.ctxs i x := rfl

@[simp] theorem State.setGrid_node (s : State) (i : Nat) (x : Grid) : (s.setGrid i x).node = s.node := rfl
@[simp] theorem State.setGrid_cycle (s : State) (i : Nat) (x : Grid) : (s.setGrid i x).cycle = s.cycle := rfl
@[simp] theorem State.setGrid_mem (s : State) (i : Nat) (x : Grid) : (s.setGrid i x).mem = s.mem := rfl
@[simp] theorem State.setGrid_pend (s : State) (i : Nat) (x : Grid) : (s.setGrid i x).pend = s.pend := rfl
@[simp] theorem State.setGrid_dev (s : State) (i : Nat) (x : Grid) : (s.setGrid i x).dev = s.dev := rfl
@[simp] theorem State.setGrid_frames (s : State) (i : Nat) (x : Grid) : (s.setGrid i x).frames = s.frames := rfl
@[simp] theorem State.setGrid_common (s : State) (i : Nat) (x : Grid) : (s.setGrid i x).common = s.common := rfl
@[simp] theorem State.setGrid_cores (s : State) (i : Nat) (x : Grid) : (s.setGrid i x).cores = s.cores := rfl
@[simp] theorem State.setGrid_tlb2 (s : State) (i : Nat) (x : Grid) : (s.setGrid i x).tlb2 = s.tlb2 := rfl
@[simp] theorem State.setGrid_hints (s : State) (i : Nat) (x : Grid) : (s.setGrid i x).hints = s.hints := rfl
@[simp] theorem State.setGrid_pageReqs (s : State) (i : Nat) (x : Grid) : (s.setGrid i x).pageReqs = s.pageReqs := rfl
@[simp] theorem State.setGrid_nextTag (s : State) (i : Nat) (x : Grid) : (s.setGrid i x).nextTag = s.nextTag := rfl
@[simp] theorem State.setGrid_signals (s : State) (i : Nat) (x : Grid) : (s.setGrid i x).signals = s.signals := rfl
@[simp] theorem State.setGrid_fabOut (s : State) (i : Nat) (x : Grid) : (s.setGrid i x).fabOut = s.fabOut := rfl
@[simp] theorem State.setGrid_fabHeld (s : State) (i : Nat) (x : Grid) : (s.setGrid i x).fabHeld = s.fabHeld := rfl
@[simp] theorem State.setGrid_collIn (s : State) (i : Nat) (x : Grid) : (s.setGrid i x).collIn = s.collIn := rfl
@[simp] theorem State.setGrid_poolCommon (s : State) (i : Nat) (x : Grid) : (s.setGrid i x).poolCommon = s.poolCommon := rfl
@[simp] theorem State.setGrid_poolHeld (s : State) (i : Nat) (x : Grid) : (s.setGrid i x).poolHeld = s.poolHeld := rfl
@[simp] theorem State.setGrid_portWait (s : State) (i : Nat) (x : Grid) : (s.setGrid i x).portWait = s.portWait := rfl
@[simp] theorem State.setGrid_portIn (s : State) (i : Nat) (x : Grid) : (s.setGrid i x).portIn = s.portIn := rfl
@[simp] theorem State.setGrid_egress (s : State) (i : Nat) (x : Grid) : (s.setGrid i x).egress = s.egress := rfl
@[simp] theorem State.setGrid_ending (s : State) (i : Nat) (x : Grid) : (s.setGrid i x).ending = s.ending := rfl
@[simp] theorem State.setGrid_mapq (s : State) (i : Nat) (x : Grid) : (s.setGrid i x).mapq = s.mapq := rfl
@[simp] theorem State.setGrid_saves (s : State) (i : Nat) (x : Grid) : (s.setGrid i x).saves = s.saves := rfl
@[simp] theorem State.setGrid_cmdq (s : State) (i : Nat) (x : Grid) : (s.setGrid i x).cmdq = s.cmdq := rfl
@[simp] theorem State.setGrid_resetCtxs (s : State) (i : Nat) (x : Grid) : (s.setGrid i x).resetCtxs = s.resetCtxs := rfl
@[simp] theorem State.setGrid_modFab (s : State) (i : Nat) (x : Grid) : (s.setGrid i x).modFab = s.modFab := rfl
@[simp] theorem State.setGrid_invq (s : State) (i : Nat) (x : Grid) : (s.setGrid i x).invq = s.invq := rfl
@[simp] theorem State.setGrid_scrub (s : State) (i : Nat) (x : Grid) : (s.setGrid i x).scrub = s.scrub := rfl
@[simp] theorem State.setGrid_moves (s : State) (i : Nat) (x : Grid) : (s.setGrid i x).moves = s.moves := rfl
@[simp] theorem State.setGrid_rotation (s : State) (i : Nat) (x : Grid) : (s.setGrid i x).rotation = s.rotation := rfl
@[simp] theorem State.setGrid_audits (s : State) (i : Nat) (x : Grid) : (s.setGrid i x).audits = s.audits := rfl
@[simp] theorem State.setGrid_vfs (s : State) (i : Nat) (x : Grid) : (s.setGrid i x).vfs = s.vfs := rfl
@[simp] theorem State.setGrid_ctxs (s : State) (i : Nat) (x : Grid) : (s.setGrid i x).ctxs = s.ctxs := rfl
@[simp] theorem State.setGrid_reqs (s : State) (i : Nat) (x : Grid) : (s.setGrid i x).reqs = s.reqs := rfl
@[simp] theorem State.setGrid_teams (s : State) (i : Nat) (x : Grid) : (s.setGrid i x).teams = s.teams := rfl
@[simp] theorem State.setGrid_groups (s : State) (i : Nat) (x : Grid) : (s.setGrid i x).groups = s.groups := rfl
@[simp] theorem State.setGrid_sched (s : State) (i : Nat) (x : Grid) : (s.setGrid i x).sched = s.sched := rfl
@[simp] theorem State.setGrid_cur (s : State) (i : Nat) (x : Grid) : (s.setGrid i x).cur = s.cur := rfl
@[simp] theorem State.setGrid_free (s : State) (i : Nat) (x : Grid) : (s.setGrid i x).free = s.free := rfl
@[simp] theorem State.setGrid_nextId (s : State) (i : Nat) (x : Grid) : (s.setGrid i x).nextId = s.nextId := rfl
@[simp] theorem State.setGrid_nextGrid (s : State) (i : Nat) (x : Grid) : (s.setGrid i x).nextGrid = s.nextGrid := rfl
@[simp] theorem State.setGrid_host (s : State) (i : Nat) (x : Grid) : (s.setGrid i x).host = s.host := rfl
@[simp] theorem State.setGrid_grids (s : State) (i : Nat) (x : Grid) : (s.setGrid i x).grids = Map.set s.grids i x := rfl

@[simp] theorem State.setTeam_node (s : State) (i : Nat) (x : Team) : (s.setTeam i x).node = s.node := rfl
@[simp] theorem State.setTeam_cycle (s : State) (i : Nat) (x : Team) : (s.setTeam i x).cycle = s.cycle := rfl
@[simp] theorem State.setTeam_mem (s : State) (i : Nat) (x : Team) : (s.setTeam i x).mem = s.mem := rfl
@[simp] theorem State.setTeam_pend (s : State) (i : Nat) (x : Team) : (s.setTeam i x).pend = s.pend := rfl
@[simp] theorem State.setTeam_dev (s : State) (i : Nat) (x : Team) : (s.setTeam i x).dev = s.dev := rfl
@[simp] theorem State.setTeam_frames (s : State) (i : Nat) (x : Team) : (s.setTeam i x).frames = s.frames := rfl
@[simp] theorem State.setTeam_common (s : State) (i : Nat) (x : Team) : (s.setTeam i x).common = s.common := rfl
@[simp] theorem State.setTeam_cores (s : State) (i : Nat) (x : Team) : (s.setTeam i x).cores = s.cores := rfl
@[simp] theorem State.setTeam_tlb2 (s : State) (i : Nat) (x : Team) : (s.setTeam i x).tlb2 = s.tlb2 := rfl
@[simp] theorem State.setTeam_hints (s : State) (i : Nat) (x : Team) : (s.setTeam i x).hints = s.hints := rfl
@[simp] theorem State.setTeam_pageReqs (s : State) (i : Nat) (x : Team) : (s.setTeam i x).pageReqs = s.pageReqs := rfl
@[simp] theorem State.setTeam_nextTag (s : State) (i : Nat) (x : Team) : (s.setTeam i x).nextTag = s.nextTag := rfl
@[simp] theorem State.setTeam_signals (s : State) (i : Nat) (x : Team) : (s.setTeam i x).signals = s.signals := rfl
@[simp] theorem State.setTeam_fabOut (s : State) (i : Nat) (x : Team) : (s.setTeam i x).fabOut = s.fabOut := rfl
@[simp] theorem State.setTeam_fabHeld (s : State) (i : Nat) (x : Team) : (s.setTeam i x).fabHeld = s.fabHeld := rfl
@[simp] theorem State.setTeam_collIn (s : State) (i : Nat) (x : Team) : (s.setTeam i x).collIn = s.collIn := rfl
@[simp] theorem State.setTeam_poolCommon (s : State) (i : Nat) (x : Team) : (s.setTeam i x).poolCommon = s.poolCommon := rfl
@[simp] theorem State.setTeam_poolHeld (s : State) (i : Nat) (x : Team) : (s.setTeam i x).poolHeld = s.poolHeld := rfl
@[simp] theorem State.setTeam_portWait (s : State) (i : Nat) (x : Team) : (s.setTeam i x).portWait = s.portWait := rfl
@[simp] theorem State.setTeam_portIn (s : State) (i : Nat) (x : Team) : (s.setTeam i x).portIn = s.portIn := rfl
@[simp] theorem State.setTeam_egress (s : State) (i : Nat) (x : Team) : (s.setTeam i x).egress = s.egress := rfl
@[simp] theorem State.setTeam_ending (s : State) (i : Nat) (x : Team) : (s.setTeam i x).ending = s.ending := rfl
@[simp] theorem State.setTeam_mapq (s : State) (i : Nat) (x : Team) : (s.setTeam i x).mapq = s.mapq := rfl
@[simp] theorem State.setTeam_saves (s : State) (i : Nat) (x : Team) : (s.setTeam i x).saves = s.saves := rfl
@[simp] theorem State.setTeam_cmdq (s : State) (i : Nat) (x : Team) : (s.setTeam i x).cmdq = s.cmdq := rfl
@[simp] theorem State.setTeam_resetCtxs (s : State) (i : Nat) (x : Team) : (s.setTeam i x).resetCtxs = s.resetCtxs := rfl
@[simp] theorem State.setTeam_modFab (s : State) (i : Nat) (x : Team) : (s.setTeam i x).modFab = s.modFab := rfl
@[simp] theorem State.setTeam_invq (s : State) (i : Nat) (x : Team) : (s.setTeam i x).invq = s.invq := rfl
@[simp] theorem State.setTeam_scrub (s : State) (i : Nat) (x : Team) : (s.setTeam i x).scrub = s.scrub := rfl
@[simp] theorem State.setTeam_moves (s : State) (i : Nat) (x : Team) : (s.setTeam i x).moves = s.moves := rfl
@[simp] theorem State.setTeam_rotation (s : State) (i : Nat) (x : Team) : (s.setTeam i x).rotation = s.rotation := rfl
@[simp] theorem State.setTeam_audits (s : State) (i : Nat) (x : Team) : (s.setTeam i x).audits = s.audits := rfl
@[simp] theorem State.setTeam_vfs (s : State) (i : Nat) (x : Team) : (s.setTeam i x).vfs = s.vfs := rfl
@[simp] theorem State.setTeam_ctxs (s : State) (i : Nat) (x : Team) : (s.setTeam i x).ctxs = s.ctxs := rfl
@[simp] theorem State.setTeam_reqs (s : State) (i : Nat) (x : Team) : (s.setTeam i x).reqs = s.reqs := rfl
@[simp] theorem State.setTeam_grids (s : State) (i : Nat) (x : Team) : (s.setTeam i x).grids = s.grids := rfl
@[simp] theorem State.setTeam_groups (s : State) (i : Nat) (x : Team) : (s.setTeam i x).groups = s.groups := rfl
@[simp] theorem State.setTeam_sched (s : State) (i : Nat) (x : Team) : (s.setTeam i x).sched = s.sched := rfl
@[simp] theorem State.setTeam_cur (s : State) (i : Nat) (x : Team) : (s.setTeam i x).cur = s.cur := rfl
@[simp] theorem State.setTeam_free (s : State) (i : Nat) (x : Team) : (s.setTeam i x).free = s.free := rfl
@[simp] theorem State.setTeam_nextId (s : State) (i : Nat) (x : Team) : (s.setTeam i x).nextId = s.nextId := rfl
@[simp] theorem State.setTeam_nextGrid (s : State) (i : Nat) (x : Team) : (s.setTeam i x).nextGrid = s.nextGrid := rfl
@[simp] theorem State.setTeam_host (s : State) (i : Nat) (x : Team) : (s.setTeam i x).host = s.host := rfl
@[simp] theorem State.setTeam_teams (s : State) (i : Nat) (x : Team) : (s.setTeam i x).teams = Map.set s.teams i x := rfl

@[simp] theorem State.setGroup_node (s : State) (i : Nat) (x : Group) : (s.setGroup i x).node = s.node := rfl
@[simp] theorem State.setGroup_cycle (s : State) (i : Nat) (x : Group) : (s.setGroup i x).cycle = s.cycle := rfl
@[simp] theorem State.setGroup_mem (s : State) (i : Nat) (x : Group) : (s.setGroup i x).mem = s.mem := rfl
@[simp] theorem State.setGroup_pend (s : State) (i : Nat) (x : Group) : (s.setGroup i x).pend = s.pend := rfl
@[simp] theorem State.setGroup_dev (s : State) (i : Nat) (x : Group) : (s.setGroup i x).dev = s.dev := rfl
@[simp] theorem State.setGroup_frames (s : State) (i : Nat) (x : Group) : (s.setGroup i x).frames = s.frames := rfl
@[simp] theorem State.setGroup_common (s : State) (i : Nat) (x : Group) : (s.setGroup i x).common = s.common := rfl
@[simp] theorem State.setGroup_cores (s : State) (i : Nat) (x : Group) : (s.setGroup i x).cores = s.cores := rfl
@[simp] theorem State.setGroup_tlb2 (s : State) (i : Nat) (x : Group) : (s.setGroup i x).tlb2 = s.tlb2 := rfl
@[simp] theorem State.setGroup_hints (s : State) (i : Nat) (x : Group) : (s.setGroup i x).hints = s.hints := rfl
@[simp] theorem State.setGroup_pageReqs (s : State) (i : Nat) (x : Group) : (s.setGroup i x).pageReqs = s.pageReqs := rfl
@[simp] theorem State.setGroup_nextTag (s : State) (i : Nat) (x : Group) : (s.setGroup i x).nextTag = s.nextTag := rfl
@[simp] theorem State.setGroup_signals (s : State) (i : Nat) (x : Group) : (s.setGroup i x).signals = s.signals := rfl
@[simp] theorem State.setGroup_fabOut (s : State) (i : Nat) (x : Group) : (s.setGroup i x).fabOut = s.fabOut := rfl
@[simp] theorem State.setGroup_fabHeld (s : State) (i : Nat) (x : Group) : (s.setGroup i x).fabHeld = s.fabHeld := rfl
@[simp] theorem State.setGroup_collIn (s : State) (i : Nat) (x : Group) : (s.setGroup i x).collIn = s.collIn := rfl
@[simp] theorem State.setGroup_poolCommon (s : State) (i : Nat) (x : Group) : (s.setGroup i x).poolCommon = s.poolCommon := rfl
@[simp] theorem State.setGroup_poolHeld (s : State) (i : Nat) (x : Group) : (s.setGroup i x).poolHeld = s.poolHeld := rfl
@[simp] theorem State.setGroup_portWait (s : State) (i : Nat) (x : Group) : (s.setGroup i x).portWait = s.portWait := rfl
@[simp] theorem State.setGroup_portIn (s : State) (i : Nat) (x : Group) : (s.setGroup i x).portIn = s.portIn := rfl
@[simp] theorem State.setGroup_egress (s : State) (i : Nat) (x : Group) : (s.setGroup i x).egress = s.egress := rfl
@[simp] theorem State.setGroup_ending (s : State) (i : Nat) (x : Group) : (s.setGroup i x).ending = s.ending := rfl
@[simp] theorem State.setGroup_mapq (s : State) (i : Nat) (x : Group) : (s.setGroup i x).mapq = s.mapq := rfl
@[simp] theorem State.setGroup_saves (s : State) (i : Nat) (x : Group) : (s.setGroup i x).saves = s.saves := rfl
@[simp] theorem State.setGroup_cmdq (s : State) (i : Nat) (x : Group) : (s.setGroup i x).cmdq = s.cmdq := rfl
@[simp] theorem State.setGroup_resetCtxs (s : State) (i : Nat) (x : Group) : (s.setGroup i x).resetCtxs = s.resetCtxs := rfl
@[simp] theorem State.setGroup_modFab (s : State) (i : Nat) (x : Group) : (s.setGroup i x).modFab = s.modFab := rfl
@[simp] theorem State.setGroup_invq (s : State) (i : Nat) (x : Group) : (s.setGroup i x).invq = s.invq := rfl
@[simp] theorem State.setGroup_scrub (s : State) (i : Nat) (x : Group) : (s.setGroup i x).scrub = s.scrub := rfl
@[simp] theorem State.setGroup_moves (s : State) (i : Nat) (x : Group) : (s.setGroup i x).moves = s.moves := rfl
@[simp] theorem State.setGroup_rotation (s : State) (i : Nat) (x : Group) : (s.setGroup i x).rotation = s.rotation := rfl
@[simp] theorem State.setGroup_audits (s : State) (i : Nat) (x : Group) : (s.setGroup i x).audits = s.audits := rfl
@[simp] theorem State.setGroup_vfs (s : State) (i : Nat) (x : Group) : (s.setGroup i x).vfs = s.vfs := rfl
@[simp] theorem State.setGroup_ctxs (s : State) (i : Nat) (x : Group) : (s.setGroup i x).ctxs = s.ctxs := rfl
@[simp] theorem State.setGroup_reqs (s : State) (i : Nat) (x : Group) : (s.setGroup i x).reqs = s.reqs := rfl
@[simp] theorem State.setGroup_grids (s : State) (i : Nat) (x : Group) : (s.setGroup i x).grids = s.grids := rfl
@[simp] theorem State.setGroup_teams (s : State) (i : Nat) (x : Group) : (s.setGroup i x).teams = s.teams := rfl
@[simp] theorem State.setGroup_sched (s : State) (i : Nat) (x : Group) : (s.setGroup i x).sched = s.sched := rfl
@[simp] theorem State.setGroup_cur (s : State) (i : Nat) (x : Group) : (s.setGroup i x).cur = s.cur := rfl
@[simp] theorem State.setGroup_free (s : State) (i : Nat) (x : Group) : (s.setGroup i x).free = s.free := rfl
@[simp] theorem State.setGroup_nextId (s : State) (i : Nat) (x : Group) : (s.setGroup i x).nextId = s.nextId := rfl
@[simp] theorem State.setGroup_nextGrid (s : State) (i : Nat) (x : Group) : (s.setGroup i x).nextGrid = s.nextGrid := rfl
@[simp] theorem State.setGroup_host (s : State) (i : Nat) (x : Group) : (s.setGroup i x).host = s.host := rfl
@[simp] theorem State.setGroup_groups (s : State) (i : Nat) (x : Group) : (s.setGroup i x).groups = Map.set s.groups i x := rfl

@[simp] theorem State.setReq_node (s : State) (i : Nat) (x : Req) : (s.setReq i x).node = s.node := rfl
@[simp] theorem State.setReq_cycle (s : State) (i : Nat) (x : Req) : (s.setReq i x).cycle = s.cycle := rfl
@[simp] theorem State.setReq_mem (s : State) (i : Nat) (x : Req) : (s.setReq i x).mem = s.mem := rfl
@[simp] theorem State.setReq_pend (s : State) (i : Nat) (x : Req) : (s.setReq i x).pend = s.pend := rfl
@[simp] theorem State.setReq_dev (s : State) (i : Nat) (x : Req) : (s.setReq i x).dev = s.dev := rfl
@[simp] theorem State.setReq_frames (s : State) (i : Nat) (x : Req) : (s.setReq i x).frames = s.frames := rfl
@[simp] theorem State.setReq_common (s : State) (i : Nat) (x : Req) : (s.setReq i x).common = s.common := rfl
@[simp] theorem State.setReq_cores (s : State) (i : Nat) (x : Req) : (s.setReq i x).cores = s.cores := rfl
@[simp] theorem State.setReq_tlb2 (s : State) (i : Nat) (x : Req) : (s.setReq i x).tlb2 = s.tlb2 := rfl
@[simp] theorem State.setReq_hints (s : State) (i : Nat) (x : Req) : (s.setReq i x).hints = s.hints := rfl
@[simp] theorem State.setReq_pageReqs (s : State) (i : Nat) (x : Req) : (s.setReq i x).pageReqs = s.pageReqs := rfl
@[simp] theorem State.setReq_nextTag (s : State) (i : Nat) (x : Req) : (s.setReq i x).nextTag = s.nextTag := rfl
@[simp] theorem State.setReq_signals (s : State) (i : Nat) (x : Req) : (s.setReq i x).signals = s.signals := rfl
@[simp] theorem State.setReq_fabOut (s : State) (i : Nat) (x : Req) : (s.setReq i x).fabOut = s.fabOut := rfl
@[simp] theorem State.setReq_fabHeld (s : State) (i : Nat) (x : Req) : (s.setReq i x).fabHeld = s.fabHeld := rfl
@[simp] theorem State.setReq_collIn (s : State) (i : Nat) (x : Req) : (s.setReq i x).collIn = s.collIn := rfl
@[simp] theorem State.setReq_poolCommon (s : State) (i : Nat) (x : Req) : (s.setReq i x).poolCommon = s.poolCommon := rfl
@[simp] theorem State.setReq_poolHeld (s : State) (i : Nat) (x : Req) : (s.setReq i x).poolHeld = s.poolHeld := rfl
@[simp] theorem State.setReq_portWait (s : State) (i : Nat) (x : Req) : (s.setReq i x).portWait = s.portWait := rfl
@[simp] theorem State.setReq_portIn (s : State) (i : Nat) (x : Req) : (s.setReq i x).portIn = s.portIn := rfl
@[simp] theorem State.setReq_egress (s : State) (i : Nat) (x : Req) : (s.setReq i x).egress = s.egress := rfl
@[simp] theorem State.setReq_ending (s : State) (i : Nat) (x : Req) : (s.setReq i x).ending = s.ending := rfl
@[simp] theorem State.setReq_mapq (s : State) (i : Nat) (x : Req) : (s.setReq i x).mapq = s.mapq := rfl
@[simp] theorem State.setReq_saves (s : State) (i : Nat) (x : Req) : (s.setReq i x).saves = s.saves := rfl
@[simp] theorem State.setReq_cmdq (s : State) (i : Nat) (x : Req) : (s.setReq i x).cmdq = s.cmdq := rfl
@[simp] theorem State.setReq_resetCtxs (s : State) (i : Nat) (x : Req) : (s.setReq i x).resetCtxs = s.resetCtxs := rfl
@[simp] theorem State.setReq_modFab (s : State) (i : Nat) (x : Req) : (s.setReq i x).modFab = s.modFab := rfl
@[simp] theorem State.setReq_invq (s : State) (i : Nat) (x : Req) : (s.setReq i x).invq = s.invq := rfl
@[simp] theorem State.setReq_scrub (s : State) (i : Nat) (x : Req) : (s.setReq i x).scrub = s.scrub := rfl
@[simp] theorem State.setReq_moves (s : State) (i : Nat) (x : Req) : (s.setReq i x).moves = s.moves := rfl
@[simp] theorem State.setReq_rotation (s : State) (i : Nat) (x : Req) : (s.setReq i x).rotation = s.rotation := rfl
@[simp] theorem State.setReq_audits (s : State) (i : Nat) (x : Req) : (s.setReq i x).audits = s.audits := rfl
@[simp] theorem State.setReq_vfs (s : State) (i : Nat) (x : Req) : (s.setReq i x).vfs = s.vfs := rfl
@[simp] theorem State.setReq_ctxs (s : State) (i : Nat) (x : Req) : (s.setReq i x).ctxs = s.ctxs := rfl
@[simp] theorem State.setReq_grids (s : State) (i : Nat) (x : Req) : (s.setReq i x).grids = s.grids := rfl
@[simp] theorem State.setReq_teams (s : State) (i : Nat) (x : Req) : (s.setReq i x).teams = s.teams := rfl
@[simp] theorem State.setReq_groups (s : State) (i : Nat) (x : Req) : (s.setReq i x).groups = s.groups := rfl
@[simp] theorem State.setReq_sched (s : State) (i : Nat) (x : Req) : (s.setReq i x).sched = s.sched := rfl
@[simp] theorem State.setReq_cur (s : State) (i : Nat) (x : Req) : (s.setReq i x).cur = s.cur := rfl
@[simp] theorem State.setReq_free (s : State) (i : Nat) (x : Req) : (s.setReq i x).free = s.free := rfl
@[simp] theorem State.setReq_nextId (s : State) (i : Nat) (x : Req) : (s.setReq i x).nextId = s.nextId := rfl
@[simp] theorem State.setReq_nextGrid (s : State) (i : Nat) (x : Req) : (s.setReq i x).nextGrid = s.nextGrid := rfl
@[simp] theorem State.setReq_host (s : State) (i : Nat) (x : Req) : (s.setReq i x).host = s.host := rfl
@[simp] theorem State.setReq_reqs (s : State) (i : Nat) (x : Req) : (s.setReq i x).reqs = Map.set s.reqs i x := rfl

@[simp] theorem State.tell_node (s : State) (x : HostMsg) : (s.tell x).node = s.node := rfl
@[simp] theorem State.tell_cycle (s : State) (x : HostMsg) : (s.tell x).cycle = s.cycle := rfl
@[simp] theorem State.tell_mem (s : State) (x : HostMsg) : (s.tell x).mem = s.mem := rfl
@[simp] theorem State.tell_pend (s : State) (x : HostMsg) : (s.tell x).pend = s.pend := rfl
@[simp] theorem State.tell_dev (s : State) (x : HostMsg) : (s.tell x).dev = s.dev := rfl
@[simp] theorem State.tell_frames (s : State) (x : HostMsg) : (s.tell x).frames = s.frames := rfl
@[simp] theorem State.tell_common (s : State) (x : HostMsg) : (s.tell x).common = s.common := rfl
@[simp] theorem State.tell_cores (s : State) (x : HostMsg) : (s.tell x).cores = s.cores := rfl
@[simp] theorem State.tell_tlb2 (s : State) (x : HostMsg) : (s.tell x).tlb2 = s.tlb2 := rfl
@[simp] theorem State.tell_hints (s : State) (x : HostMsg) : (s.tell x).hints = s.hints := rfl
@[simp] theorem State.tell_pageReqs (s : State) (x : HostMsg) : (s.tell x).pageReqs = s.pageReqs := rfl
@[simp] theorem State.tell_nextTag (s : State) (x : HostMsg) : (s.tell x).nextTag = s.nextTag := rfl
@[simp] theorem State.tell_signals (s : State) (x : HostMsg) : (s.tell x).signals = s.signals := rfl
@[simp] theorem State.tell_fabOut (s : State) (x : HostMsg) : (s.tell x).fabOut = s.fabOut := rfl
@[simp] theorem State.tell_fabHeld (s : State) (x : HostMsg) : (s.tell x).fabHeld = s.fabHeld := rfl
@[simp] theorem State.tell_collIn (s : State) (x : HostMsg) : (s.tell x).collIn = s.collIn := rfl
@[simp] theorem State.tell_poolCommon (s : State) (x : HostMsg) : (s.tell x).poolCommon = s.poolCommon := rfl
@[simp] theorem State.tell_poolHeld (s : State) (x : HostMsg) : (s.tell x).poolHeld = s.poolHeld := rfl
@[simp] theorem State.tell_portWait (s : State) (x : HostMsg) : (s.tell x).portWait = s.portWait := rfl
@[simp] theorem State.tell_portIn (s : State) (x : HostMsg) : (s.tell x).portIn = s.portIn := rfl
@[simp] theorem State.tell_egress (s : State) (x : HostMsg) : (s.tell x).egress = s.egress := rfl
@[simp] theorem State.tell_ending (s : State) (x : HostMsg) : (s.tell x).ending = s.ending := rfl
@[simp] theorem State.tell_mapq (s : State) (x : HostMsg) : (s.tell x).mapq = s.mapq := rfl
@[simp] theorem State.tell_saves (s : State) (x : HostMsg) : (s.tell x).saves = s.saves := rfl
@[simp] theorem State.tell_cmdq (s : State) (x : HostMsg) : (s.tell x).cmdq = s.cmdq := rfl
@[simp] theorem State.tell_resetCtxs (s : State) (x : HostMsg) : (s.tell x).resetCtxs = s.resetCtxs := rfl
@[simp] theorem State.tell_modFab (s : State) (x : HostMsg) : (s.tell x).modFab = s.modFab := rfl
@[simp] theorem State.tell_invq (s : State) (x : HostMsg) : (s.tell x).invq = s.invq := rfl
@[simp] theorem State.tell_scrub (s : State) (x : HostMsg) : (s.tell x).scrub = s.scrub := rfl
@[simp] theorem State.tell_moves (s : State) (x : HostMsg) : (s.tell x).moves = s.moves := rfl
@[simp] theorem State.tell_rotation (s : State) (x : HostMsg) : (s.tell x).rotation = s.rotation := rfl
@[simp] theorem State.tell_audits (s : State) (x : HostMsg) : (s.tell x).audits = s.audits := rfl
@[simp] theorem State.tell_vfs (s : State) (x : HostMsg) : (s.tell x).vfs = s.vfs := rfl
@[simp] theorem State.tell_ctxs (s : State) (x : HostMsg) : (s.tell x).ctxs = s.ctxs := rfl
@[simp] theorem State.tell_reqs (s : State) (x : HostMsg) : (s.tell x).reqs = s.reqs := rfl
@[simp] theorem State.tell_grids (s : State) (x : HostMsg) : (s.tell x).grids = s.grids := rfl
@[simp] theorem State.tell_teams (s : State) (x : HostMsg) : (s.tell x).teams = s.teams := rfl
@[simp] theorem State.tell_groups (s : State) (x : HostMsg) : (s.tell x).groups = s.groups := rfl
@[simp] theorem State.tell_sched (s : State) (x : HostMsg) : (s.tell x).sched = s.sched := rfl
@[simp] theorem State.tell_cur (s : State) (x : HostMsg) : (s.tell x).cur = s.cur := rfl
@[simp] theorem State.tell_free (s : State) (x : HostMsg) : (s.tell x).free = s.free := rfl
@[simp] theorem State.tell_nextId (s : State) (x : HostMsg) : (s.tell x).nextId = s.nextId := rfl
@[simp] theorem State.tell_nextGrid (s : State) (x : HostMsg) : (s.tell x).nextGrid = s.nextGrid := rfl
@[simp] theorem State.tell_host (s : State) (x : HostMsg) : (s.tell x).host = s.host ++ [x] := rfl

/-! ### Parts under updates -/

@[simp] theorem State.group?_setGroup (s : State) (i : Nat) (x : Group) : (s.setGroup i x).group? i = some x :=
  Map.get?_set_self _ _ _
theorem State.group?_setGroup_ne (s : State) (i j : Nat) (x : Group) (h : j ≠ i) : (s.setGroup i x).group? j = s.group? j :=
  Map.get?_set_ne _ _ _ _ h
@[simp] theorem State.setGroup_setGroup (s : State) (i : Nat) (x y : Group) : (s.setGroup i x).setGroup i y = s.setGroup i y := by
  simp [State.setGroup, Map.set_set]

@[simp] theorem State.group?_setTeam (s : State) (i j : Nat) (x : Team) : (s.setTeam i x).group? j = s.group? j := rfl
@[simp] theorem State.group?_setGrid (s : State) (i j : Nat) (x : Grid) : (s.setGrid i x).group? j = s.group? j := rfl
@[simp] theorem State.group?_setCtx (s : State) (i j : Nat) (x : Ctx) : (s.setCtx i x).group? j = s.group? j := rfl

@[simp] theorem State.team?_setTeam (s : State) (i : Nat) (x : Team) : (s.setTeam i x).team? i = some x :=
  Map.get?_set_self _ _ _
theorem State.team?_setTeam_ne (s : State) (i j : Nat) (x : Team) (h : j ≠ i) : (s.setTeam i x).team? j = s.team? j :=
  Map.get?_set_ne _ _ _ _ h
@[simp] theorem State.setTeam_setTeam (s : State) (i : Nat) (x y : Team) : (s.setTeam i x).setTeam i y = s.setTeam i y := by
  simp [State.setTeam, Map.set_set]

@[simp] theorem State.team?_setGroup (s : State) (i j : Nat) (x : Group) : (s.setGroup i x).team? j = s.team? j := rfl
@[simp] theorem State.team?_setGrid (s : State) (i j : Nat) (x : Grid) : (s.setGrid i x).team? j = s.team? j := rfl
@[simp] theorem State.team?_setCtx (s : State) (i j : Nat) (x : Ctx) : (s.setCtx i x).team? j = s.team? j := rfl

@[simp] theorem State.grid?_setGrid (s : State) (i : Nat) (x : Grid) : (s.setGrid i x).grid? i = some x :=
  Map.get?_set_self _ _ _
theorem State.grid?_setGrid_ne (s : State) (i j : Nat) (x : Grid) (h : j ≠ i) : (s.setGrid i x).grid? j = s.grid? j :=
  Map.get?_set_ne _ _ _ _ h
@[simp] theorem State.setGrid_setGrid (s : State) (i : Nat) (x y : Grid) : (s.setGrid i x).setGrid i y = s.setGrid i y := by
  simp [State.setGrid, Map.set_set]

@[simp] theorem State.grid?_setGroup (s : State) (i j : Nat) (x : Group) : (s.setGroup i x).grid? j = s.grid? j := rfl
@[simp] theorem State.grid?_setTeam (s : State) (i j : Nat) (x : Team) : (s.setTeam i x).grid? j = s.grid? j := rfl
@[simp] theorem State.grid?_setCtx (s : State) (i j : Nat) (x : Ctx) : (s.setCtx i x).grid? j = s.grid? j := rfl

@[simp] theorem State.ctx?_setCtx (s : State) (i : Nat) (x : Ctx) : (s.setCtx i x).ctx? i = some x :=
  Map.get?_set_self _ _ _
theorem State.ctx?_setCtx_ne (s : State) (i j : Nat) (x : Ctx) (h : j ≠ i) : (s.setCtx i x).ctx? j = s.ctx? j :=
  Map.get?_set_ne _ _ _ _ h
@[simp] theorem State.setCtx_setCtx (s : State) (i : Nat) (x y : Ctx) : (s.setCtx i x).setCtx i y = s.setCtx i y := by
  simp [State.setCtx, Map.set_set]

@[simp] theorem State.ctx?_setGroup (s : State) (i j : Nat) (x : Group) : (s.setGroup i x).ctx? j = s.ctx? j := rfl
@[simp] theorem State.ctx?_setTeam (s : State) (i j : Nat) (x : Team) : (s.setTeam i x).ctx? j = s.ctx? j := rfl
@[simp] theorem State.ctx?_setGrid (s : State) (i j : Nat) (x : Grid) : (s.setGrid i x).ctx? j = s.ctx? j := rfl

@[simp] theorem State.vf_setVf (s : State) (i : Nat) (x : Vf) : (s.setVf i x).vf i = x := by
  simp [State.vf, State.setVf, Map.get?_set_self]
theorem State.vf_setVf_ne (s : State) (i j : Nat) (x : Vf) (h : j ≠ i) : (s.setVf i x).vf j = s.vf j := by
  simp [State.vf, State.setVf, Map.get?_set_ne _ _ _ _ h]

@[simp] theorem State.core_setCore (s : State) (i : Nat) (x : Core) : (s.setCore i x).core i = x := by
  simp [State.core, State.setCore, Map.get?_set_self]
theorem State.core_setCore_ne (s : State) (i j : Nat) (x : Core) (h : j ≠ i) : (s.setCore i x).core j = s.core j := by
  simp [State.core, State.setCore, Map.get?_set_ne _ _ _ _ h]

@[simp] theorem State.frame_setFrame (s : State) (i : Nat) (x : Frame) : (s.setFrame i x).frame i = x := by
  simp [State.frame, State.setFrame, Map.get?_set_self]
theorem State.frame_setFrame_ne (s : State) (i j : Nat) (x : Frame) (h : j ≠ i) : (s.setFrame i x).frame j = s.frame j := by
  simp [State.frame, State.setFrame, Map.get?_set_ne _ _ _ _ h]

@[simp] theorem State.req_setReq (s : State) (i : Nat) (x : Req) : (s.setReq i x).req i = x := by
  simp [State.req, State.setReq, Map.get?_set_self]
theorem State.req_setReq_ne (s : State) (i j : Nat) (x : Req) (h : j ≠ i) : (s.setReq i x).req j = s.req j := by
  simp [State.req, State.setReq, Map.get?_set_ne _ _ _ _ h]

theorem State.modGroup_of (s : State) (i : Nat) (f : Group → Group) (x : Group) (h : s.group? i = some x) :
    s.modGroup i f = s.setGroup i (f x) := by
  simp [State.modGroup, h]

theorem State.modTeam_of (s : State) (i : Nat) (f : Team → Team) (x : Team) (h : s.team? i = some x) :
    s.modTeam i f = s.setTeam i (f x) := by
  simp [State.modTeam, h]

theorem State.modGrid_of (s : State) (i : Nat) (f : Grid → Grid) (x : Grid) (h : s.grid? i = some x) :
    s.modGrid i f = s.setGrid i (f x) := by
  simp [State.modGrid, h]

theorem State.modCtx_of (s : State) (i : Nat) (f : Ctx → Ctx) (x : Ctx) (h : s.ctx? i = some x) :
    s.modCtx i f = s.setCtx i (f x) := by
  simp [State.modCtx, h]

/-- The slot that a group has after one is replaced. -/
@[simp] theorem Group.slot_setSlot (g : Group) (i : Bool) (x : Slot) : (g.setSlot i x).slot i = x := by
  cases i <;> rfl

@[simp] theorem Group.slot_setSlot_not (g : Group) (i : Bool) (x : Slot) : (g.setSlot i x).slot (!i) = g.slot (!i) := by
  cases i <;> rfl

@[simp] theorem Group.setSlot_setSlot (g : Group) (i : Bool) (x y : Slot) : (g.setSlot i x).setSlot i y = g.setSlot i y := by
  cases i <;> rfl

@[simp] theorem Group.setSlot_regs (g : Group) (i : Bool) (x : Slot) : (g.setSlot i x).regs = g.regs := by
  cases i <;> rfl

end Sys2Proof.Machine
end

