-- ==== Sys2Proof/Laws/Env.lean ====
section
/-! SUPPORT. The issuing slot and what the shared operations do to its group, each as one equation that a proof cites. -/

namespace Sys2Proof.Machine

/-! ### The issuing slot -/

theorem State.envOf_parts {s : State} {u : Cur} {e : Env} (h : s.envOf u = some e) :
    s.group? e.gid = some e.g ∧ s.team? e.g.team = some e.t ∧ s.grid? e.t.grid = some e.gr ∧ s.ctx? e.gr.ctx = some e.c := by
  unfold State.envOf at h
  split at h
  · cases h
  · split at h
    · cases h
    · split at h
      · cases h
      · split at h
        · cases h
        · cases h; exact ⟨by assumption, by assumption, by assumption, by assumption⟩

theorem State.env?_parts {s : State} {e : Env} (h : s.env? = some e) :
    s.group? e.gid = some e.g ∧ s.team? e.g.team = some e.t ∧ s.grid? e.t.grid = some e.gr ∧ s.ctx? e.gr.ctx = some e.c := by
  unfold State.env? at h
  split at h
  · cases h
  · exact State.envOf_parts h

theorem State.env?_group {s : State} {e : Env} (h : s.env? = some e) : s.group? e.gid = some e.g :=
  (State.env?_parts h).1

theorem State.issue_of {s : State} {e : Env} (h : s.env? = some e) (k : Env → State → Res) :
    s.issue k = .next ((k e s).settle e) := by
  simp [State.issue, h]

/-! ### The issuing group changed -/

theorem State.upd_of {s : State} {e : Env} {g : Group} (h : s.group? e.gid = some g) (f : Group → Group) :
    s.upd e f = s.setGroup e.gid (f g) :=
  State.modGroup_of s e.gid f g h

theorem State.updRegs_of {s : State} {e : Env} {g : Group} (h : s.group? e.gid = some g) (f : Regs → Regs) :
    s.updRegs e f = s.setGroup e.gid { g with regs := f g.regs } :=
  State.modGroup_of s e.gid _ g h

theorem State.updSlot_of {s : State} {e : Env} {g : Group} (h : s.group? e.gid = some g) (f : Slot → Slot) :
    s.updSlot e f = s.setGroup e.gid (g.modSlot e.slot f) :=
  State.modGroup_of s e.gid _ g h

theorem State.setFlags_of {s : State} {e : Env} {g : Group} (h : s.group? e.gid = some g) (fl : Flags) :
    s.setFlags e fl = s.setGroup e.gid { g with regs := { g.regs with astat := g.regs.astat ||| fl.bits } } :=
  State.updRegs_of h _

theorem State.advance_of {s : State} {e : Env} {g : Group} (h : s.group? e.gid = some g) :
    s.advance e = s.setGroup e.gid (g.modSlot e.slot fun x => { x.clear with pc := e.pc + BitVec.ofNat 64 e.len }) :=
  State.updSlot_of h _

theorem State.jump_of {s : State} {e : Env} {g : Group} (h : s.group? e.gid = some g) (a : BitVec 64) :
    s.jump e a = s.setGroup e.gid (g.modSlot e.slot fun x => { x.clear with pc := a }) :=
  State.updSlot_of h _

/-- A scalar s0 to s60 written, and the unit passed. -/
theorem State.putS_of {s : State} {e : Env} {g : Group} {d : BitVec 6} (h : s.group? e.gid = some g) (hd : d.toNat < 61)
    (x : BitVec 64) :
    s.putS e d x = .ok (s.setGroup e.gid
      { (g.modSlot e.slot fun x => { x.clear with pc := e.pc + BitVec.ofNat 64 e.len }) with regs := g.regs.setS d.toNat x }) := by
  unfold State.putS
  rw [State.advance_of h]
  simp only [hd, if_true]
  rw [State.updRegs_of (State.group?_setGroup s e.gid _)]
  simp [Group.modSlot]

/-- A scalar destination written and the unit passed, whatever it names, where no other path takes a freed slot (R68, R72). -/
theorem State.putS_noPop {s : State} {e : Env} {g : Group} {d : BitVec 6} {x : BitVec 64} (h : s.group? e.gid = some g)
    (hg : g.dormant = e.g.dormant) (ho : (g.slot (!e.slot)).live = e.otherLive) (hp : g.depth = e.g.depth) (hd : e.NoPop d x) :
    s.putS e d x = .ok (s.setGroup e.gid
      (e.withScalar (g.modSlot e.slot fun x => { x.clear with pc := e.pc + BitVec.ofNat 64 e.len }) d x)) := by
  by_cases h61 : d.toNat < 61
  · rw [State.putS_of h h61]
    simp [Env.withScalar, h61, Group.modSlot]
  · have hd' := hd (by omega)
    unfold State.putS
    dsimp only
    rw [if_neg h61, h, State.advance_of h]
    dsimp only
    rw [State.upd_of (State.group?_setGroup s e.gid _), State.setGroup_setGroup, State.updSlot_of (State.group?_setGroup s e.gid _),
      State.setGroup_setGroup]
    rw [hg]
    unfold Env.withScalar
    rw [if_neg h61]
    generalize emWrite e.lanes e.g.dormant (d.toNat - 61) x = w at hd' ⊢
    obtain ⟨m, dm⟩ := w
    dsimp only at hd' ⊢
    by_cases hm : m = 0
    · obtain ⟨h1, h2⟩ := hd' hm
      rw [if_pos hm, if_pos hm]
      unfold State.freeSlot
      rw [State.group?_setGroup]
      rw [h1] at ho; rw [h2] at hp
      rcases e with ⟨gid, slot, pc, len, pfx, nx, eg, et, gr, c, hb⟩
      cases slot <;>
        simp_all [Group.modSlot, Group.setSlot, Group.slot, State.setGroup_setGroup, Res.orUndo]
    · rw [if_neg hm, if_neg hm]
      rcases e with ⟨gid, slot, pc, len, pfx, nx, eg, et, gr, c, hb⟩
      cases slot <;> rfl

end Sys2Proof.Machine
end

