-- ==== Sys2Proof/Laws/Elementwise.lean ====
section
/-! SUPPORT. What the element-wise mould does, destination by destination: one equation each (R68, R73, R76, R129, R323). -/

namespace Sys2Proof.Machine

theorem mkLanes_congr {f g : Nat → Word} (h : ∀ l, l < 96 → f l = g l) : mkLanes f = mkLanes g :=
  List.map_congr_left fun l hl => h l (List.mem_range.mp hl)

theorem mkMask_congr {f g : Nat → Bool} (h : ∀ l, l < 96 → f l = g l) : mkMask f = mkMask g := by
  unfold mkMask
  congr 1
  refine List.foldr_ext _ _ 0 fun l hl acc => ?_
  rw [h l (List.mem_range.mp hl)]

theorem lane_mkLanes (f : Nat → Word) {l : Nat} (h : l < 96) : lane (mkLanes f) l = f l := by
  simp [lane, mkLanes, h]

theorem mkMask_val (p : Nat → Bool) (n : Nat) :
    ∀ l, ((List.range n).foldr (fun l acc => if p l then acc ||| 2 ^ l else acc) 0).testBit l = (decide (l < n) && p l) := by
  suffices h : ∀ (ls : List Nat) (l : Nat),
      (ls.foldr (fun l acc => if p l then acc ||| 2 ^ l else acc) 0).testBit l = (decide (l ∈ ls) && p l) by
    intro l; simpa using h (List.range n) l
  intro ls
  induction ls with
  | nil => intro l; simp
  | cons a ls ih =>
    intro l
    by_cases hp : p a
    · by_cases hl : l = a
      · subst hl; simp [hp]
      · have hl' : ¬a = l := fun h => hl h.symm
        simp [hp, ih, Nat.testBit_or, hl, hl']
    · by_cases hl : l = a
      · subst hl; simp [hp, ih]
      · simp [hp, ih, hl]

/-- A mask's bit is the condition of its lane. -/
@[simp] theorem getLsbD_mkMask (p : Nat → Bool) (l : Nat) : (mkMask p).getLsbD l = (decide (l < 96) && p l) := by
  unfold mkMask
  rw [BitVec.getLsbD_ofNat, mkMask_val]
  by_cases h : l < 96 <;> simp [h]

theorem mergeLanes_congr {m : LaneMask} {a b : Lanes} (old : Lanes) (h : ∀ l, l < 96 → m.getLsbD l = true → lane a l = lane b l) :
    mergeLanes m a old = mergeLanes m b old := by
  refine mkLanes_congr fun l hl => ?_
  by_cases hm : m.getLsbD l = true
  · simp [hm, h l hl hm]
  · simp [hm]

theorem Regs.setVec_congr (r : Regs) (n : Nat) {m : LaneMask} {a b : Lanes}
    (h : ∀ l, l < 96 → m.getLsbD l = true → lane a l = lane b l) : r.setVec n m a = r.setVec n m b := by
  simp [Regs.setVec, mergeLanes_congr _ h]

theorem Regs.setPred_congr (r : Regs) (n : Nat) (m a b : LaneMask)
    (h : ∀ l, l < 96 → m.getLsbD l = true → a.getLsbD l = b.getLsbD l) : r.setPred n m a = r.setPred n m b := by
  have : a &&& m = b &&& m := by
    ext l hl
    by_cases hm : m.getLsbD l = true
    · have := h l hl hm
      simp only [BitVec.getLsbD_eq_getElem hl] at hm this
      simp [hm, this]
    · simp only [BitVec.getLsbD_eq_getElem hl] at hm
      simp [hm]
  simp [Regs.setPred, this]

/-- What lane l computes in the mould. -/
def Env.mouldLane (e : Env) (x : XArgs) (k : ImmKind) (t : Ty) (f : Nat → Nat → Nat → Nat → Lane) (l : Nat) : Lane :=
  f l ((e.val x k t x.a).at l) ((e.val x k t x.b).at l) ((e.val x k t x.c).at l)

/-- The lanes of the mould: those outside active(slot) compute nothing. -/
def Env.mouldLanes (e : Env) (x : XArgs) (k : ImmKind) (t : Ty) (f : Nat → Nat → Nat → Nat → Lane) : List Lane :=
  (List.range 96).map fun l => if (e.active x).getLsbD l then e.mouldLane x k t f l else { val := 0 }

theorem Env.using_ready {e : Env} {u : Use} (h : e.Ready u) (s : State) (k : Flags → Res) :
    e.using s u k = k (e.deadFlag u) := by
  unfold Env.using
  rw [h.1, h.2]
  rfl

theorem Env.flagged_quiet {e : Env} {fl : Flags} (h : e.Quiet fl) (s : State) (m : LaneMask) (k : State → Res) :
    e.flagged s fl m k = k (s.setFlags e fl) := by
  unfold Env.flagged
  rw [h]

theorem Regs.kill_astat (r : Regs) (ns : List Nat) : (r.kill ns).astat = r.astat := rfl

/-- A result delivered to a vector register, after its flags. -/
theorem Env.finish_vec {s : State} {e : Env} (h : s.env? = some e) {x : XArgs} {d : BitVec 8} (hd : x.dst = .vec d) (u : Use)
    {fl : Flags} (hq : e.Quiet fl) (m : LaneMask) (rs : List Lanes) :
    e.finish s x u fl m (.vec rs) = .ok (s.setGroup e.gid
      { (e.passed.modSlot e.slot fun y => y.wrote d.toNat rs.length) with
        regs := (e.readRegs u fl).setVecs d.toNat (e.active x) rs }) := by
  unfold Env.finish
  rw [Env.flagged_quiet hq]
  unfold Env.deliver
  rw [hd, State.setFlags_of (State.env?_group h)]
  dsimp only
  rw [State.updRegs_of (State.group?_setGroup s e.gid _)]
  unfold State.putVec
  rw [State.setGroup_setGroup, State.advance_of (State.group?_setGroup s e.gid _)]
  rw [State.setGroup_setGroup, State.updRegs_of (State.group?_setGroup s e.gid _)]
  rw [State.setGroup_setGroup, State.updSlot_of (State.group?_setGroup s e.gid _), State.setGroup_setGroup]
  congr 2
  rcases e with ⟨gid, slot, pc, len, pfx, nx, g, t, gr, c⟩
  cases slot <;> rfl

/-- A result delivered to a predicate, after its flags. -/
theorem Env.finish_pred {s : State} {e : Env} (h : s.env? = some e) {x : XArgs} {d : BitVec 3} (hd : x.dst = .pred d) (u : Use)
    {fl : Flags} (hq : e.Quiet fl) (m v : LaneMask) :
    e.finish s x u fl m (.pred v) = .ok (s.setGroup e.gid
      { e.passed with regs := (e.readRegs u fl).setPred d.toNat (e.active x) v }) := by
  unfold Env.finish
  rw [Env.flagged_quiet hq]
  unfold Env.deliver
  rw [hd, State.setFlags_of (State.env?_group h)]
  dsimp only
  rw [State.updRegs_of (State.group?_setGroup s e.gid _), State.setGroup_setGroup, State.advance_of (State.group?_setGroup s e.gid _)]
  rw [State.setGroup_setGroup, State.updRegs_of (State.group?_setGroup s e.gid _), State.setGroup_setGroup]
  congr 2
  rcases e with ⟨gid, slot, pc, len, pfx, nx, g, t, gr, c⟩
  cases slot <;> rfl

/-- A result delivered to a scalar s0 to s60, after its flags. -/
theorem Env.finish_scal {s : State} {e : Env} (h : s.env? = some e) {x : XArgs} {d : BitVec 6} (hd : x.dst = .scal d)
    (hn : d.toNat < 61) (u : Use) {fl : Flags} (hq : e.Quiet fl) (m : LaneMask) (v : BitVec 64) :
    e.finish s x u fl m (.scal v) = .ok (s.setGroup e.gid
      { e.passed with regs := (e.readRegs u fl).setS d.toNat v }) := by
  unfold Env.finish
  rw [Env.flagged_quiet hq]
  unfold Env.deliver
  rw [hd, State.setFlags_of (State.env?_group h)]
  dsimp only
  rw [State.updRegs_of (State.group?_setGroup s e.gid _), State.setGroup_setGroup, State.putS_of (State.group?_setGroup s e.gid _) hn,
    State.setGroup_setGroup]
  simp only [Res.orUndo]
  congr 2
  rcases e with ⟨gid, slot, pc, len, pfx, nx, g, t, gr, c⟩
  cases slot <;> rfl

/-- No result: flags and marks only. -/
theorem Env.finish_none {s : State} {e : Env} (h : s.env? = some e) {x : XArgs} (hd : x.dst = .discard) (u : Use)
    {fl : Flags} (hq : e.Quiet fl) (m : LaneMask) (o : Out) :
    e.finish s x u fl m o = .ok (s.setGroup e.gid { e.passed with regs := e.readRegs u fl }) := by
  unfold Env.finish
  rw [Env.flagged_quiet hq]
  unfold Env.deliver
  rw [hd, State.setFlags_of (State.env?_group h)]
  dsimp only
  rw [State.updRegs_of (State.group?_setGroup s e.gid _), State.setGroup_setGroup, State.advance_of (State.group?_setGroup s e.gid _),
    State.setGroup_setGroup]
  congr 2
  rcases e with ⟨gid, slot, pc, len, pfx, nx, g, t, gr, c⟩
  cases slot <;> rfl

theorem mouldLanes_lane {e : Env} {x : XArgs} {k : ImmKind} {t : Ty} {f : Nat → Nat → Nat → Nat → Lane} {l : Nat} (hl : l < 96)
    (ha : (e.active x).getLsbD l = true) :
    lane ((e.mouldLanes x k t f).map fun r => BitVec.ofNat 32 (r.val / 2 ^ 0)) l = BitVec.ofNat 32 (e.mouldLane x k t f l).val := by
  simp [lane, Env.mouldLanes, hl, ha]

/-- The mould with a vector destination. -/
theorem Env.elementwise_vec {s : State} {e : Env} (h : s.env? = some e) {x : XArgs} {d : BitVec 8} (hd : x.dst = .vec d) (n : Nat)
    (k : ImmKind) (t : Ty) (f : Nat → Nat → Nat → Nat → Lane) (hr : e.Ready (sourcesUse x n 1))
    (hq : e.Quiet ((e.deadFlag (sourcesUse x n 1)).or (laneFlags (e.mouldLanes x k t f)))) :
    e.elementwise s x n false k t f = .ok (s.setGroup e.gid
      { (e.passed.modSlot e.slot fun y => y.wrote d.toNat 1) with
        regs := (e.readRegs (sourcesUse x n 1) ((e.deadFlag (sourcesUse x n 1)).or (laneFlags (e.mouldLanes x k t f)))).setVec
          d.toNat (e.active x) (mkLanes fun l => BitVec.ofNat 32 (e.mouldLane x k t f l).val) }) := by
  unfold Env.elementwise
  simp only [Bool.false_eq_true, if_false]
  rw [show ({ srcs := ([x.a, x.b, x.c].take n).map fun a => (a, 1), dst := some x.dst, n := 1 } : Use) = sourcesUse x n 1 from rfl]
  rw [Env.using_ready hr]
  simp only [hd]
  refine (Env.finish_vec h hd _ hq _ _).trans ?_
  simp only [List.length_cons, List.length_nil, Regs.setVecs]
  congr 3
  refine Regs.setVec_congr _ _ fun l hl ha => ?_
  rw [lane_mkLanes _ hl]
  exact mouldLanes_lane hl ha

/-- The mould with a predicate destination. -/
theorem Env.elementwise_pred {s : State} {e : Env} (h : s.env? = some e) {x : XArgs} {d : BitVec 3} (hd : x.dst = .pred d) (n : Nat)
    (k : ImmKind) (t : Ty) (f : Nat → Nat → Nat → Nat → Lane) (hr : e.Ready (sourcesUse x n 1))
    (hq : e.Quiet ((e.deadFlag (sourcesUse x n 1)).or (laneFlags (e.mouldLanes x k t f)))) :
    e.elementwise s x n false k t f = .ok (s.setGroup e.gid { e.passed with
      regs := (e.readRegs (sourcesUse x n 1) ((e.deadFlag (sourcesUse x n 1)).or (laneFlags (e.mouldLanes x k t f)))).setPred
        d.toNat (e.active x) (mkMask fun l => (e.mouldLane x k t f l).val % 2 == 1) }) := by
  unfold Env.elementwise
  simp only [Bool.false_eq_true, if_false]
  rw [show ({ srcs := ([x.a, x.b, x.c].take n).map fun a => (a, 1), dst := some x.dst, n := 1 } : Use) = sourcesUse x n 1 from rfl]
  rw [Env.using_ready hr]
  simp only [hd]
  refine (Env.finish_pred h hd _ hq _ _).trans ?_
  congr 2
  dsimp only
  congr 1
  refine Regs.setPred_congr _ _ _ _ _ fun l hl ha => ?_
  simp only [getLsbD_mkMask, hl, decide_true, Bool.true_and]
  simp [hl, ha, Env.mouldLane]

/-- The mould with a scalar destination s0 to s60. -/
theorem Env.elementwise_scal {s : State} {e : Env} (h : s.env? = some e) {x : XArgs} {d : BitVec 6} (hd : x.dst = .scal d)
    (hn : d.toNat < 61) (n : Nat) (k : ImmKind) (t : Ty) (f : Nat → Nat → Nat → Nat → Lane) (hr : e.Ready (sourcesUse x n 1))
    (hq : e.Quiet ((e.deadFlag (sourcesUse x n 1)).or (e.mouldLane x k t f 0).fl)) :
    e.elementwise s x n false k t f = .ok (s.setGroup e.gid { e.passed with
      regs := (e.readRegs (sourcesUse x n 1) ((e.deadFlag (sourcesUse x n 1)).or (e.mouldLane x k t f 0).fl)).setS
        d.toNat (BitVec.ofNat 64 ((e.mouldLane x k t f 0).val % 2 ^ 32)) }) := by
  unfold Env.elementwise
  simp only [Bool.false_eq_true, if_false]
  rw [show ({ srcs := ([x.a, x.b, x.c].take n).map fun a => (a, 1), dst := some x.dst, n := 1 } : Use) = sourcesUse x n 1 from rfl]
  rw [Env.using_ready hr]
  simp only [hd]
  exact Env.finish_scal h hd hn _ hq _ _

/-- The mould with the discard destination. -/
theorem Env.elementwise_discard {s : State} {e : Env} (h : s.env? = some e) {x : XArgs} (hd : x.dst = .discard) (n : Nat)
    (k : ImmKind) (t : Ty) (f : Nat → Nat → Nat → Nat → Lane) (hr : e.Ready (sourcesUse x n 1))
    (hq : e.Quiet ((e.deadFlag (sourcesUse x n 1)).or (laneFlags (e.mouldLanes x k t f)))) :
    e.elementwise s x n false k t f = .ok (s.setGroup e.gid { e.passed with
      regs := e.readRegs (sourcesUse x n 1) ((e.deadFlag (sourcesUse x n 1)).or (laneFlags (e.mouldLanes x k t f))) }) := by
  unfold Env.elementwise
  simp only [Bool.false_eq_true, if_false]
  rw [show ({ srcs := ([x.a, x.b, x.c].take n).map fun a => (a, 1), dst := some x.dst, n := 1 } : Use) = sourcesUse x n 1 from rfl]
  rw [Env.using_ready hr]
  simp only [hd]
  exact Env.finish_none h hd _ hq _ _

end Sys2Proof.Machine
end

