-- ==== Sys2Proof/Laws/Memory.lean ====
section
/-! SUPPORT. Memory: its canonical form as an order and a non-zero condition, what a byte reads after a write, and that
every operation on memory keeps the form (logs 3, 4). -/

namespace Sys2Proof.Machine

/-! ### The canonical form -/

/-- The form says: addresses strictly rising, and no zero listed. -/
theorem memWf_iff (m : List Host.Cell) :
    memWf m = true ↔ m.Pairwise (fun x y => x.1 < y.1) ∧ ∀ c ∈ m, c.2 ≠ 0 := by
  induction m with
  | nil => simp [memWf]
  | cons c m ih =>
    obtain ⟨a, b⟩ := c
    cases m with
    | nil => simp [memWf]
    | cons d m =>
      obtain ⟨a', b'⟩ := d
      simp only [memWf, Bool.and_eq_true, decide_eq_true_eq, ih]
      constructor
      · rintro ⟨⟨hb, ha⟩, hp, hz⟩
        refine ⟨List.pairwise_cons.mpr ⟨fun x hx => ?_, hp⟩, fun x hx => ?_⟩
        · rcases List.mem_cons.mp hx with rfl | hx
          · exact ha
          · exact Nat.lt_trans ha ((List.pairwise_cons.mp hp).1 x hx)
        · rcases List.mem_cons.mp hx with rfl | hx
          · exact hb
          · exact hz x hx
      · rintro ⟨hp, hz⟩
        have hp' := List.pairwise_cons.mp hp
        exact ⟨⟨hz (a, b) (by simp), hp'.1 (a', b') (by simp)⟩, hp'.2, fun x hx => hz x (List.mem_cons_of_mem _ hx)⟩

theorem memWf_filter {m : List Host.Cell} (p : Host.Cell → Bool) (h : memWf m = true) : memWf (m.filter p) = true := by
  rw [memWf_iff] at *
  exact ⟨h.1.filter _, fun c hc => h.2 c (List.mem_filter.mp hc).1⟩

/-- Every key of a map with one added is that one or was there. -/
theorem Map.mem_set {α : Type} (m : Map α) (i : Nat) (x : α) : ∀ c ∈ Map.set m i x, c = (i, x) ∨ c ∈ m := by
  induction m with
  | nil => intro c hc; simpa [Map.set] using hc
  | cons p m ih =>
    obtain ⟨k, v⟩ := p
    intro c hc
    simp only [Map.set] at hc
    split at hc
    · rcases List.mem_cons.mp hc with h | h
      · exact .inl h
      · exact .inr h
    · split at hc
      · rcases List.mem_cons.mp hc with h | h
        · exact .inl h
        · exact .inr (List.mem_cons_of_mem _ h)
      · rcases List.mem_cons.mp hc with h | h
        · exact .inr (by simp [h])
        · rcases ih c h with h | h
          · exact .inl h
          · exact .inr (List.mem_cons_of_mem _ h)

theorem Map.pairwise_set {α : Type} (m : Map α) (i : Nat) (x : α) (h : m.Pairwise fun x y => x.1 < y.1) :
    (Map.set m i x).Pairwise fun x y => x.1 < y.1 := by
  induction m with
  | nil => simp [Map.set]
  | cons p m ih =>
    obtain ⟨k, v⟩ := p
    have hp := List.pairwise_cons.mp h
    simp only [Map.set]
    split
    · refine List.pairwise_cons.mpr ⟨fun c hc => ?_, h⟩
      rcases List.mem_cons.mp hc with rfl | hc
      · assumption
      · exact Nat.lt_trans ‹i < k› (hp.1 c hc)
    · split
      · subst_vars
        exact List.pairwise_cons.mpr ⟨hp.1, hp.2⟩
      · refine List.pairwise_cons.mpr ⟨fun c hc => ?_, ih hp.2⟩
        rcases Map.mem_set m i x c hc with rfl | hc
        · show k < i
          omega
        · exact hp.1 c hc

/-- A byte written keeps the form. -/
theorem memWf_memSetByte {m : List Host.Cell} (a : Nat) (b : Byte) (h : memWf m = true) : memWf (memSetByte m a b) = true := by
  unfold memSetByte
  split
  · exact memWf_filter _ h
  · rw [memWf_iff] at *
    refine ⟨Map.pairwise_set m a b h.1, fun c hc => ?_⟩
    rcases Map.mem_set m a b c hc with rfl | hc
    · assumption
    · exact h.2 c hc

/-- Bytes written keep the form. -/
theorem memWf_memSetBytes {m : List Host.Cell} (a : Nat) (bs : List Byte) (h : memWf m = true) :
    memWf (memSetBytes m a bs) = true := by
  induction bs generalizing m a with
  | nil => exact h
  | cons b bs ih => exact ih _ (memWf_memSetByte a b h)

/-! ### What a byte reads -/

theorem Map.get?_del {α : Type} (m : Map α) (i j : Nat) : Map.get? (Map.del m i) j = if j = i then none else Map.get? m j := by
  induction m with
  | nil => simp [Map.del, Map.get?]
  | cons p m ih =>
    obtain ⟨k, v⟩ := p
    have hd : Map.del ((k, v) :: m) i = if k = i then Map.del m i else (k, v) :: Map.del m i := by
      by_cases hk : k = i <;> simp [Map.del, hk]
    rw [hd]
    by_cases hk : k = i
    · subst hk
      rw [if_pos rfl, ih]
      by_cases hj : j = k
      · simp [hj]
      · have hj' : ¬k = j := fun e => hj e.symm
        simp [hj, hj', Map.get?]
    · by_cases hj : j = i
      · subst hj
        simp [Map.get?, hk, ih]
      · by_cases hkj : k = j <;> simp [Map.get?, hk, hj, hkj, ih]

/-- A byte reads what was written there last, and every other byte as before. -/
theorem memByte_memSetByte (m : List Host.Cell) (a x : Nat) (b : Byte) :
    memByte (memSetByte m a b) x = if x = a then b else memByte m x := by
  unfold memByte memSetByte
  split
  · subst_vars
    rw [Map.get?_del]
    split <;> simp
  · by_cases hx : x = a
    · simp [hx, Map.get?_set_self]
    · simp [hx, Map.get?_set_ne]

/-- The bytes written read as they were written, and every other byte as before. -/
theorem memByte_memSetBytes (m : List Host.Cell) (a x : Nat) (bs : List Byte) :
    memByte (memSetBytes m a bs) x = if a ≤ x ∧ x < a + bs.length then bs.getD (x - a) 0 else memByte m x := by
  induction bs generalizing m a with
  | nil =>
    have h : ¬(a ≤ x ∧ x < a + 0) := by omega
    simp [memSetBytes]
  | cons b bs ih =>
    rw [memSetBytes, ih, memByte_memSetByte]
    by_cases h : a + 1 ≤ x ∧ x < a + 1 + bs.length
    · have h1 : a ≤ x ∧ x < a + (bs.length + 1) := by omega
      have h2 : x - a = x - (a + 1) + 1 := by omega
      simp [h, h1, h2]
    · by_cases hx : x = a
      · subst hx
        simp
      · have h1 : ¬(a ≤ x ∧ x < a + (bs.length + 1)) := by omega
        simp only [List.length_cons, h, h1, hx, if_false]

/-! ### Every operation on memory keeps the form -/

theorem State.memInv_of_mem {s t : State} (hm : t.mem = s.mem) (h : s.MemInv) : t.MemInv := by
  unfold State.MemInv at *
  rw [hm]
  exact h

@[simp] theorem State.modTeam_mem (s : State) (t : Nat) (f : Team → Team) : (s.modTeam t f).mem = s.mem := by
  unfold State.modTeam
  split <;> rfl

theorem State.memInv_commit {s : State} (p : PStore) (h : s.MemInv) : (s.commit p).MemInv := by
  unfold State.commit
  split
  · exact memWf_memSetBytes _ _ h
  · exact State.memInv_of_mem (by simp) h

theorem State.memInv_drainFrom (ps kept : List PStore) : ∀ {s : State}, s.MemInv → (s.drainFrom ps kept).MemInv := by
  induction ps generalizing kept with
  | nil => intro s h; exact h
  | cons p ps ih =>
    intro s h
    unfold State.drainFrom
    split
    · exact ih _ (State.memInv_commit p h)
    · exact ih _ h

theorem State.memInv_drain {s : State} (h : s.MemInv) : s.drain.MemInv := State.memInv_drainFrom _ _ h

@[simp] theorem State.fillOf_mem (f : PStore → Bool) (ps : List PStore) : ∀ s : State, (s.fillOf f ps).mem = s.mem := by
  induction ps with
  | nil => intro s; rfl
  | cons p ps ih =>
    intro s
    simp only [State.fillOf, ih]
    split
    · split <;> simp
    · rfl

theorem State.memInv_performAt {s : State} (x : Scope) (f : PStore → Bool) (h : s.MemInv) : (s.performAt x f).MemInv := by
  unfold State.performAt
  refine State.memInv_drain (State.memInv_of_mem (s := s) ?_ h)
  show State.mem (if x.covers .team then _ else s) = s.mem
  split <;> simp

theorem State.memInv_addStore {s : State} (gid team core : Nat) (sp : Option Nat) (a : Nat) (bs : List Byte) (level : Scope)
    (held : Bool) (h : s.MemInv) : (s.addStore gid team core sp a bs level held).MemInv := by
  unfold State.addStore
  split
  · exact h
  · refine State.memInv_drain (State.memInv_of_mem (s := s) ?_ h)
    show State.mem (match sp with
      | some t => _
      | none => s) = s.mem
    split
    · split <;> simp
    · rfl

theorem State.memInv_modWrite {s : State} (a : Nat) (bs : List Byte) (h : s.MemInv) : (s.modWrite a bs).MemInv :=
  State.memInv_addStore _ _ _ _ _ _ _ _ h

theorem State.memInv_modWriteNum {s : State} (a n x : Nat) (h : s.MemInv) : (s.modWriteNum a n x).MemInv :=
  State.memInv_modWrite _ _ h

theorem State.memInv_settleBytes {s : State} (sp : Option Nat) (a n : Nat) (x : Scope) (h : s.MemInv) :
    (s.settleBytes sp a n x).MemInv :=
  State.memInv_performAt _ _ h

/-! ### What a read sees (R166, R167) -/

/-- One store folded into what a viewer reads of a physical byte. -/
def seen (v : Viewer) (a : Nat) (acc : Byte) (p : PStore) : Byte :=
  if p.hits none a && p.visible v then p.bytes.getD (a - p.addr) 0 else acc

theorem State.byte_eq (s : State) (v : Viewer) (a : Nat) : s.byte v none a = s.pend.foldl (seen v a) (memByte s.mem a) := rfl

/-- A settled store to physical memory is seen by every agent. -/
theorem PStore.visible_of_settled {p : PStore} (hs : p.settled = true) (hp : p.sp = none) (v : Viewer) : p.visible v = true := by
  unfold PStore.settled at hs
  rw [hp] at hs
  have h : p.held = false ∧ p.level = .pod := by
    revert hs
    cases p.held <;> cases p.level <;> simp [Scope.covers, Scope.code]
  cases v <;> simp [PStore.visible, h.1, h.2, Scope.covers, Scope.code]

theorem seen_foldl_of_none {v : Viewer} {a : Nat} {ps : List PStore} (x : Byte) (h : ∀ q ∈ ps, q.hits none a = false) :
    ps.foldl (seen v a) x = x := by
  induction ps generalizing x with
  | nil => rfl
  | cons q ps ih =>
    have hq : seen v a x q = x := by simp [seen, h q (by simp)]
    rw [List.foldl_cons, hq]
    exact ih x fun r hr => h r (List.mem_cons_of_mem _ hr)

/-- Stores that move to where they are stored leave what every agent reads. -/
theorem State.byte_drainFrom (v : Viewer) (a : Nat) (ps : List PStore) : ∀ (kept : List PStore) (s : State),
    (s.drainFrom ps kept).byte v none a = (kept ++ ps).foldl (seen v a) (memByte s.mem a) := by
  induction ps with
  | nil => intro kept s; simp [State.drainFrom, State.byte_eq]
  | cons p ps ih =>
    intro kept s
    unfold State.drainFrom
    split
    · rename_i hc
      obtain ⟨hs, hk⟩ := Bool.and_eq_true_iff.mp hc
      rw [ih, List.foldl_append, List.foldl_append, List.foldl_cons]
      congr 1
      by_cases hp : p.hits none a = true
      · have hsp : p.sp = none ∧ p.addr ≤ a ∧ a < p.addr + p.bytes.length := by
          simpa [PStore.hits, and_assoc] using hp
        have hkept : ∀ q ∈ kept, q.hits none a = false := by
          intro q hq
          have hn : q.touches p.sp p.addr p.bytes.length = false := by
            have := hk
            simp only [Bool.not_eq_true', List.any_eq_false] at this
            simpa using this q hq
          by_contra hh
          have hh' : q.sp = none ∧ q.addr ≤ a ∧ a < q.addr + q.bytes.length := by
            simpa [PStore.hits, and_assoc] using hh
          have : q.touches p.sp p.addr p.bytes.length = true := by
            simp only [PStore.touches, hsp.1, hh'.1, Bool.and_eq_true, decide_eq_true_eq]
            exact ⟨⟨trivial, by omega⟩, by omega⟩
          simp [this] at hn
        rw [seen_foldl_of_none _ hkept, seen_foldl_of_none _ hkept]
        have hv := PStore.visible_of_settled hs hsp.1 v
        simp [seen, hp, hv, State.commit, hsp.1, memByte_memSetBytes, hsp.2.1, hsp.2.2]
      · have hp' : p.hits none a = false := by simpa using hp
        have hseen : ∀ x, seen v a x p = x := fun x => by simp [seen, hp']
        rw [hseen]
        congr 1
        unfold State.commit
        split
        · rename_i hsp
          have : ¬(p.addr ≤ a ∧ a < p.addr + p.bytes.length) := by
            intro h
            simp [PStore.hits, hsp, h.1, h.2] at hp'
          simp only [memByte_memSetBytes, this, if_false]
        · simp
    · rw [ih]
      simp

theorem State.byte_drain (s : State) (v : Viewer) (a : Nat) : s.drain.byte v none a = s.byte v none a := by
  unfold State.drain
  rw [State.byte_drainFrom]
  simp [State.byte_eq]

/-- Stores that write a byte that an agent does not see, or other bytes, change nothing of what it reads there. -/
theorem seen_foldl_filter {v : Viewer} {a : Nat} (f : PStore → Bool) {ps : List PStore}
    (h : ∀ q ∈ ps, f q = false → q.hits none a = false ∨ q.visible v = false) (x : Byte) :
    (ps.filter f).foldl (seen v a) x = ps.foldl (seen v a) x := by
  induction ps generalizing x with
  | nil => rfl
  | cons q ps ih =>
    have ih' := ih fun r hr => h r (List.mem_cons_of_mem _ hr)
    by_cases hf : f q = true
    · rw [List.filter_cons_of_pos hf, List.foldl_cons, List.foldl_cons, ih']
    · have hq : seen v a x q = x := by
        rcases h q (by simp) (by simpa using hf) with h | h <;> simp [seen, h]
      rw [List.filter_cons_of_neg hf, List.foldl_cons, hq, ih']

/-- No store that another team holds, and that an agent sees, writes a byte. -/
def State.Unheld (s : State) (team : Nat) (v : Viewer) (x : Nat) : Prop :=
  ∀ q ∈ s.pend, q.held = true → q.team ≠ team → q.hits none x = false ∨ q.visible v = false

/-- What enters the order behind a store is held by another team. -/
theorem PStore.mem_goBehind {p q : PStore} {l : List PStore} (h : q ∈ p.goBehind l) : q ∈ l ∧ q.held = true ∧ q.team ≠ p.team := by
  suffices ∀ (l acc : List PStore), q ∈ l.foldl (fun acc q =>
      if q.held && !q.pinned && q.team ≠ p.team && (q.touches p.sp p.addr p.bytes.length
        || acc.any fun r => r.team = q.team && q.touches r.sp r.addr r.bytes.length) then acc ++ [q] else acc) acc →
      q ∈ acc ∨ (q ∈ l ∧ q.held = true ∧ q.team ≠ p.team) by
    simpa using this l [] h
  intro l
  induction l with
  | nil => exact fun acc h => .inl h
  | cons r l ih =>
    intro acc h
    rw [List.foldl_cons] at h
    rcases ih _ h with h | ⟨h, hh⟩
    · split at h
      · rename_i hc
        simp only [Bool.and_eq_true, decide_eq_true_eq] at hc
        rcases List.mem_append.mp h with h | h
        · exact .inl h
        · rw [List.mem_singleton.mp h]
          exact .inr ⟨List.mem_cons_self, hc.1.1.1, hc.1.2⟩
      · exact .inl h
    · exact .inr ⟨List.mem_cons_of_mem _ h, hh⟩

/-- Fixing places in the order changes nothing of what an agent reads. -/
theorem PStore.seen_pin {v : Viewer} {a : Nat} (p : PStore) (l : List PStore) (x : Byte) :
    (p.pin l).foldl (seen v a) x = l.foldl (seen v a) x := by
  unfold PStore.pin
  induction l generalizing x with
  | nil => rfl
  | cons q l ih =>
    rw [List.foldr_cons, List.foldl_cons]
    split
    · rw [List.foldl_cons, ih]; rfl
    · rw [List.foldl_cons, ih]

/-- A store that takes its place in the order (R167). -/
theorem seen_insertStore {v : Viewer} {a : Nat} (p : PStore) {ps : List PStore}
    (h : ∀ q ∈ ps, q.held = true → q.team ≠ p.team → q.hits none a = false ∨ q.visible v = false) (x : Byte) :
    (insertStore p ps).foldl (seen v a) x = seen v a (ps.foldl (seen v a) x) p := by
  have none : ∀ q ∈ p.goBehind ps, q.hits none a = false ∨ q.visible v = false := fun q hq =>
    let ⟨hm, hh, ht⟩ := PStore.mem_goBehind hq
    h q hm hh ht
  have rest (y : Byte) : (p.goBehind ps).foldl (seen v a) y = y := by
    generalize p.goBehind ps = l at none
    induction l with
    | nil => rfl
    | cons q l ih =>
      have hq : seen v a y q = y := by rcases none q (by simp) with h | h <;> simp [seen, h]
      rw [List.foldl_cons, hq]
      exact ih fun r hr => none r (List.mem_cons_of_mem _ hr)
  have first : (ps.filter fun q => !(p.goBehind ps).contains q).foldl (seen v a) x = ps.foldl (seen v a) x :=
    seen_foldl_filter _ (fun q _ hf => none q (by simpa using hf)) x
  unfold insertStore
  simp only
  split
  · rw [List.foldl_append, PStore.seen_pin, List.foldl_cons, first, rest]; rfl
  · rw [List.foldl_append, List.foldl_cons, first, rest]

/-- A store to physical memory: an agent that sees it reads its bytes, and every other byte as before. -/
theorem State.byte_addStore (s : State) (gid team core : Nat) (a x : Nat) (bs : List Byte) (level : Scope) (held : Bool)
    (v : Viewer) (h : s.Unheld team v x) :
    (s.addStore gid team core none a bs level held).byte v none x =
      if (a ≤ x ∧ x < a + bs.length) ∧
          PStore.visible { id := s.nextId, gid, team, core, sp := none, addr := a, bytes := bs, level, held } v = true
      then bs.getD (x - a) 0 else s.byte v none x := by
  unfold State.addStore
  split
  · subst_vars
    have : ¬(a ≤ x ∧ x < a + ([] : List Byte).length) := by simp
    simp only [this, false_and, if_false]
  · rw [State.byte_drain]
    simp only [State.byte_eq]
    rw [seen_insertStore _ (fun q hq hh ht => h q hq hh ht)]
    cases v <;> simp [seen, PStore.hits, PStore.visible, and_assoc]

/-- A write of the module's own is read by every agent. -/
theorem State.byte_modWrite (s : State) (a x : Nat) (bs : List Byte) (v : Viewer) (h : s.Unheld 0 v x) :
    (s.modWrite a bs).byte v none x = if a ≤ x ∧ x < a + bs.length then bs.getD (x - a) 0 else s.byte v none x := by
  have hv : PStore.visible
      { id := s.nextId, gid := 0, team := 0, core := 0, sp := none, addr := a, bytes := bs, level := .pod, held := false } v = true :=
    PStore.visible_of_settled (by simp [PStore.settled, Scope.covers]) rfl v
  simp [State.modWrite, State.byte_addStore, hv, h]

/-! ### Frames and regions -/

/-- A frame filled with zeros keeps the form (R208). -/
theorem State.memInv_zeroFrame {s : State} (f : Nat) (h : s.MemInv) : (s.zeroFrame f).MemInv := memWf_filter _ h

/-- A frame's bytes copied keep the form (R201). -/
theorem State.memInv_copyFrame {s : State} (src dst : Nat) (h : s.MemInv) : (s.copyFrame src dst).MemInv := by
  have h1 := (memWf_iff _).mp (State.memInv_performAt .pod (fun p => !p.held && p.touches none (src * 65536) 65536) h)
  unfold State.copyFrame State.MemInv
  generalize (s.performAt _ _) = s1 at *
  refine (memWf_iff _).mpr ⟨?_, ?_⟩
  · refine List.pairwise_append.mpr ⟨List.pairwise_append.mpr ⟨h1.1.filter _, ?_, ?_⟩, h1.1.filter _, ?_⟩
    · refine List.pairwise_map.mpr (List.Pairwise.imp_of_mem ?_ (h1.1.filter fun c => c.1 / 65536 = src))
      intro x y hx hy hxy
      have hx' : x.1 / 65536 = src := by simpa using (List.mem_filter.mp hx).2
      show x.1 - src * 65536 + dst * 65536 < y.1 - src * 65536 + dst * 65536
      omega
    · intro x hx y hy
      obtain ⟨z, hz, rfl⟩ := List.mem_map.mp hy
      have hx' : x.1 < dst * 65536 := by simpa using (List.mem_filter.mp hx).2
      show x.1 < z.1 - src * 65536 + dst * 65536
      omega
    · intro x hx y hy
      have hy' : dst * 65536 + 65536 ≤ y.1 := by simpa using (List.mem_filter.mp hy).2
      rcases List.mem_append.mp hx with hx | hx
      · have hx' : x.1 < dst * 65536 := by simpa using (List.mem_filter.mp hx).2
        omega
      · obtain ⟨z, hz, rfl⟩ := List.mem_map.mp hx
        have hz' : z.1 / 65536 = src := by simpa using (List.mem_filter.mp hz).2
        show z.1 - src * 65536 + dst * 65536 < y.1
        omega
  · intro c hc
    rcases List.mem_append.mp hc with hc | hc
    · rcases List.mem_append.mp hc with hc | hc
      · exact h1.2 c (List.mem_filter.mp hc).1
      · obtain ⟨z, hz, rfl⟩ := List.mem_map.mp hc
        exact h1.2 z (List.mem_filter.mp hz).1
    · exact h1.2 c (List.mem_filter.mp hc).1

/-- A region of HBM filled keeps the form (R13). -/
theorem State.memInv_region {s : State} (n : Nat) (h : s.MemInv) :
    memWf (s.mem.filter fun c => c.1 / 2 ^ 30 ≠ n) = true := memWf_filter _ h

/-- An attempt undone keeps what the attempt left of memory, in form (R199). -/
theorem State.memInv_undo {s sw : State} (h : sw.MemInv) : (s.undo sw).MemInv := h

theorem State.memInv_orUndo {s : State} {r : Res} (hs : s.MemInv) (hr : ∀ t, (r = .ok t ∨ (∃ w, r = .wait w t) ∨
    ∃ c i l, r = .trap c i l t) → t.MemInv) : ∀ t, (r.orUndo s = .ok t ∨ (∃ w, r.orUndo s = .wait w t) ∨
    ∃ c i l, r.orUndo s = .trap c i l t) → t.MemInv := by
  intro t ht
  cases r with
  | ok s' => exact hr t (by simpa [Res.orUndo] using ht)
  | wait w sw =>
    simp only [Res.orUndo] at ht
    rcases ht with h | ⟨w', h⟩ | ⟨c, i, l, h⟩
    · cases h
    · cases h; exact hr sw (.inr (.inl ⟨w, rfl⟩))
    · cases h
  | trap code info lanes s' =>
    simp only [Res.orUndo] at ht
    rcases ht with h | ⟨w', h⟩ | ⟨c, i, l, h⟩
    · cases h
    · cases h
    · cases h; exact hs

/-- Memory at reset lists nothing. -/
theorem State.memInv_reset : State.reset.MemInv := rfl

end Sys2Proof.Machine
end

