-- ==== Sys2Proof/Laws/PerInstr.lean ====
section
/-! SUPPORT. One property of every instruction's words: the LEN field of the first word counts them (R82, R84 to R88). -/

namespace Sys2Proof.Laws.Words

open Sys2Proof

/-- Words whose first word's LEN field counts them, or no words. -/
def Counted : List Word → Prop
  | [] => True
  | w :: ws => (w :: ws).length = lenWords (wordLen w)

/-- The words of an instruction are as many as its first word's LEN field says (R82). -/
def Statement (i : Instr) : Prop := Counted (encode i)

/-! ### By form -/

theorem wordLen_of (len rest : Nat) (hl : len < 4) (hr : rest < 2 ^ 30) : wordLen (BitVec.ofNat 32 (len * 2 ^ 30 + rest)) = len := by
  unfold wordLen bits
  rw [BitVec.toNat_ofNat]
  omega

theorem wordLen_head (len opc rest : Nat) (hl : len < 4) (ho : opc < 256) (hr : rest < 2 ^ 22) : wordLen (head len opc rest) = len := by
  have h : opc * 2 ^ 22 + rest < 2 ^ 30 := by omega
  have h1 := wordLen_of len (opc * 2 ^ 22 + rest) hl h
  rw [← Nat.add_assoc] at h1
  unfold head
  exact h1

theorem counted_one (opc rest : Nat) (ho : opc < 256) (hr : rest < 2 ^ 22) : Counted [head 0 opc rest] := by
  have h := wordLen_head 0 opc rest (by decide) ho hr
  simp only [Counted, h]
  rfl

theorem counted_formB (opc : Nat) (d a b : BitVec 6) (sub : Nat) (ho : opc < 256) (hs : sub < 16) : Counted (formB opc d a b sub) :=
  counted_one _ _ ho (by omega)

theorem counted_formI (opc : Nat) (d a : BitVec 6) (imm : Nat) (ho : opc < 256) (hi : imm < 1024) : Counted (formI opc d a imm) :=
  counted_one _ _ ho (by omega)

theorem counted_formL (opc : Nat) (d a : BitVec 6) (lit : BitVec 64) (ho : opc < 256) : Counted (formL opc d a lit) := by
  have h := wordLen_head 1 opc (d.toNat * 2 ^ 16 + a.toNat * 2 ^ 10) (by decide) ho (by omega)
  simp only [Counted, formL, h]
  rfl

theorem ty_code_lt (t : Ty) : t.code < 16 := by cases t <;> decide

theorem dst_code_lt (d : Dst) : d.code.1 < 2 ∧ d.code.2 < 256 := by
  cases d <;> simp only [Dst.code] <;> omega

theorem counted_formX (opc : Nat) (x : XArgs) (ho : opc < 256) : Counted (formX opc x) := by
  have hd := dst_code_lt x.dst
  have ht := ty_code_lt x.ty
  have hf : x.fn.toNat < 32 := x.fn.isLt
  have hn : x.pn.toNat < 2 := by cases x.pn <;> decide
  have hi : x.pi.toNat < 8 := x.pi.isLt
  cases hl : x.lit with
  | none =>
    have h := wordLen_of 2 (opc * 2 ^ 22 + x.pn.toNat * 2 ^ 21 + x.pi.toNat * 2 ^ 18 + x.dst.code.1 * 2 ^ 17
      + x.dst.code.2 * 2 ^ 9 + x.ty.code * 2 ^ 5 + x.fn.toNat) (by decide) (by omega)
    simp only [← Nat.add_assoc] at h
    simp only [formX, hl, Option.isSome, Bool.false_eq_true, if_false, List.append_nil, Counted, h]
    rfl
  | some l =>
    have h := wordLen_of 3 (opc * 2 ^ 22 + x.pn.toNat * 2 ^ 21 + x.pi.toNat * 2 ^ 18 + x.dst.code.1 * 2 ^ 17
      + x.dst.code.2 * 2 ^ 9 + x.ty.code * 2 ^ 5 + x.fn.toNat) (by decide) (by omega)
    simp only [← Nat.add_assoc] at h
    simp only [formX, hl, Option.isSome, if_true, List.cons_append, List.nil_append, Counted, h]
    rfl

theorem prefix_code_lt (p : Prefix) : p.code < 1024 := by
  obtain ⟨ord, scope, cache, nt, rx⟩ := p
  have h1 : ord.code < 4 := by cases ord <;> decide
  have h2 : scope.code < 8 := by cases scope <;> decide
  have h3 := Bool.toNat_lt nt
  have h4 := Bool.toNat_lt rx
  simp only [Prefix.code]
  omega

/-! ### By instruction -/

theorem nop : Statement .nop := counted_one 0 0 (by decide) (by decide)
theorem br : ∀ off, Statement (.br off) := fun _ => counted_one _ _ (by decide) (by omega)
theorem brc : ∀ c cc off, Statement (.brc c cc off) := fun _ _ _ => counted_one _ _ (by decide) (by omega)
theorem call : ∀ off, Statement (.call off) := fun _ => counted_one _ _ (by decide) (by omega)
theorem ret : Statement (.ret) := counted_one _ _ (by decide) (by decide)
theorem brx : ∀ a, Statement (.brx a) := fun _ => counted_formB _ _ _ _ _ (by decide) (by omega)
theorem exit : Statement (.exit) := counted_one _ _ (by decide) (by decide)
theorem join : Statement (.join) := counted_one _ _ (by decide) (by decide)
theorem bar : ∀ d n e, Statement (.bar d n e) := fun _ _ _ => counted_formI _ _ _ _ (by decide) (by omega)
theorem barArrive : ∀ d n e, Statement (.barArrive d n e) := fun _ _ _ => counted_formI _ _ _ _ (by decide) (by omega)
theorem fence : ∀ kind scope, Statement (.fence kind scope) := fun kind scope => counted_formI _ _ _ _ (by decide) (by cases kind <;> cases scope <;> decide)
theorem acq : ∀ d a space ex, Statement (.acq d a space ex) := fun d a space ex => counted_formI _ _ _ _ (by decide) (by have := Bool.toNat_lt ex; omega)
theorem rel : ∀ a space, Statement (.rel a space) := fun _ _ => counted_formI _ _ _ _ (by decide) (by omega)
theorem bind : ∀ k a b space, Statement (.bind k a b space) := fun _ _ _ _ => counted_formB _ _ _ _ _ (by decide) (by omega)
theorem unbind : ∀ k space, Statement (.unbind k space) := fun _ _ => counted_formB _ _ _ _ _ (by decide) (by omega)
theorem waitc : ∀ cls n, Statement (.waitc cls n) := fun _ _ => counted_formI _ _ _ _ (by decide) (by omega)
theorem mbatch : ∀ d, Statement (.mbatch d) := fun _ => counted_formI _ _ _ _ (by decide) (by omega)
theorem mwait : ∀ a, Statement (.mwait a) := fun _ => counted_formI _ _ _ _ (by decide) (by omega)
theorem susp : ∀ c a b n, Statement (.susp c a b n) := fun _ _ _ _ => counted_formB _ _ _ _ _ (by decide) (by omega)
theorem evsig : ∀ d a b, Statement (.evsig d a b) := fun _ _ _ => counted_formB _ _ _ _ _ (by decide) (by omega)
theorem acqr : Statement (.acqr) := counted_one _ _ (by decide) (by decide)
theorem rela : Statement (.rela) := counted_one _ _ (by decide) (by decide)
theorem setb : ∀ d n, Statement (.setb d n) := fun _ _ => counted_formI _ _ _ _ (by decide) (by omega)
theorem launch : ∀ d a, Statement (.launch d a) := fun _ _ => counted_formB _ _ _ _ _ (by decide) (by omega)
theorem trap : ∀ n, Statement (.trap n) := fun _ => counted_formI _ _ _ _ (by decide) (by omega)
theorem eret : Statement (.eret) := counted_formB _ _ _ _ _ (by decide) (by decide)
theorem eretSkip : Statement (.eretSkip) := counted_formB _ _ _ _ _ (by decide) (by decide)
theorem rdsr : ∀ d n, Statement (.rdsr d n) := fun _ _ => counted_formI _ _ _ _ (by decide) (by omega)
theorem wrsr : ∀ a n, Statement (.wrsr a n) := fun _ _ => counted_formI _ _ _ _ (by decide) (by omega)
theorem bkpt : ∀ n, Statement (.bkpt n) := fun _ => counted_formI _ _ _ _ (by decide) (by omega)
theorem mpx : ∀ p, Statement (.mpx p) := fun p => counted_one _ _ (by decide) (by have := prefix_code_lt p; omega)
theorem sealRel : ∀ d b, Statement (.sealRel d b) := fun _ _ => counted_formB _ _ _ _ _ (by decide) (by omega)
theorem stepcmt : ∀ d, Statement (.stepcmt d) := fun _ => counted_formB _ _ _ _ _ (by decide) (by omega)
theorem qmov : ∀ d a check, Statement (.qmov d a check) := fun d a check => counted_formB _ _ _ _ _ (by decide) (by have := Bool.toNat_lt check; omega)
theorem sadd : ∀ d a b, Statement (.sadd d a b) := fun _ _ _ => counted_formB _ _ _ _ _ (by decide) (by omega)
theorem ssub : ∀ d a b, Statement (.ssub d a b) := fun _ _ _ => counted_formB _ _ _ _ _ (by decide) (by omega)
theorem smul : ∀ d a b, Statement (.smul d a b) := fun _ _ _ => counted_formB _ _ _ _ _ (by decide) (by omega)
theorem smulhi : ∀ d a b, Statement (.smulhi d a b) := fun _ _ _ => counted_formB _ _ _ _ _ (by decide) (by omega)
theorem sand : ∀ d a b, Statement (.sand d a b) := fun _ _ _ => counted_formB _ _ _ _ _ (by decide) (by omega)
theorem sor : ∀ d a b, Statement (.sor d a b) := fun _ _ _ => counted_formB _ _ _ _ _ (by decide) (by omega)
theorem sxor : ∀ d a b, Statement (.sxor d a b) := fun _ _ _ => counted_formB _ _ _ _ _ (by decide) (by omega)
theorem sshl : ∀ d a b, Statement (.sshl d a b) := fun _ _ _ => counted_formB _ _ _ _ _ (by decide) (by omega)
theorem sshr : ∀ d a b, Statement (.sshr d a b) := fun _ _ _ => counted_formB _ _ _ _ _ (by decide) (by omega)
theorem ssar : ∀ d a b, Statement (.ssar d a b) := fun _ _ _ => counted_formB _ _ _ _ _ (by decide) (by omega)
theorem smov : ∀ d a, Statement (.smov d a) := fun _ _ => counted_formB _ _ _ _ _ (by decide) (by omega)
theorem sli : ∀ d imm, Statement (.sli d imm) := fun _ _ => counted_formI _ _ _ _ (by decide) (by omega)
theorem sliLit : ∀ d lit, Statement (.sliLit d lit) := fun _ _ => counted_formL _ _ _ _ (by decide)
theorem scmp : ∀ d a b cond, Statement (.scmp d a b cond) := fun _ _ _ _ => counted_formB _ _ _ _ _ (by decide) (by omega)
theorem sbfe : ∀ d a b signed, Statement (.sbfe d a b signed) := fun d a b signed => counted_formB _ _ _ _ _ (by decide) (by have := Bool.toNat_lt signed; omega)
theorem sffs : ∀ d a hi, Statement (.sffs d a hi) := fun d a hi => counted_formB _ _ _ _ _ (by decide) (by have := Bool.toNat_lt hi; omega)
theorem spopc : ∀ d a, Statement (.spopc d a) := fun _ _ => counted_formB _ _ _ _ _ (by decide) (by omega)
theorem ssel : ∀ d a b, Statement (.ssel d a b) := fun _ _ _ => counted_formB _ _ _ _ _ (by decide) (by omega)
theorem sdiv : ∀ d a b mode, Statement (.sdiv d a b mode) := fun _ _ _ _ => counted_formB _ _ _ _ _ (by decide) (by omega)
theorem smin : ∀ d a b unsigned, Statement (.smin d a b unsigned) := fun d a b unsigned => counted_formB _ _ _ _ _ (by decide) (by have := Bool.toNat_lt unsigned; omega)
theorem smax : ∀ d a b unsigned, Statement (.smax d a b unsigned) := fun d a b unsigned => counted_formB _ _ _ _ _ (by decide) (by have := Bool.toNat_lt unsigned; omega)
theorem saddi : ∀ d a imm, Statement (.saddi d a imm) := fun _ _ _ => counted_formI _ _ _ _ (by decide) (by omega)
theorem saddiLit : ∀ d a lit, Statement (.saddiLit d a lit) := fun _ _ _ => counted_formL _ _ _ _ (by decide)
theorem sldu : ∀ d a imm, Statement (.sldu d a imm) := fun _ _ _ => counted_formI _ _ _ _ (by decide) (by omega)
theorem slduLit : ∀ d a lit, Statement (.slduLit d a lit) := fun _ _ _ => counted_formL _ _ _ _ (by decide)
theorem sstu : ∀ d a imm, Statement (.sstu d a imm) := fun _ _ _ => counted_formI _ _ _ _ (by decide) (by omega)
theorem sstuLit : ∀ d a lit, Statement (.sstuLit d a lit) := fun _ _ _ => counted_formL _ _ _ _ (by decide)
theorem iadd : ∀ x, Statement (.iadd x) := fun _ => counted_formX _ _ (by decide)
theorem isub : ∀ x, Statement (.isub x) := fun _ => counted_formX _ _ (by decide)
theorem imul : ∀ x, Statement (.imul x) := fun _ => counted_formX _ _ (by decide)
theorem imulhi : ∀ x, Statement (.imulhi x) := fun _ => counted_formX _ _ (by decide)
theorem imad : ∀ x, Statement (.imad x) := fun _ => counted_formX _ _ (by decide)
theorem idiv : ∀ x, Statement (.idiv x) := fun _ => counted_formX _ _ (by decide)
theorem irem : ∀ x, Statement (.irem x) := fun _ => counted_formX _ _ (by decide)
theorem ineg : ∀ x, Statement (.ineg x) := fun _ => counted_formX _ _ (by decide)
theorem iabs : ∀ x, Statement (.iabs x) := fun _ => counted_formX _ _ (by decide)
theorem imin : ∀ x, Statement (.imin x) := fun _ => counted_formX _ _ (by decide)
theorem imax : ∀ x, Statement (.imax x) := fun _ => counted_formX _ _ (by decide)
theorem icmp : ∀ x, Statement (.icmp x) := fun _ => counted_formX _ _ (by decide)
theorem shl : ∀ x, Statement (.shl x) := fun _ => counted_formX _ _ (by decide)
theorem shr : ∀ x, Statement (.shr x) := fun _ => counted_formX _ _ (by decide)
theorem sar : ∀ x, Statement (.sar x) := fun _ => counted_formX _ _ (by decide)
theorem rotl : ∀ x, Statement (.rotl x) := fun _ => counted_formX _ _ (by decide)
theorem and : ∀ x, Statement (.and x) := fun _ => counted_formX _ _ (by decide)
theorem or : ∀ x, Statement (.or x) := fun _ => counted_formX _ _ (by decide)
theorem xor : ∀ x, Statement (.xor x) := fun _ => counted_formX _ _ (by decide)
theorem not : ∀ x, Statement (.not x) := fun _ => counted_formX _ _ (by decide)
theorem andn : ∀ x, Statement (.andn x) := fun _ => counted_formX _ _ (by decide)
theorem popc : ∀ x, Statement (.popc x) := fun _ => counted_formX _ _ (by decide)
theorem clz : ∀ x, Statement (.clz x) := fun _ => counted_formX _ _ (by decide)
theorem brev : ∀ x, Statement (.brev x) := fun _ => counted_formX _ _ (by decide)
theorem bfe : ∀ x, Statement (.bfe x) := fun _ => counted_formX _ _ (by decide)
theorem bfi : ∀ x, Statement (.bfi x) := fun _ => counted_formX _ _ (by decide)
theorem sel : ∀ x, Statement (.sel x) := fun _ => counted_formX _ _ (by decide)
theorem mov : ∀ x, Statement (.mov x) := fun _ => counted_formX _ _ (by decide)
theorem movi : ∀ x, Statement (.movi x) := fun _ => counted_formX _ _ (by decide)
theorem fadd : ∀ x, Statement (.fadd x) := fun _ => counted_formX _ _ (by decide)
theorem fsub : ∀ x, Statement (.fsub x) := fun _ => counted_formX _ _ (by decide)
theorem fmul : ∀ x, Statement (.fmul x) := fun _ => counted_formX _ _ (by decide)
theorem fma : ∀ x, Statement (.fma x) := fun _ => counted_formX _ _ (by decide)
theorem fmin : ∀ x, Statement (.fmin x) := fun _ => counted_formX _ _ (by decide)
theorem fmax : ∀ x, Statement (.fmax x) := fun _ => counted_formX _ _ (by decide)
theorem fcmp : ∀ x, Statement (.fcmp x) := fun _ => counted_formX _ _ (by decide)
theorem fabs : ∀ x, Statement (.fabs x) := fun _ => counted_formX _ _ (by decide)
theorem fneg : ∀ x, Statement (.fneg x) := fun _ => counted_formX _ _ (by decide)
theorem frcp : ∀ x, Statement (.frcp x) := fun _ => counted_formX _ _ (by decide)
theorem frcpz : ∀ x, Statement (.frcpz x) := fun _ => counted_formX _ _ (by decide)
theorem frsq : ∀ x, Statement (.frsq x) := fun _ => counted_formX _ _ (by decide)
theorem fsqrt : ∀ x, Statement (.fsqrt x) := fun _ => counted_formX _ _ (by decide)
theorem fexp2 : ∀ x, Statement (.fexp2 x) := fun _ => counted_formX _ _ (by decide)
theorem fexp : ∀ x, Statement (.fexp x) := fun _ => counted_formX _ _ (by decide)
theorem flog2 : ∀ x, Statement (.flog2 x) := fun _ => counted_formX _ _ (by decide)
theorem fsin : ∀ x, Statement (.fsin x) := fun _ => counted_formX _ _ (by decide)
theorem fcos : ∀ x, Statement (.fcos x) := fun _ => counted_formX _ _ (by decide)
theorem fclass : ∀ x, Statement (.fclass x) := fun _ => counted_formX _ _ (by decide)
theorem cvt : ∀ x, Statement (.cvt x) := fun _ => counted_formX _ _ (by decide)
theorem pack : ∀ x, Statement (.pack x) := fun _ => counted_formX _ _ (by decide)
theorem unpk : ∀ x, Statement (.unpk x) := fun _ => counted_formX _ _ (by decide)
theorem shfl : ∀ x, Statement (.shfl x) := fun _ => counted_formX _ _ (by decide)
theorem ballot : ∀ x, Statement (.ballot x) := fun _ => counted_formX _ _ (by decide)
theorem vote : ∀ x, Statement (.vote x) := fun _ => counted_formX _ _ (by decide)
theorem matchLanes : ∀ x, Statement (.matchLanes x) := fun _ => counted_formX _ _ (by decide)
theorem redux : ∀ x, Statement (.redux x) := fun _ => counted_formX _ _ (by decide)
theorem scan : ∀ x, Statement (.scan x) := fun _ => counted_formX _ _ (by decide)
theorem prmb : ∀ x, Statement (.prmb x) := fun _ => counted_formX _ _ (by decide)
theorem xpose : ∀ x, Statement (.xpose x) := fun _ => counted_formX _ _ (by decide)
theorem brv : ∀ pn pi off, Statement (.brv pn pi off) := fun pn pi off => by
  have hn := Bool.toNat_lt pn
  have h := wordLen_of 2 (0x80 * 2 ^ 22 + pn.toNat * 2 ^ 21 + pi.toNat * 2 ^ 18) (by decide) (by omega)
  rw [← Nat.add_assoc, ← Nat.add_assoc] at h
  have he : encode (.brv pn pi off) = [BitVec.ofNat 32 (2 * 2 ^ 30 + 0x80 * 2 ^ 22 + pn.toNat * 2 ^ 21 + pi.toNat * 2 ^ 18), 0,
      BitVec.ofNat 32 off.toNat] := rfl
  unfold Statement
  rw [he]
  simp only [Counted, h]
  rfl
theorem plog : ∀ x, Statement (.plog x) := fun _ => counted_formX _ _ (by decide)
theorem pmov : ∀ x, Statement (.pmov x) := fun _ => counted_formX _ _ (by decide)
theorem vget : ∀ x, Statement (.vget x) := fun _ => counted_formX _ _ (by decide)
theorem vput : ∀ x, Statement (.vput x) := fun _ => counted_formX _ _ (by decide)
theorem lds : ∀ x, Statement (.lds x) := fun _ => counted_formX _ _ (by decide)
theorem sts : ∀ x, Statement (.sts x) := fun _ => counted_formX _ _ (by decide)
theorem ats : ∀ x, Statement (.ats x) := fun _ => counted_formX _ _ (by decide)
theorem ldg : ∀ x, Statement (.ldg x) := fun _ => counted_formX _ _ (by decide)
theorem stg : ∀ x, Statement (.stg x) := fun _ => counted_formX _ _ (by decide)
theorem atg : ∀ x, Statement (.atg x) := fun _ => counted_formX _ _ (by decide)
theorem pfg : ∀ x, Statement (.pfg x) := fun _ => counted_formX _ _ (by decide)
theorem gset : ∀ x, Statement (.gset x) := fun _ => counted_formX _ _ (by decide)
theorem ldf : ∀ x, Statement (.ldf x) := fun _ => counted_formX _ _ (by decide)
theorem stf : ∀ x, Statement (.stf x) := fun _ => counted_formX _ _ (by decide)
theorem atf : ∀ x, Statement (.atf x) := fun _ => counted_formX _ _ (by decide)
theorem ldk : ∀ x, Statement (.ldk x) := fun _ => counted_formX _ _ (by decide)
theorem reqld : ∀ x, Statement (.reqld x) := fun _ => counted_formX _ _ (by decide)
theorem reqst : ∀ x, Statement (.reqst x) := fun _ => counted_formX _ _ (by decide)
theorem cpy : ∀ x, Statement (.cpy x) := fun _ => counted_formX _ _ (by decide)
theorem gath : ∀ x, Statement (.gath x) := fun _ => counted_formX _ _ (by decide)
theorem scat : ∀ x, Statement (.scat x) := fun _ => counted_formX _ _ (by decide)
theorem coll : ∀ x, Statement (.coll x) := fun _ => counted_formX _ _ (by decide)
theorem cpyf : ∀ x, Statement (.cpyf x) := fun _ => counted_formX _ _ (by decide)
theorem cntrd : ∀ x, Statement (.cntrd x) := fun _ => counted_formX _ _ (by decide)
theorem mma : ∀ x, Statement (.mma x) := fun _ => counted_formX _ _ (by decide)
theorem mmas : ∀ x, Statement (.mmas x) := fun _ => counted_formX _ _ (by decide)
theorem mqk : ∀ x, Statement (.mqk x) := fun _ => counted_formX _ _ (by decide)
theorem msmx : ∀ x, Statement (.msmx x) := fun _ => counted_formX _ _ (by decide)
theorem mzero : ∀ x, Statement (.mzero x) := fun _ => counted_formX _ _ (by decide)
theorem mldt : ∀ x, Statement (.mldt x) := fun _ => counted_formX _ _ (by decide)
theorem mstt : ∀ x, Statement (.mstt x) := fun _ => counted_formX _ _ (by decide)
theorem tmask : ∀ x, Statement (.tmask x) := fun _ => counted_formX _ _ (by decide)
theorem plwadd : ∀ x, Statement (.plwadd x) := fun _ => counted_formX _ _ (by decide)
theorem plwrd : ∀ x, Statement (.plwrd x) := fun _ => counted_formX _ _ (by decide)
theorem rsmp : ∀ x, Statement (.rsmp x) := fun _ => counted_formX _ _ (by decide)
theorem pmap : ∀ x, Statement (.pmap x) := fun _ => counted_formX _ _ (by decide)
theorem rngx : ∀ x, Statement (.rngx x) := fun _ => counted_formX _ _ (by decide)
theorem drawc : ∀ x, Statement (.drawc x) := fun _ => counted_formX _ _ (by decide)
theorem specv : ∀ x, Statement (.specv x) := fun _ => counted_formX _ _ (by decide)
theorem sigrd : ∀ x, Statement (.sigrd x) := fun _ => counted_formX _ _ (by decide)
theorem loadCompletion : ∀ g id lanes, Statement (.loadCompletion g id lanes) := fun _ _ _ => trivial
theorem fullEmptyWake : ∀ g slot, Statement (.fullEmptyWake g slot) := fun _ _ => trivial
theorem engineCompletion : ∀ g cls idx units, Statement (.engineCompletion g cls idx units) := fun _ _ _ _ => trivial
theorem matrixCompletion : ∀ g idx units, Statement (.matrixCompletion g idx units) := fun _ _ _ => trivial
theorem acqrGrant : ∀ core part, Statement (.acqrGrant core part) := fun _ _ => trivial
theorem keyGrant : ∀ ctx key, Statement (.keyGrant ctx key) := fun _ _ => trivial
theorem suspResume : ∀ g, Statement (.suspResume g) := fun _ => trivial
theorem groupRetire : ∀ g, Statement (.groupRetire g) := fun _ => trivial
theorem completionSignal : ∀ n, Statement (.completionSignal n) := fun _ => trivial
theorem dispatchTeam : Statement (.dispatchTeam) := trivial
theorem pendingDisplace : ∀ core part g, Statement (.pendingDisplace core part g) := fun _ _ _ => trivial
theorem growAllocate : ∀ ctx page, Statement (.growAllocate ctx page) := fun _ _ => trivial
theorem cowCopy : ∀ ctx page, Statement (.cowCopy ctx page) := fun _ _ => trivial
theorem pageReply : ∀ vf reply, Statement (.pageReply vf reply) := fun _ _ => trivial
theorem fabricIngress : ∀ op, Statement (.fabricIngress op) := fun _ => trivial
theorem notHome : ∀ id, Statement (.notHome id) := fun _ => trivial
theorem pageMigrate : ∀ vf ctx page dest, Statement (.pageMigrate vf ctx page dest) := fun _ _ _ _ => trivial
theorem rootExpiry : ∀ ctx page, Statement (.rootExpiry ctx page) := fun _ _ => trivial
theorem invalidate : ∀ vf cmd, Statement (.invalidate vf cmd) := fun _ _ => trivial
theorem sync : ∀ vf cmd, Statement (.sync vf cmd) := fun _ _ => trivial
theorem flushRouteHints : ∀ vf cmd, Statement (.flushRouteHints vf cmd) := fun _ _ => trivial
theorem start : ∀ vf cmd, Statement (.start vf cmd) := fun _ _ => trivial
theorem preempt : ∀ vf cmd, Statement (.preempt vf cmd) := fun _ _ => trivial
theorem restore : ∀ vf cmd, Statement (.restore vf cmd) := fun _ _ => trivial
theorem terminate : ∀ vf cmd, Statement (.terminate vf cmd) := fun _ _ => trivial
theorem hlaunch : ∀ vf cmd, Statement (.hlaunch vf cmd) := fun _ _ => trivial
theorem submission : ∀ vf value, Statement (.submission vf value) := fun _ _ => trivial
theorem recordWindowWrite : ∀ src rid off bytes, Statement (.recordWindowWrite src rid off bytes) := fun _ _ _ _ => trivial
theorem stepStart : ∀ vf k, Statement (.stepStart vf k) := fun _ _ => trivial
theorem stepGridLaunch : ∀ vf k, Statement (.stepGridLaunch vf k) := fun _ _ => trivial
theorem crozierCommit : ∀ vf k, Statement (.crozierCommit vf k) := fun _ _ => trivial
theorem sporangiumComplete : ∀ rid, Statement (.sporangiumComplete rid) := fun _ => trivial
theorem deadlineExpiry : ∀ rid, Statement (.deadlineExpiry rid) := fun _ => trivial
theorem auditReexecution : ∀ n core corrupt, Statement (.auditReexecution n core corrupt) := fun _ _ _ => trivial
theorem auditVerdict : ∀ n, Statement (.auditVerdict n) := fun _ => trivial
theorem replayCheck : ∀ core part mismatch physLane, Statement (.replayCheck core part mismatch physLane) := fun _ _ _ _ => trivial
theorem scoreDecay : ∀ core, Statement (.scoreDecay core) := fun _ => trivial
theorem laneDiagnosisEnd : ∀ core failing, Statement (.laneDiagnosisEnd core failing) := fun _ _ => trivial
theorem coreReturnToService : ∀ core, Statement (.coreReturnToService core) := fun _ => trivial
theorem laneSpareSwitch : ∀ g uncorrectable, Statement (.laneSpareSwitch g uncorrectable) := fun _ _ => trivial
theorem uncorrectableError : ∀ g, Statement (.uncorrectableError g) := fun _ => trivial
theorem barrierWatchdogExpiry : ∀ team n, Statement (.barrierWatchdogExpiry team n) := fun _ _ => trivial
theorem budgetPeriodStart : Statement (.budgetPeriodStart) := trivial
theorem powerStepDown : ∀ avgMilliwatt, Statement (.powerStepDown avgMilliwatt) := fun _ => trivial
theorem powerStepUp : ∀ avgMilliwatt, Statement (.powerStepUp avgMilliwatt) := fun _ => trivial
theorem moduleReset : ∀ r, Statement (.moduleReset r) := fun _ => trivial
theorem hbmRegionFill : Statement (.hbmRegionFill) := trivial
theorem vfReset : ∀ vf, Statement (.vfReset vf) := fun _ => trivial
theorem vfGrantWrite : ∀ vf off value, Statement (.vfGrantWrite vf off value) := fun _ _ _ => trivial
theorem streamDescriptorWrite : ∀ vf k desc, Statement (.streamDescriptorWrite vf k desc) := fun _ _ _ => trivial
theorem portGenWrite : ∀ port value, Statement (.portGenWrite port value) := fun _ _ => trivial
theorem portRetrainDone : ∀ port up, Statement (.portRetrainDone port up) := fun _ _ => trivial
theorem areq : ∀ value, Statement (.areq value) := fun _ => trivial
theorem registerWrite : ∀ off value, Statement (.registerWrite off value) := fun _ _ => trivial
theorem storePerformed : ∀ id scope, Statement (.storePerformed id scope) := fun _ _ => trivial
theorem fabricReply : ∀ id rep, Statement (.fabricReply id rep) := fun _ _ => trivial

end Sys2Proof.Laws.Words

namespace Sys2Proof.Laws

theorem Words.seal : ∀ d a, Words.Statement (.seal d a) := fun _ _ => Words.counted_formB _ _ _ _ _ (by decide) (by omega)

end Sys2Proof.Laws
end

