-- ==== Sys2Proof/Laws/Traps.lean ====
section
/-! SUPPORT. Taking a trap and ending an issue: every outcome, said once (R258 to R262). -/

namespace Sys2Proof.Machine

/-! ### The end of an issue -/

@[simp] theorem Res.settle_ok (e : Env) (s : State) : (Res.ok s).settle e = s := rfl
@[simp] theorem Res.settle_trap (e : Env) (c : TrapCode) (i : BitVec 64) (l : LaneMask) (s : State) :
    (Res.trap c i l s).settle e = s.takeTrap e c i l := rfl
@[simp] theorem Res.settle_wait (e : Env) (w : Wait) (s : State) :
    (Res.wait w s).settle e = s.updSlot e fun x => { x with wait := w } := rfl
@[simp] theorem Res.orUndo_ok (s t : State) : Res.orUndo s (.ok t) = .ok t := rfl
@[simp] theorem Res.orUndo_trap (s t : State) (c : TrapCode) (i : BitVec 64) (l : LaneMask) :
    Res.orUndo s (.trap c i l t) = .trap c i l s := rfl
@[simp] theorem Res.orUndo_wait (s t : State) (w : Wait) : Res.orUndo s (.wait w t) = .wait w (s.undo t) := rfl

/-! ### Taking a trap -/

/-- Whether the code is one that no handler of this slot can take: it ends the context. -/
def Env.trapEnds (e : Env) (code : TrapCode) : Bool :=
  (e.inStep && (code = .xlfail || code = .quota)) || !code.entersHandler || e.c.tvec = 0 || e.g.handler.isSome

/-- A slot that waits for its continuation slot, and traps again; the errors that it reports stay (R258). -/
def State.trapWaits (s : State) (e : Env) (w : Wait) : State := (s.keepErrs e).updSlot e fun x => { x with wait := w }

/-- Everything that taking a trap can do (R258, R259, R262). Either the context ends; or a re-execution enters its handler
at the address that its log gives; or the record is stored in a free continuation slot and the handler is entered; or the
slot waits for that slot's page, or for budget of the walk or of the record's store, and traps again; or that slot cannot be written and the context
ends. -/
theorem State.takeTrap_cases (s : State) (e : Env) (code : TrapCode) (info : BitVec 64) (flanes : LaneMask) :
    (e.trapEnds code = true ∧ ∃ cause, (cause = 1 ∨ cause = 2) ∧
      s.takeTrap e code info flanes = s.unhandled e cause code info flanes) ∨
    (e.trapEnds code = false ∧
      ((e.replaying = true ∧ s.takeTrap e code info flanes = (s.fromLog e).2.enterHandler e 0 ((s.fromLog e).1.headD 0)) ∨
       (e.replaying = false ∧ e.c.freeCont = none ∧ s.takeTrap e code info flanes = s.unhandled e 3 code info flanes) ∨
       (e.replaying = false ∧ ∃ i s1, e.c.freeCont = some i ∧ (s.xlate e (e.c.contAddr i) 1).2 = s1 ∧
         ((∃ pa leaf, (s.xlate e (e.c.contAddr i) 1).1 = .ok pa leaf ∧ e.hbm = true ∧ s.takeTrap e code info flanes =
            (((s1.charge e.c.vf 0 64).store e (e.c.contAddr i) pa (leBytes 64 (trapRecord e code info flanes)) .group).loggedEntry e 8
              { slot := e.slot, vals := [e.c.contAddr i], trap := some (e.pc, code.num, info, flanes) }).enterHandler e i
                (e.c.contAddr i)) ∨
          (∃ pa leaf, (s.xlate e (e.c.contAddr i) 1).1 = .ok pa leaf ∧ e.hbm = false ∧
            s.takeTrap e code info flanes = s1.trapWaits e (.budget 0)) ∨
          (∃ w h m, (s.xlate e (e.c.contAddr i) 1).1 = .park w h m ∧ s.takeTrap e code info flanes =
            (s1.fault w h m).trapWaits e (.page [w])) ∨
          ((s.xlate e (e.c.contAddr i) 1).1 = .deferred ∧ s.takeTrap e code info flanes = s1.trapWaits e (.budget 3)) ∨
          (∃ n, (s.xlate e (e.c.contAddr i) 1).1 = .remote n ∧ ∃ w : PageWant, w.page = e.c.contAddr i / 65536 ∧
            s.takeTrap e code info flanes = (s1.fault w true false).trapWaits e (.page [w])) ∨
          s.takeTrap e code info flanes = s1.unhandled e 1 code info flanes)))) := by
  by_cases h : e.trapEnds code = true
  · refine .inl ⟨h, ?_⟩
    unfold State.takeTrap
    simp only [Env.trapEnds, Bool.or_eq_true, Bool.and_eq_true, decide_eq_true_eq] at h
    by_cases h1 : (e.inStep && (decide (code = .xlfail) || decide (code = .quota))) = true
    · exact ⟨1, .inl rfl, by simp only [h1, if_true]⟩
    · by_cases h2 : (!code.entersHandler || decide (e.c.tvec = 0)) = true
      · refine ⟨if e.g.handler.isSome then 2 else 1, ?_, by simp only [h1, h2, Bool.false_eq_true, if_true, if_false]⟩
        split
        · exact .inr rfl
        · exact .inl rfl
      · have h3 : e.g.handler.isSome = true := by
          simp only [Bool.or_eq_true, Bool.and_eq_true, decide_eq_true_eq] at h1 h2
          tauto
        exact ⟨2, .inr rfl, by simp only [h1, h2, h3, Bool.false_eq_true, if_true, if_false]⟩
  · refine .inr ⟨by simpa using h, ?_⟩
    have h' : (e.inStep && (decide (code = .xlfail) || decide (code = .quota))) = false ∧
        (!code.entersHandler || decide (e.c.tvec = 0)) = false ∧ e.g.handler.isSome = false := by
      simp only [Env.trapEnds, Bool.not_eq_true, Bool.or_eq_false_iff] at h
      exact ⟨h.1.1.1, by simp only [h.1.1.2, h.1.2, Bool.or_self], h.2⟩
    unfold State.takeTrap
    simp only [h'.1, h'.2.1, h'.2.2, Bool.false_eq_true, if_false]
    by_cases hr : e.replaying = true
    · exact .inl ⟨hr, by simp only [hr, if_true]⟩
    · have hr' : e.replaying = false := by simpa using hr
      simp only [hr', Bool.false_eq_true, if_false]
      cases hf : e.c.freeCont with
      | none => exact .inr (.inl ⟨trivial, rfl, by simp only⟩)
      | some i =>
        refine .inr (.inr ⟨trivial, i, _, rfl, rfl, ?_⟩)
        simp only
        generalize s.xlate e (e.c.contAddr i) 1 = x
        obtain ⟨x, s1⟩ := x
        cases x with
        | ok pa leaf =>
          cases hb : e.hbm with
          | false => exact .inr (.inl ⟨pa, leaf, rfl, rfl, by simp [State.trapWaits]⟩)
          | true => exact .inl ⟨pa, leaf, rfl, rfl, by simp⟩
        | access => exact .inr (.inr (.inr (.inr (.inr rfl))))
        | park w h m => exact .inr (.inr (.inl ⟨w, h, m, rfl, rfl⟩))
        | remote n => exact .inr (.inr (.inr (.inr (.inl ⟨n, rfl, _, rfl, rfl⟩))))
        | deferred => exact .inr (.inr (.inr (.inl ⟨rfl, rfl⟩)))

end Sys2Proof.Machine
end

