-- ==== Sys2Proof/Tests/Slice0.lean ====
section
/-! SUPPORT. The model's own tests: words of the spec's encodings, ill-formed terms, single steps, and for each statement of the
certificates a state and operands that meet its hypotheses. -/

set_option Elab.async false

namespace Sys2Proof.Tests

open Sys2Proof Sys2Proof.Machine

/-! ### A small machine: one context, grid, team and group, its slot 0 issuing at 0x10040 -/

def tCtx : Ctx := placedCtx
def tGrid : Grid := { placedGrid 1 with k := { placedKernel with scrb := 256, dsb := 32 } }
def tTeam : Team := { grid := 1, no := 0, core := 0, base := 0, groups := [1], granted := true }
def tSlot : Slot := { live := true, pc := 0x10040, mask := 7 }
def tGroup : Group := { team := 1, no := 0, part := 0, slot0 := tSlot, full := true, bound := 128 }
def tState (g : Group := tGroup) (t : Team := tTeam) (gr : Grid := tGrid) (c : Ctx := tCtx) (n : Nat := 12) : State :=
  { ctxs := [(1, c)], grids := [(1, gr)], teams := [(1, t)], groups := [(1, g)], cores := [(0, {})], vfs := [(0, { en := true })]
    nextId := 2, cycle := 100, dev := { ready := true, fuseKey := 0, fuseVersion := 0 }
    cur := some { gid := 1, slot := false, pc := g.slot0.pc, len := n } }
def tEnv (g : Group := tGroup) (t : Team := tTeam) (gr : Grid := tGrid) (c : Ctx := tCtx) (n : Nat := 12) : Env :=
  { gid := 1, slot := false, pc := g.slot0.pc, len := n, pfx := none, next := none, g, t, gr, c, hbm := true }
def withS (n : Nat) (v : BitVec 64) (g : Group := tGroup) : Group := { g with regs := g.regs.setS n v }
def withV (n : Nat) (f : Nat → Word) (g : Group := tGroup) : Group := { g with regs := { g.regs with v := Map.set g.regs.v n (mkLanes f) } }
def withP (n : Nat) (m : LaneMask) (g : Group := tGroup) : Group := { g with regs := g.regs.setPred n (-1) m }
def vreg (n : BitVec 8) : Src := .vec n false false

/-- Every `tEnv g t gr c n` below is the issuing slot of `tState g t gr c n`. -/
theorem tEnv_issues (g : Group) (t : Team) (gr : Grid) (c : Ctx) (n : Nat) (hg : g.team = 1) (ht : t.grid = 1) (hr : gr.ctx = 1) :
    (tState g t gr c n).env? = some (tEnv g t gr c n) := by
  simp [State.env?, State.envOf, tState, tEnv, State.group?, State.team?, State.grid?, State.ctx?, Map.get?, hg, ht, hr,
    State.admits, State.vf]
  by_cases h : 0 = c.vf
  · rw [if_pos h]; rfl
  · rw [if_neg h]; rfl

def ruleOk (e : Env) (i : Instr) (p : LaneRule → Bool) : Bool := match elementLane e i with
  | some r => p r
  | none => false

/-- Page 1 of the context's space, readable, writable and executable, at physical 0x20000: its leaf, tables and TLB entry, and a route
hint that names this module. -/
def tLeaf : BitVec 64 := 0x2000F
def tTlb : Tlb := { asid := 1, page := 1, pages := 1, entry := tLeaf, level := 4 }
def tTables : List Host.Cell :=
  [(65536, 1#8), (65537, 16#8), (65538, 1#8), (69632, 1#8), (69633, 32#8), (69634, 1#8), (73728, 1#8), (73729, 48#8), (73730, 1#8),
    (77824, 1#8), (77825, 64#8), (77826, 1#8), (81928, 15#8), (81930, 2#8)]
def mapped (s : State) : State :=
  { s with mem := tTables ++ s.mem, cores := [(0, { tlb := [tTlb] })], hints := [[(1, 1, 0)], []] }
def xlOk (r : Xl × State) (s : State) : Bool := match r with
  | (.ok _ leaf, t) => !leafWatch leaf && t = s
  | _ => false
/-- Every active lane's access translates to an unwatched page and leaves the state as it was. -/
def lanesMap (e : Env) (s : State) (xl : State → Acc → Xl × State) (x : XArgs) (base : BitVec 64) : Bool :=
  (e.activeLanes x).all fun l => xlOk (xl s { lane := l, va := base + e.offset x l, off := e.offset x l }) s
/-- An address of the context's space is in the TLB, allowed for the kind, at a physical one: `Env.Mapped` as a test. -/
def mapsTo (e : Env) (s : State) (va kind pa : Nat) : Bool :=
  va < 2 ^ 56 && (match s.tlbFind e.t.core (asidOf e.cid) (va / 65536) with
    | some t => (match useLeaf e.c.privc e.cid va kind t.entry t.level with
      | .ok p _ => p = pa
      | _ => false)
    | none => false)
def lanesFit (e : Env) (x : XArgs) (n : Nat) (base : BitVec 64) : Bool :=
  (e.activeLanes x).all fun l => (base + e.offset x l).toNat % (4 * n) = 0
def scratchFits (e : Env) (x : XArgs) (size : Nat) : Bool :=
  e.t.granted && (e.activeLanes x).all fun l => (e.offset x l).toNat % size = 0 && (e.offset x l).toNat + size ≤ e.gr.k.scrb

/-! ### Witnesses: element-wise and cross-lane instructions -/

theorem test_wit_ScalarResults :
    (scalarResult (tEnv) (.sadd 60 1 2) = some (60, 0) ∧ (60 : BitVec 6).toNat < 61) ∧
    (scalarResult (tEnv (withS 1 1)) (.smov 61 1) = some (61, 1) ∧ 61 ≤ (61 : BitVec 6).toNat ∧
      (emWrite (7 : LaneMask) 0 0 1).1 ≠ 0) ∧
    (scalarResult tEnv (.smov 61 1) = some (61, 0) ∧ (emWrite (7 : LaneMask) 0 0 0).1 = 0 ∧ (tEnv).otherLive = false ∧ (tEnv).g.depth = 0) := by
  decide +kernel

theorem test_wit_ScalarCountsAndDivision :
    ((tEnv).NoPop 60 0 ∧ (tEnv).NoPop 61 0 ∧ (tEnv (withS 1 1)).NoPop 63 1 ∧ (tEnv).s 1 = 0 ∧ (tEnv (withS 1 1)).s 1 ≠ 0) ∧
    (let r := divisionOf true ((tEnv (withS 1 7)).s 1) ((tEnv (withS 1 7)).s 1)
     (tEnv (withS 1 7)).Quiet { divz := r.2.2.1, ovf := r.2.2.2 } ∧ (tEnv (withS 1 7)).NoPop 61 r.1) ∧
    (let r := divisionOf true ((tEnv).s 1) ((tEnv).s 2)
     flagTrap (0x200 : BitVec 64) { divz := r.2.2.1, ovf := r.2.2.2 } ≠ none) := by
  decide +kernel

def xAdd (d : Dst) : XArgs := { dst := d, ty := .n32, a := vreg 1, b := vreg 2 }
def xCmp (d : Dst) : XArgs := { dst := d, ty := .i32, fn := 2, a := vreg 1, b := vreg 2 }
def xDiv : XArgs := { dst := .discard, ty := .i32, a := vreg 1, b := vreg 2 }
def gDead : Group := { tGroup with regs := { tGroup.regs with vdead := 2, astat := 0x100 } }
def gDivz : Group := { tGroup with regs := { tGroup.regs with astat := 0x200 } }
def gLoad : Group := { tGroup with loads := [{ id := 5, reg := 1, lanes := 7, vals := [mkLanes fun _ => 9] }] }

theorem test_wit_VectorResultsAndFrame :
    ruleOk tEnv (.iadd (xAdd (.vec 127))) (fun r => r.1.dst = .vec 127 ∧ (tEnv).Ready (sourcesUse r.1 r.2.1 1) ∧
      (tEnv).Quiet ((tEnv).laneFlagsOf r)) ∧
    ruleOk tEnv (.icmp (xCmp (.pred 6))) (fun r => r.1.dst = .pred 6 ∧ (tEnv).Ready (sourcesUse r.1 r.2.1 1) ∧
      (tEnv).Quiet ((tEnv).laneFlagsOf r)) := by
  decide +kernel

theorem test_wit_ElementwiseScalarsAndPairs :
    ruleOk tEnv (.iadd (xAdd (.scal 60))) (fun r => r.1.dst = .scal 60 ∧ (tEnv).Ready (sourcesUse r.1 r.2.1 1) ∧
      (tEnv).Quiet (((tEnv).deadFlag (sourcesUse r.1 r.2.1 1)).or ((tEnv).laneAt r 0).fl) ∧
      (tEnv).NoPop 60 (BitVec.ofNat 64 (((tEnv).laneAt r 0).val % 2 ^ 32))) ∧
    ruleOk tEnv (.iadd (xAdd (.scal 61))) (fun r => r.1.dst = .scal 61 ∧ (tEnv).Ready (sourcesUse r.1 r.2.1 1) ∧
      (tEnv).Quiet (((tEnv).deadFlag (sourcesUse r.1 r.2.1 1)).or ((tEnv).laneAt r 0).fl) ∧
      (tEnv).NoPop 61 (BitVec.ofNat 64 (((tEnv).laneAt r 0).val % 2 ^ 32))) ∧
    ((wideLane tEnv (.mov { dst := .vec 126, ty := .b64, a := vreg 2 })).isSome ∧
      (tEnv).Ready (sourcesUse { dst := .vec 126, ty := .b64, a := vreg 2 } 1 2) ∧
      (tEnv).Quiet ((tEnv).deadFlag (sourcesUse { dst := .vec 126, ty := .b64, a := vreg 2 } 1 2))) ∧
    ((wideLane tEnv (.mov { dst := .scal 0, ty := .b64, a := .scal 2 })).isSome ∧
      (tEnv).Ready (sourcesUse { dst := .scal 0, ty := .b64, a := .scal 2 } 1 2) ∧
      (tEnv).Quiet ((tEnv).deadFlag (sourcesUse { dst := .scal 0, ty := .b64, a := .scal 2 } 1 2)) ∧ (tEnv).NoPop 0 0 ∧ (tEnv).NoPop 62 0) := by
  decide +kernel

theorem test_wit_ElementwiseFlagsAndTraps :
    ruleOk tEnv (.iadd (xAdd .discard)) (fun r => r.1.dst = .discard ∧ (tEnv).Ready (sourcesUse r.1 r.2.1 1) ∧
      (tEnv).Quiet ((tEnv).laneFlagsOf r)) ∧
    ruleOk (tEnv gDead) (.iadd (xAdd (.vec 3))) (fun r => (tEnv gDead).Ready (sourcesUse r.1 r.2.1 1) ∧
      flagTrap gDead.regs.astat ((tEnv gDead).laneFlagsOf r) = some .poison) ∧
    ruleOk (tEnv gDivz) (.idiv xDiv) (fun r => (tEnv gDivz).Ready (sourcesUse r.1 r.2.1 1) ∧
      flagTrap gDivz.regs.astat ((tEnv gDivz).laneFlagsOf r) = some .divz) := by
  decide +kernel

theorem test_wit_OperandsAreAwaited :
    ruleOk tEnv (.iadd { xAdd (.vec 3) with a := vreg 128 }) (fun r => (tEnv).exists? (sourcesUse r.1 r.2.1 1) = false) ∧
    ruleOk (tEnv gLoad) (.iadd (xAdd (.vec 127))) (fun r => (tEnv gLoad).exists? (sourcesUse r.1 r.2.1 1) = true ∧
      ((tEnv gLoad).useRegs (sourcesUse r.1 r.2.1 1)).any (tEnv gLoad).awaited.contains = true) := by
  decide +kernel

def xVote : XArgs := { dst := .scal 4, ty := .b32, fn := 1, a := .pred 1 }
def xBallot : XArgs := { dst := .vec 4, ty := .b32, fn := 2, a := vreg 1 }

/-- A spread to a scalar register frees no slot where the write does not. -/
theorem spreads (e : Env) (x : XArgs) (d : BitVec 6) (v : Word) (hx : x.dst = .scal d) (h : e.NoPop d (v.setWidth 64)) : e.SpreadNoPop x v := by
  intro d' hd
  cases hx.symm.trans hd
  exact h

/-- A spread to a vector register frees none. -/
theorem spreads_vec (e : Env) (x : XArgs) (d : BitVec 8) (v : Word) (hx : x.dst = .vec d) : e.SpreadNoPop x v := by
  intro d' hd
  cases hx.symm.trans hd

theorem test_wit_VotesAndBallots :
    ((tEnv).Ready (sourcesUse xBallot 1 1) ∧ (tEnv).Quiet ((tEnv).deadFlag (sourcesUse xBallot 1 1)) ∧ (tEnv).SpreadNoPop xBallot 7) ∧
    ((tEnv).Ready (sourcesUse xVote 1 1) ∧ (tEnv).Quiet ((tEnv).deadFlag (sourcesUse xVote 1 1)) ∧ (tEnv).SpreadNoPop xVote 0) ∧
    ((tEnv).Ready (sourcesUse { xVote with dst := .scal 61 } 1 1) ∧ (tEnv).SpreadNoPop { xVote with dst := .scal 61 } 0) :=
  ⟨⟨by decide +kernel, by decide +kernel, spreads_vec _ _ 4 _ rfl⟩,
    ⟨by decide +kernel, by decide +kernel, spreads tEnv xVote 4 0 rfl (by decide +kernel)⟩,
    by decide +kernel, spreads tEnv { xVote with dst := .scal 61 } 61 0 rfl (by decide +kernel)⟩

def xRedux : XArgs := { dst := .vec 4, ty := .i32, fn := 1, a := vreg 1 }

theorem test_wit_ReductionsFoldActiveLanes :
    (tEnv).Ready (sourcesUse xRedux 1 1) ∧
    (tEnv).Quiet { (tEnv).deadFlag (sourcesUse xRedux 1 1) with
      inexact := (reduce .i32 1 .rne ((tEnv).active xRedux) ((tEnv).val xRedux (.ofTy .i32) .i32 xRedux.a)).2 } ∧ xRedux.fn.toNat ≤ 5 ∧
    (tEnv).SpreadNoPop xRedux 5 ∧ (tEnv).SpreadNoPop { xRedux with dst := .scal 63 } 0 :=
  ⟨by decide +kernel, by decide +kernel, by decide +kernel, spreads_vec _ _ 4 _ rfl,
    spreads tEnv { xRedux with dst := .scal 63 } 63 0 rfl (by decide +kernel)⟩

def xGet : XArgs := { dst := .scal 60, ty := .b64, a := vreg 2, b := .scal 1 }
def xPut : XArgs := { dst := .vec 126, ty := .b64, a := .scal 2, b := .scal 1 }

theorem test_wit_MovesBetweenLanes :
    ((tEnv).Ready { srcs := [(vreg 120, 8)], dst := some (.vec 120), n := 8 } ∧
      (tEnv).Quiet ((tEnv).deadFlag { srcs := [(vreg 120, 8)], dst := some (.vec 120), n := 8 })) ∧
    ((tEnv).Ready { srcs := [(xGet.a, 2)], dst := some xGet.dst } ∧ (tEnv).Quiet ((tEnv).deadFlag { srcs := [(xGet.a, 2)], dst := some xGet.dst }) ∧
      (tEnv).NoPop 60 0) ∧
    (tEnv).Ready { dst := some xPut.dst, n := 2 } := by
  decide +kernel

theorem test_wit_PredicatesComputedAndMoved :
    ((vreg 1).isVec = true ∧ (tEnv).Ready (sourcesUse { dst := .pred 6, ty := .b32, a := vreg 1 } 1 1) ∧
      (tEnv).Quiet ((tEnv).deadFlag (sourcesUse { dst := .pred 6, ty := .b32, a := vreg 1 } 1 1))) ∧
    ((127 : BitVec 8).toNat < (tEnv).g.bound ∧ (tEnv).awaited.contains 127 = false) ∧
    (let v : BitVec 64 := (((tEnv).g.regs.pred 7).extractLsb' 64 32).setWidth 64
     (tEnv).NoPop 61 v) := by
  decide +kernel

/-! ### Witnesses: control -/

def gFar : Group := { withS 60 0x10044 (withS 1 0x10046 (withS 2 (2 ^ 40))) with slot0 := tSlot }

theorem test_wit_BranchesAndReturns :
    ((tEnv).inWindow ((tEnv).pc + (1 : BitVec 22).signExtend 64 * 4) = true ∧ (tEnv).inWindow ((tEnv).pc - 0x40) = true) ∧
    ((tEnv).inWindow ((tEnv).pc + (-17 : BitVec 22).signExtend 64 * 4) = false) ∧
    (((tEnv gFar).s 60).extractLsb' 0 2 = 0 ∧ (tEnv gFar).inWindow ((tEnv gFar).s 60) = true) ∧
    (((tEnv gFar).s 1).extractLsb' 0 2 ≠ 0) ∧
    (((tEnv gFar).s 2).extractLsb' 0 2 = 0 ∧ (tEnv gFar).inWindow ((tEnv gFar).s 2) = false) ∧
    (((tEnv).s 1 == 0) = true ∧ ((tEnv gFar).s 1 == 0) = false) ∧
    (((tEnv (withS 60 0x10046)).s 60).extractLsb' 0 2 ≠ 0) ∧
    (((tEnv (withS 60 (2 ^ 40))).s 60).extractLsb' 0 2 = 0 ∧ (tEnv (withS 60 (2 ^ 40))).inWindow ((tEnv (withS 60 (2 ^ 40))).s 60) = false) := by
  decide +kernel

/-- Slot 1 runs beside slot 0, which is under p1 = lanes 0; slot 1 waits at a JOIN or runs. -/
def gPair (join : Bool) (pc : BitVec 64) : Group :=
  { withP 1 1 with slot1 := { live := true, pc, mask := 0x38, join } }
def gStack (n : Nat) : Group := { gPair false 0x10080 with depth := n, regs := { (withP 1 1).regs with dstkb := 0x10100 } }
/-- One entry of the stack: lanes 0x700 at offset 0x60 of the window. -/
def sPop (g : Group) : State :=
  { mapped (tState g) with mem := tTables ++ [(0x20101, 7#8), (0x2010C, 0x60#8)] }
def gPop : Group := { tGroup with depth := 1, stacked := 0x700, regs := { tGroup.regs with dstkb := 0x10100 } }

theorem test_wit_DivergenceAndReconvergence :
    ((tEnv (withP 1 1)).under false 2 = 0) ∧
    ((tEnv (withP 1 1)).under false 1 ≠ 0 ∧ (tEnv (withP 1 1)).inWindow ((tEnv).pc + (-17 : BitVec 24).signExtend 64 * 4) = false) ∧
    ((tEnv).under false 7 ≠ 0 ∧ (tEnv).inWindow ((tEnv).pc + (1 : BitVec 24).signExtend 64 * 4) = true ∧ (tEnv).lanes &&& ~~~(tEnv).under false 7 = 0) ∧
    ((tEnv (withP 1 1)).lanes &&& ~~~(tEnv (withP 1 1)).under false 1 ≠ 0 ∧ (tEnv (withP 1 1)).otherLive = false) ∧
    ((tEnv (gStack 2)).otherLive = true ∧ (tEnv (gStack 2)).gr.k.dsb / 16 ≤ (tEnv (gStack 2)).g.depth ∧ (tEnv (gStack 2)).under false 1 ≠ 0) ∧
    ((tEnv (gStack 1)).g.depth < (tEnv (gStack 1)).gr.k.dsb / 16 ∧ (gStack 1).audit = .off ∧
      xlOk ((mapped (tState (gStack 1))).xlate (tEnv (gStack 1)) 0x10110 1) (mapped (tState (gStack 1)))) ∧
    (((tEnv).g.slot true).live = false ∧ (tEnv).g.depth = 0 ∧ (tEnv).sl.live = true) ∧
    (((gPair false 0x10040).slot true).live = true ∧ ((gPair false 0x10040).slot true).join = false) ∧
    (((gPair true 0x10040).slot true).join = true ∧ ((gPair true 0x10040).slot true).pc = (tEnv (gPair true 0x10040)).pc) ∧
    ((tEnv (gPair true 0x10044)).pc.toNat < ((gPair true 0x10044).slot true).pc.toNat ∧
      ((gPair true 0x1003C).slot true).pc.toNat < (tEnv (gPair true 0x1003C)).pc.toNat) ∧
    ((tEnv (gStack 1)).hbm = true ∧ (tEnv gPop).hbm = true) ∧
    (let s := (sPop gPop).setGroup 1 (tEnv gPop).atJoin
     xlOk (s.xlate (tEnv gPop) ((tEnv gPop).stackAt 0) 0) s ∧ (s.num (tEnv gPop).viewer none 0x20100 16) ≠ 0 ∧
       (let r := s.loaded (tEnv gPop) 0x20100 16
        r.1 = s.num (tEnv gPop).viewer none 0x20100 16 ∧ r.2.atJoin (tEnv gPop) (entryPc (tEnv gPop).gr.k.hdr r.1) = false) ∧
       badEntry (tEnv gPop).atJoin (s.num (tEnv gPop).viewer none 0x20100 16) = false ∧
       bit (s.num (tEnv gPop).viewer none 0x20100 16) 96 = false) := by
  decide +kernel

def gErr : Group := { tGroup with engErr := [(3, 6, 0x500)] }
def tEngOp : EngOp := { kind := .cpy false, record := 0, off := 0, other := 0, runs := [] }

theorem test_wit_ExitsFreeSlots :
    (((gPair false 0x10040).slot true).live = true ∧ (gPair false 0x10040).depth = 0 ∧ ((gPair true 0x10040).slot true).join = true) ∧
    (let s := (sPop gPop).setGroup 1 (tEnv gPop).freed
     xlOk (s.xlate (tEnv gPop) ((tEnv gPop).stackAt 0) 0) s ∧
       badEntry (tEnv gPop).freed (s.num (tEnv gPop).viewer none 0x20100 16) = false ∧
       bit (s.num (tEnv gPop).viewer none 0x20100 16) 96 = false ∧ ((gPop.slot true).live && (gPop.slot true).join) = false ∧
       (s.loaded (tEnv gPop) 0x20100 16).2.atJoin (tEnv gPop) 0x10060 = false ∧ entryPc (tEnv gPop).gr.k.hdr (s.num (tEnv gPop).viewer none 0x20100 16) = 0x10060) ∧
    (let s : State := { (sPop gPop) with mem := tTables ++ [(0x20063, 0x01#8), (0x20062, 0xC0#8)] }
     s.atJoin (tEnv gPop) 0x10060 = true ∧ ((gPair false 0x10040).slot true).live = true) ∧
    ((tEnv).otherLive = false ∧ tGroup.pair = none ∧ tGroup.audit = .off ∧ tGroup.eng = [[], [], [], []] ∧ tGroup.mat = [] ∧ tGroup.engErr = [] ∧
      tGroup.matErr = []) ∧
    ({ tGroup with eng := [[tEngOp], [], [], []] }.eng ≠ [[], [], [], []]) ∧
    ((∀ q ∈ gErr.eng, q = []) ∧ gErr.mat = [] ∧ gErr.engErr = [(3, 6, 0x500)]) := by
  decide +kernel

theorem test_wit_NopOnlyPasses : (tEnv tGroup tTeam tGrid tCtx 4).len = 4 ∧
    (0x3FFFFF : Word).extractLsb' 22 8 = 0 ∧ ((0x3FFFFF : Word).extractLsb' 30 2).toNat ≤ 1 ∧ (0x3FFFFF : Word) ≠ 0 := by decide +kernel
theorem test_wit_BadPairingTraps : BadPairing 0x3FC00000 ∧ BadPairing 0x80000000 ∧ BadPairing 0x10000000 ∧ BadPairing 0x40000000 := by
  decide +kernel
theorem test_wit_TrapRaisesTrapi : (0x05C00400 : Word).extractLsb' 22 10 = 0x17 ∧ (0x05C00400 : Word).extractLsb' 10 12 ≠ 0 := by decide +kernel

def cHandler : Ctx := { tCtx with tvec := 0x11000, conta := 0x10400, contn := 2, contUsed := [0] }
def gHandler : Group := { withS 60 0x10400 with handler := some (false, 0, 0) }

theorem test_wit_TrapsAndReturns :
    ((tEnv tGroup tTeam tGrid cHandler).CanHandle 1 ∧
      xlOk ((mapped (tState tGroup tTeam tGrid cHandler)).xlate (tEnv tGroup tTeam tGrid cHandler) (0x10400 + 24576) 1)
        (mapped (tState tGroup tTeam tGrid cHandler))) ∧
    (tGrid.step = none ∧ tCtx.tvec = 0 ∧ gHandler.handler.isSome = true ∧ (tEnv).len < 256) ∧
    (tEnv gHandler).hbm = true ∧ ((tEnv).g.handler = none) ∧ ({ gHandler with depth := 1 }.handler = some (false, 0, 0)) ∧
    (let s := { mapped (tState gHandler) with mem := tTables ++ [(0x20408, 7#8), (0x20411, 0x02#8), (0x20412, 0x01#8)] }
     xlOk (s.xlate (tEnv gHandler) (gHandler.regs.s.getD 60 0).toNat 0) s ∧
       ((BitVec.ofNat 64 (bits (s.num (tEnv gHandler).viewer none 0x20400 64) 191 128 + 7) : BitVec 64) - tGrid.k.hdr).toNat < 2 ^ 32) := by
  decide +kernel

theorem test_wit_PrefixPairs :
    let p : Prefix := { ord := .acq, scope := .device, cache := 0, nt := false, rx := false }
    pairOk p (.ldg (xAdd (.vec 1))) = true ∧ pairOk p (.stg (xAdd (.vec 1))) = false ∧
    ({ p with rx := true } : Prefix).rx = true := by
  decide +kernel

/-! ### Witnesses: steps -/

/-- The program of one word at 0x10000: the state before the step that runs it. -/
def sProg (ws : List Word) : State :=
  let s := mapped (tState { tGroup with slot0 := { tSlot with pc := 0x10000 } })
  { s with mem := tTables ++ (((ws.map fun w => leBytes 4 w.toNat).flatten).zipIdx.map fun (p : Byte × Nat) => (0x20000 + p.2, p.1)).filter fun c => c.2 ≠ 0
           cores := [(0, { tlb := [tTlb], parts := [{ active := [1] }, {}, {}, {}] })]
           sched := [.issue 1 false], cur := none }
def fetched (ws : List Word) (at_ fuel : Nat) : List Word :=
  let s := ((sProg ws).clocked []).noteIssue 1 false
  match s.envOf { gid := 1, slot := false, pc := 0x10000, len := 4 } with
  | some e => (match s.fetchInstr e (0x10000 + at_) fuel with
    | (.words l _, _) => l
    | _ => [])
  | none => []

/-- The program's first unit is fetched, and it is its turn: the state that names its issue is the one that executes it. -/
def itsTurn (ws : List Word) (i : Instr) : Bool :=
  let s := ((sProg ws).clocked []).noteIssue 1 false
  match s.envOf { gid := 1, slot := false, pc := 0x10000, len := 4 } with
  | none => false
  | some e => match s.fetchInstr e 0x10000 0 with
    | (.words _ s1, n) =>
      let t := s1.runs { gid := 1, slot := false, pc := 0x10000, len := n }
      (match t.env? with
        | some d => d.turn t i && d.loggedTrap.isNone
        | none => false)
    | _ => false

theorem test_wit_StepRunsDecodedInstruction :
    fetched [0x05C00005] 0 0 = [0x05C00005] ∧ decode [0x05C00005] = .ok (.trap 5, 1) ∧
    fetched [0x3FC00000] 0 0 = [0x3FC00000] ∧ (decode [0x3FC00000]).isOk = false ∧ mpxWord [0x3FC00000] = false ∧
    fetched [0x073F0000, 0x0F800000] 0 0 = [0x073F0000] ∧ (decode [0x073F0000]).isOk = false ∧ mpxWord [0x073F0000] = true ∧
    fetched [0x073F0000, 0x0F800000] 4 4 = [0x0F800000] ∧
    fetched [0x070B0000, 0x0F800000] 0 0 = [0x070B0000] ∧ fetched [0x070B0000, 0x0F800000] 4 4 = [0x0F800000] ∧
    (let s := sProg [0x05C00005]
     s.due = [] ∧ (s.clocked []).selects 1 false = true ∧ ((s.clocked []).group? 1).map (fun g => (g.mayAct false, g.slot0.wait, g.slot0.wait.rests)) =
       some (true, .ready, false) ∧ itsTurn [0x05C00005] (.trap 5) = true ∧ (tEnv).inWindow 0x10000 = true ∧ (tEnv).inWindow 0x10004 = true ∧
       (tEnv).inWindow (0x10000 + 0xFFFFFFFC) = true ∧ (tEnv).inWindow (0x10000 + 0xFFFFFFFC + 4) = false) ∧
    ({ tSlot with wait := .engine }.wait ≠ .ready ∧ Wait.engine.rests = false ∧ { tGroup with slot0 := { tSlot with wait := .engine } }.mayAct false = true) := by
  decide +kernel

theorem test_wit_FetchesAndOtherMoves :
    (sProg []).sched = [.issue 1 false] ∧ ((sProg []).group? 1).isSome ∧ ((mapped tState).vf 0).left = List.replicate 4 none ∧ (tEnv).hbm = true ∧
    (∀ k ∈ List.range 5, xlOk ((mapped (tState)).xlate (tEnv { tGroup with slot0 := { tSlot with pc := 0x10000 } }) (0x10000 + 4 * k) 3) (mapped (tState))) ∧
    ({ sProg [] with cores := [] }.clocked []).selects 1 false = false ∧ (sProg []).due = [] ∧
    (let s : State := { sProg [] with teams := [(1, { tTeam with bars := [(0, { arrived := [0], t0 := 0, period := 50 })] })] }
     s.due = [.barrierWatchdogExpiry 1 0]) ∧ encode (.barrierWatchdogExpiry 1 0) = [] ∧
    { tGroup with slot0 := {} }.mayAct false = false ∧ (Wait.bar 3 0).rests = true ∧ (Wait.page []).rests = true ∧
    encode Instr.budgetPeriodStart = [] := by
  decide +kernel

/-! ### Witnesses: memory accesses -/

def tGreg : GReg := { base := 0x10000, frame := 0x20000, leaf := tLeaf, level := 4, limit := 65536, request := 65536, written := true }
def gReg : Group := withV 2 (fun l => BitVec.ofNat 32 (16 * l))
  { tGroup with regs := { tGroup.regs with g := tGroup.regs.g.set 3 tGreg } }
def xMem (dst : Dst) (a c : Src) (fn : BitVec 5 := 0) : XArgs := { dst, ty := .b32, fn, a, b := vreg 2, c }

theorem test_wit_LoadsWaitForRegisters :
    let e := tEnv (withS 5 0x10000 gReg)
    let s := mapped (tState (withS 5 0x10000 gReg))
    e.Fresh ∧ (s.vf e.c.vf).left = List.replicate 4 none ∧
    (e.Ready { srcs := [(vreg 2, 1)], dst := some (.vec 127) } ∧ e.Quiet (e.deadFlag { srcs := [(vreg 2, 1)] }) ∧
      (e.greg (.greg 3)).written = true ∧ lanesFit e (xMem (.vec 127) (.greg 3) .none) 1 0x10000 ∧
      lanesMap e s (fun s a => s.xlGreg e (e.greg (.greg 3)) 0 a) (xMem (.vec 127) (.greg 3) .none) 0x10000) ∧
    (e.s 5 = 0x10000 ∧ lanesMap e s (fun s a => s.xlFab e 0 a) (xMem (.vec 127) (.scal 5) .none) 0x10000) ∧
    (e.Ready { srcs := [(vreg 2, 1), (vreg 1, 1)], dst := some (.vec 126), n := 2 } ∧
      lanesFit e (xMem (.vec 126) (.greg 3) (vreg 1)) 2 0x10000) := by
  decide +kernel

def gOne : Group := withP 1 1 gReg
def xOne (dst : Dst) (c : Src) (fn : BitVec 5) : XArgs := { xMem dst (.scal 0) c fn with pi := 1 }
def tFull : Team := { tTeam with full := [(0, ())] }

theorem test_wit_ScratchpadAccesses :
    let e := tEnv gReg
    ((e.Fresh ∧ e.Ready { srcs := [(vreg 2, 1)], dst := some (.vec 127) } ∧ scratchFits e (xMem (.vec 127) (.scal 0) .none) 4) ∧
      (regCount 0 = 1 ∧ regCount 1 = 1 ∧ regCount 2 = 1)) ∧
    ((tEnv gOne).activeLanes (xOne (.vec 127) .none 1) = [0] ∧ (tState gOne tFull).isFull 1 0 = true ∧ (tState gOne).isFull 1 0 = false) ∧
    (e.Ready (storeUse (xMem .discard (.scal 0) (vreg 1)) 1) ∧ scratchFits e (xMem .discard (.scal 0) (vreg 1)) 4 ∧ gReg.pair = none ∧
      releases (e.pfxOf .store .team).ord = false) ∧
    ((tEnv gOne).activeLanes (xOne .discard (vreg 1) 1) = [0] ∧
      ((tState gOne).settleBytes (some 1) 0 16 .team).isFull 1 0 = false ∧ ((tState gOne tFull).settleBytes (some 1) 0 16 .team).isFull 1 0 = true) := by
  decide +kernel

theorem test_wit_UniformAccesses :
    let g := withS 5 0x10000 tGroup
    let s := mapped (tState g)
    (tEnv g).Fresh ∧ (tEnv g).lanes ≠ 0 ∧ ((tEnv g).s 5 + (-8 : BitVec 10).signExtend 64 + 8).toNat % 8 = 0 ∧
    xlOk (s.xlate (tEnv g) ((tEnv g).s 5 + (8 : BitVec 10).signExtend 64).toNat 0) s ∧
    xlOk (s.xlate (tEnv g) ((tEnv g).s 5 + (8 : BitVec 64)).toNat 1) s ∧ releases ((tEnv g).pfxOf .store .pod).ord = false := by
  decide +kernel

theorem test_wit_TranslationAndPrefetch :
    let g := withS 5 0x1FFF8 tGroup
    let s := mapped (tState g)
    xlOk (s.xlate (tEnv g) ((tEnv g).s 5).toNat 0) s ∧ (s.tlbFind 0 1 (0x1FFF8 / 65536)).isSome ∧
    (tEnv g).exists? { srcs := [(vreg 127, 1)] } = true ∧ (tEnv g).exists? { srcs := [(vreg 128, 1)] } = false := by
  decide +kernel

def sReq (g : Group) (gr : Grid := tGrid) : State := { tState g tTeam gr with reqs := [(7, { bits := 0, stream := some (0, 0, 1) })] }
def grStep : Grid := { tGrid with step := some (0, 0, 1), slots := [4], table := [(4, 7)] }

theorem test_wit_RequestRecordAccesses :
    let g := withV 2 (fun l => BitVec.ofNat 32 (4 * l)) (withS 5 7 tGroup)
    ((tEnv g).s 5).toNat < 65536 ∧ (sReq g).recordOf 1 7 = true ∧ (248 : BitVec 24).signExtend 64 = BitVec.ofNat 64 248 ∧
    ((tEnv g).Fresh ∧ (tEnv g).Ready { srcs := [(vreg 2, 1)], dst := some (.vec 127) } ∧
      ∀ l ∈ (tEnv g).activeLanes (xMem (.vec 127) (.scal 5) .none), (256 * 7 + 4 * l) % 4 = 0 ∧ 256 * 7 + 4 * l + 4 ≤ 2 ^ 24 ∧
        (sReq g).recordOf 1 ((256 * 7 + 4 * l) / 256) = true ∧
        ((256 * 7 + 4 * l : Nat) : Int) = 256 * 7 + (BitVec.ofNat 32 (((tEnv g).val (xMem (.vec 127) (.scal 5) .none) .int .b32 (vreg 2)).at l)).toInt) ∧
    (((tEnv g tTeam grStep).place (sReq g grStep)).2.1.toNat = 7 ∧ 252 + 4 ≤ 256 ∧ (12 : Nat) % 4 = 0 ∧
      releases ((tEnv g).pfxOf .store .device).ord = false) := by
  decide +kernel

theorem test_wit_StoresWriteLanes :
    let g := withS 5 0x10000 gReg
    let e := tEnv g
    let s := mapped (tState g)
    let x := xMem .discard (.greg 3) (vreg 1)
    e.Fresh ∧ e.Ready (storeUse x 1) ∧ e.Quiet (e.deadFlag (storeUse x 1)) ∧ releases (e.pfxOf .store .pod).ord = false ∧
    lanesFit e x 1 0x10000 ∧ lanesMap e s (fun s a => s.xlGreg e (e.greg (.greg 3)) 1 a) x 0x10000 ∧
    lanesMap e s (fun s a => s.xlFab e 1 a) { x with a := .scal 5 } 0x10000 := by
  decide +kernel

theorem test_wit_AtomicAccesses :
    let g := withS 5 0x10000 gReg
    let e := tEnv g
    let s := { mapped (tState g) with free := 1 }
    let x := xMem (.vec 127) (.greg 3) (vreg 1)
    e.Fresh ∧ e.Ready (atomicUse x) ∧ e.Quiet (e.deadFlag (atomicUse x)) ∧ releases (e.pfxOf .atomic .team).ord = false ∧
    releases (e.pfxOf .atomic .pod).ord = false ∧ scratchFits e { x with a := .scal 0 } 4 ∧
    (∀ l ∈ e.activeLanes x, (0x10000 + e.offset x l).toNat % atomicSize x = 0 ∧ s.pinnedBy e.g.team none (0x20000 + (e.offset x l).toNat) 4 = false) ∧
    lanesMap e s (fun s a => s.xlGreg e (e.greg (.greg 3)) 2 a) x 0x10000 ∧ lanesMap e s (fun s a => s.xlFab e 2 a) { x with a := .scal 5 } 0x10000 := by
  decide +kernel

def gOdd : Group := withV 2 (fun l => BitVec.ofNat 32 (2 * l)) gReg
def tClosed : Team := { tTeam with granted := false }
def tStore : PStore := { id := 1, gid := 1, team := 1, core := 0, sp := none, addr := 0x20800, bytes := [1], level := .group, held := false }
def pRel : Prefix := { ord := .rel, scope := .pod, cache := 0, nt := false, rx := false }

theorem test_wit_AccessChecksAndReleases :
    let e := tEnv gOdd
    let x := xMem (.vec 127) (.greg 3) (vreg 1)
    (e.Fresh ∧ e.Ready { srcs := [(vreg 2, 1)], dst := some (.vec 127) } ∧ e.Ready (storeUse x 1) ∧
      (mkMask fun l => (e.active x).getLsbD l && (0x10000 + e.offset x l).toNat % 4 != 0) ≠ 0) ∧
    ((mkMask fun l => (e.active x).getLsbD l && (0 + e.offset x l).toNat % 4 != 0) ≠ 0) ∧
    ((mkMask fun l => ((tEnv gReg tClosed).active x).getLsbD l && (0 + (tEnv gReg tClosed).offset x l).toNat % 4 != 0) = 0 ∧
      (tEnv gReg tClosed).t.granted = false ∧ (tEnv gReg tClosed).active x ≠ 0) ∧
    (let s : State := { tState gReg with pend := [tStore], cur := some { gid := 1, slot := false, pc := 0x10040, len := 12, pfx := some pRel } }
     let e : Env := { tEnv gReg with pfx := some pRel }
     releases (e.pfxOf .store .pod).ord = true ∧ s.settledAt 1 (e.pfxOf .store .pod).scope = false ∧ lanesFit e x 1 0x10000) := by
  decide +kernel

/-! ### Witnesses: keys, barriers, allotments, launches -/

def tKey : KeyId := { space := 1, team := 1, addr := 16 }
def cKey (x : Key) : Ctx := { tCtx with binds := [(tKey, 0, 1)], keys := [(tKey, x)] }
def gKey : Group := withS 7 32 (withS 6 64 (withS 5 16 tGroup))
def sKey (g : Group) (c : Ctx) : State := { tState g tTeam tGrid c with vfs := [(0, { en := true, bindn := 8 })], pend := [] }

theorem test_wit_KeysBindingsAndFences :
    let e := tEnv gKey tTeam tGrid (cKey {})
    let held := tEnv { gKey with keys := [tKey] } tTeam tGrid (cKey { holders := [(1, true)] })
    e.keyOf 1 (e.s 5) = tKey ∧ (tEnv (withS 5 17)).s 5 = 17 ∧ (e.keyOf 1 17).addr.toNat % 8 ≠ 0 ∧
    (tKey.addr.toNat % 8 = 0 ∧ e.sl.sent = false ∧ tKey.space ≠ 2) ∧
    (e.inSpace 1 256 8 = false ∧ 8 ≤ (List.replicate 8 tKey).length) ∧
    ({ tSlot with granted := some 0 }.granted = some 0) ∧
    (e.sl.granted = none ∧ tKey ∉ e.g.keys ∧ e.g.keys.length < 8 ∧ e.inSpace 1 16 8 = true ∧ (∃ b ∈ e.c.binds, b.1 = tKey) ∧
      (∀ q ∈ (e.c.key tKey).queue, ¬(q.who = 1 ∧ q.slot = false)) ∧ (e.c.key tKey).holders = [] ∧ (e.c.key tKey).queue = []) ∧
    (((cKey { holders := [(9, true)] }).key tKey).holders ≠ [] ∧ ¬ ∀ h ∈ ((cKey { holders := [(9, true)] }).key tKey).holders, h.2 = false) ∧
    (tKey ∈ held.g.keys ∧ (sKey held.g held.c).relSettled held held.c tKey = true ∧
      { sKey held.g held.c with pend := [{ tStore with sp := some 1, va := 8 }] }.relSettled held held.c tKey = false) ∧
    (e.inSpace 1 (e.s 6).toNat (e.s 7).toNat = true ∧ 0 < (e.s 7).toNat ∧ (e.s 7).toNat ≤ 2 ^ 32 ∧
      (sKey gKey (cKey {})).bindFits (cKey {}) tKey 64 32 = true ∧ (tState gKey).bindFits (cKey {}) tKey 64 32 = false) ∧
    ((1, true) ∈ (held.c.key tKey).holders ∧ ∀ p ∈ tCtx.binds, p.1 ≠ tKey) ∧
    ((tState).settledAt 1 .device = true ∧ { tState with pend := [tStore] }.settledAt 1 .device = false ∧ (∀ o ∈ (tState).fabOut, o.gid ≠ 1) ∧
      { tStore with atomic := true }.short .device = true ∧ ∀ p ∈ (tState).pend, p.gid ≠ 1) := by
  decide +kernel

/-- A BIND waits for stores to the region that it binds (R303). -/
theorem test_wit_BindingsAreOrdered :
    let e := tEnv gKey tTeam tGrid (cKey {})
    (let bound : Ctx := { e.c with binds := e.c.binds ++ [(tKey, regionSectors (e.s 6).toNat (e.s 7).toNat)] }
     let s := sKey gKey (cKey {})
     s.relSettled e bound tKey = true ∧ { s with pend := [{ tStore with sp := some 1, va := 70 }] }.relSettled e bound tKey = false ∧
       { s with pend := [{ tStore with sp := some 1, va := 70 }] }.relSettled e e.c tKey = true ∧ ((cKey {}).key tKey).queue = [] ∧
       ((cKey {}).key tKey).holders = [] ∧ (1, false) ∉ ((cKey {}).key tKey).holders ∧ (1, false) ∈ ((cKey { holders := [(1, false)] }).key tKey).holders) ∧
    (e.NoPop 60 1 ∧ e.NoPop 61 1 ∧ ((cKey {}).key tKey).abandoned = false ∧ tGroup.told = [] ∧ (tState).group? 1 = some tGroup) := by
  decide +kernel

/-- A pod key at 0x10010, kept here or by module 5, and a device key bound to another sector than a pending store's. -/
def kPod : KeyId := { space := 2, team := 0, addr := 0x10010 }
def kDev : KeyId := { kPod with space := 0 }
def isLocal (x : Xl) : Bool := match x with
  | .remote _ => false
  | .deferred => false
  | _ => true

theorem test_wit_KeysElsewhere :
    let e := tEnv gKey
    let s := mapped (tState gKey)
    (kPod.addr.toNat % 8 = 0 ∧ e.keyOf 2 0x10010 = kPod ∧ s.destination 1 e.c 0 0x10010 = some s.node ∧
      isLocal (s.translateAt 1 e.c 0x10010 0).1 = true) ∧
    ({ s with hints := [[(1, 1, 5)], []] }.destination 1 e.c 0 0x10010 = some 5 ∧ e.inSpace 2 0x10010 8 = true ∧ kPod ∉ e.g.keys ∧
      s.admits e.c.vf 1 = true ∧ e.sl.reps = [] ∧ e.Fresh ∧ s.node ≠ 5) ∧
    (kDev.space ≠ 1 ∧ { tStore with va := 0x10800 }.short (keyScope 0) = true ∧ tStore.sp = none ∧
      ¬(0x800 ≤ (0x10800 + tStore.bytes.length - 1) / 32 ∧ 0x10800 / 32 < 0x800 + 1)) := by
  decide +kernel

def grTwo : Grid := { tGrid with k := { tGrid.k with gpt := 2 } }
def tBar (b : List (Nat × Barrier)) : Team := { tTeam with bars := b }
/-- The team has a second group, which is halted. -/
def sHalt : State := { tState tGroup { tTeam with groups := [1, 2] } grTwo with
  groups := [(1, tGroup), (2, { tGroup with no := 1, life := .halted, slot0 := {} })] }

theorem test_wit_TeamBarriers :
    (tEnv).sl.granted = none ∧ (∀ m ∈ List.range 16, ∀ r, (tEnv).sl.wait ≠ .bar m r) ∧
    ((17 : BitVec 5).toNat > 16 ∧ (2 : BitVec 5).toNat > tGrid.k.gpt) ∧
    ((tEnv tGroup tTeam grTwo).gr.k.gpt = 2 ∧ (tEnv tGroup tTeam grTwo).otherLive = false ∧ (tState tGroup tTeam grTwo).settledAt 1 .team = true ∧
      (tState tGroup tTeam grTwo).haltedGroups tTeam = [] ∧ [tGroup.no].length < 2 ∧ 1 ≤ [tGroup.no].length ∧
      (tState tGroup tTeam grTwo).cycle ≤ 100 + tCtx.bwto ∧ 40 + 50 < (tState tGroup tTeam grTwo).cycle) ∧
    (sHalt.haltedGroups { tTeam with groups := [1, 2] } = [1] ∧ (2 : Nat) ≤ [tGroup.no].length + ([1].filter fun m => !List.contains [tGroup.no] m).length ∧
      (sHalt.group? 2).isSome = true ∧ sHalt.settledAt 1 .team = true) ∧
    ((tEnv).NoPop 60 1 ∧ (tEnv).NoPop 61 0 ∧ { tState with pend := [tStore] }.settledAt 1 .team = false) ∧
    (∀ b, Map.get? (tBar [(3, { expect := 2, arrived := [1] })]).bars 3 = some b → b.expect = 2) ∧
    ((tBar [(3, { expect := 2, arrived := [1] })]).groups = [1] ∧ (tState).group? 1 = some tGroup) := by
  decide +kernel

def tMat (b : Option Nat) : MatOp := { id := 5, kind := .mzero, tile := 0, batch := b }
def tErr (b : Option Nat) : MatErr := { id := 5, tile := 0, batch := b, code := 6, addr := 0 }
def grPro : Grid := { tGrid with k := { tGrid.k with preg := 64 } }
def gPro : Group := { tGroup with full := false, bound := 64 }
def sFull (q : List (Nat × Bool)) : State := { tState gPro tTeam grPro with cores := [(0, { parts := List.replicate 4 { used := 1024, acqr := q } })] }

theorem test_wit_AllotmentChanges :
    tGroup.full = true ∧ gPro.full = false ∧
    (tTeam.granted = true ∧ ((tState gPro tTeam grPro).part 0 0).acqr = [] ∧ grPro.k.fullSlots - grPro.k.preg ≤ ((tState gPro tTeam grPro).part 0 0).pool) ∧
    ((∀ q ∈ ((sFull []).part 0 0).acqr, q ≠ (1, false)) ∧ ((sFull []).part 0 0).pool < grPro.k.fullSlots - grPro.k.preg) ∧
    (((sFull [(5, false)]).part 0 0).acqr ≠ [] ∧ ∀ q ∈ ((sFull [(5, false)]).part 0 0).acqr, q ≠ (1, false)) ∧
    (tClosed.granted = false ∧ ((sFull [(1, false)]).part 0 0).acqr = [(1, false)]) ∧
    (tGroup.mat = [] ∧ tGroup.matErr = [] ∧ tGroup.loads = [] ∧ (tGroup.slot true).dest = [] ∧ (tEnv).loading = [] ∧ (tEnv).NoPop 60 128) ∧
    (let g := { tGroup with loads := [{ id := 5, reg := 100, lanes := 7, vals := [mkLanes fun _ => 9] }] }
     100 ∈ (tEnv g tTeam grPro).loading ∧ grPro.k.preg ≤ 100 ∧ (64 : BitVec 10).toNat ≤ 100) ∧
    ({ tGroup with mat := [tMat none] }.mat ≠ [] ∧ { tGroup with matErr := [tErr none] }.matErr.head? = some (tErr none) ∧
      (let tiles := min 16 ((tGrid.k.fullSlots - (144 : BitVec 10).toNat) / 16)
       tiles ≤ (tMat none).tile ∧ [tErr none].find? (fun r => tiles ≤ r.tile) = some (tErr none) ∧
         (tMat none).tile < min 16 ((tGrid.k.fullSlots - (64 : BitVec 10).toNat) / 16))) ∧
    (256 < (257 : BitVec 10).toNat ∧ tGrid.k.fullSlots < (145 : BitVec 10).toNat ∧ (144 : BitVec 10).toNat ≤ tGrid.k.fullSlots ∧
      (0 : BitVec 10).toNat ≤ 256) := by
  decide +kernel

/-- A launch record at 0x10080 that names the header at 0x10100, each as it lies at the physical page; d dependences on 0x10200. -/
def lrCells (khdr teams deps target : Nat) : List Host.Cell :=
  let r := packBits [(0, 64, khdr), (64, 64, 0x10000), (128, 32, teams), (163, 3, deps), (256, 64, 0x10200), (320, 64, target)]
  let h := packBits [(0, 32, 3), (32, 32, 64), (64, 16, 8), (80, 16, 8), (104, 8, 1), (112, 4, 2)]
  (((leBytes 128 r ++ leBytes 64 h).zipIdx.map fun p => (0x20080 + p.2, p.1)).filter fun c => c.2 ≠ 0)
def grNest : Grid := { tGrid with depth := 1, nest := 3 }
def sLaunch (evcn khdr teams deps : Nat) (c : Ctx) : State :=
  { mapped (tState (withS 5 0x10080) tTeam grNest c) with
    mem := tTables ++ lrCells khdr teams deps 5, vfs := [(0, { en := true, left := List.replicate 4 none, evcn })] }
def cFull : Ctx := { tCtx with fifos := (List.replicate 8 []).set 0 (List.replicate 4096 0) }

theorem test_wit_LaunchMakesGrid :
    let e := tEnv (withS 5 0x10080) tTeam grNest
    let r := (sLaunch 1 0x10100 1 1 tCtx).num e.viewer none 0x20080 128
    let h := (sLaunch 1 0x10100 1 1 tCtx).num e.viewer none 0x20100 64
    { tGroup with no := 1 }.no ≠ 0 ∧ (tEnv (withS 5 0x10040)).s 5 = 0x10040 ∧ (0x10040 : Nat) % 128 ≠ 0 ∧ (0x10080 : Nat) % 128 = 0 ∧
    (∀ a ∈ [0x10080, 0x100C0, 0x10100], mapsTo e (sLaunch 1 0x10100 1 1 tCtx) a 0 (a + 0x10000)) ∧ e.hbm = true ∧
    (let s := sLaunch 1 0x10100 1 1 tCtx
     leNat (s.loadedBytes e [0x20080, 0x200C0]).1 = r ∧ ((s.loadedBytes e [0x20080, 0x200C0]).2.loaded e 0x20100 64).1 = h ∧
       ((s.loadedBytes e [0x20080, 0x200C0]).2.loaded e 0x20100 64).2.countersFit 1 0 [0x10200] = true) ∧
    ((sLaunch 1 0x10100 1 1 tCtx).grids.length < 2 ^ 32 ∧ ((sLaunch 1 0x10100 1 1 tCtx).grid? 1).map (·.ctx) = some 1) ∧
    (tGrid.nest = 0 ∧ grNest.nest ≠ 0 ∧ grNest.depth ≠ 10) ∧
    (lrOk ((sLaunch 1 0x10100 0 1 tCtx).num e.viewer none 0x20080 128) = false) ∧
    (leafWatch tLeaf = false ∧ lrDeps r ≠ [] ∧ (sLaunch 1 0x10100 1 1 tCtx).admits e.c.vf 3 = true ∧ e.NoPop 60 0x8000000000000001 ∧ e.NoPop 60 1 ∧
      { sLaunch 1 0x10100 1 1 tCtx with vfs := [(0, { en := true, left := [none, none, none, some 0], evcn := 1 })] }.admits e.c.vf 3 = false) ∧
    (lrOk r = true ∧ bits r 63 0 = 0x10100 ∧ kernelOk tCtx (bits r 127 64) h = true) ∧
    (kernelOk tCtx (bits r 127 64) 0 = false) ∧
    (4096 ≤ (cFull.fifos.getD (bits r 162 160) []).length ∧ (tCtx.fifos.getD (bits r 162 160) []).length < 4096) ∧
    ((sLaunch 0 0x10100 1 1 tCtx).countersFit 1 0 [0x10200] = false ∧ (sLaunch 1 0x10100 1 1 tCtx).countersFit 1 0 [0x10200] = true ∧
      (sLaunch 1 0x10100 1 1 tCtx).countersFit 1 0 [] = true ∧
      (lrDeps r).filter (fun p => !(sLaunch 1 0x10100 1 1 tCtx).counterMet 1 p.1 p.2) = [(0x10200, 5)]) := by
  decide +kernel

theorem test_wit_SignalsAddToCounters :
    let e := tEnv (withS 5 0x10010)
    let s := mapped (tState (withS 5 0x10010))
    (tEnv (withS 5 0x10014)).s 5 = 0x10014 ∧ (0x10014 : Nat) % 8 ≠ 0 ∧ (e.s 5).toNat % 8 = 0 ∧ xlOk (s.xlate e (e.s 5).toNat 2) s ∧
    e.hbm = true ∧ s.settledAt 1 .device = true ∧ { s with pend := [tStore] }.settledAt 1 .device = false ∧ { e with hbm := false }.hbm = false ∧
    s.pinnedBy 1 none 0x20010 8 = false ∧ e.NoPop 60 3 ∧
    { s with
      groups := s.groups ++ [(2, { tGroup with team := 2, pair := some (3, true) })]
      pend := [{ tStore with gid := 2, team := 2, addr := 0x20010, held := true, pinned := true }] }.pinnedBy 1 none 0x20010 8 = true := by
  decide +kernel

def cSusp : Ctx := { tCtx with conta := 0x10400, contn := 2 }
def gSusp : Group := withS 8 1 (withS 6 0x10010 (withS 5 0x10044 tGroup))
def gAway : Group := { gSusp with life := .suspended { counter := 0x10010, target := 1, cont := 0x10044, slotNo := 0, nv := 0, met := true }, slot0 := {} }

theorem test_wit_SuspendsAndResumes :
    let e := tEnv gSusp tTeam tGrid cSusp
    let s := { mapped (tState gSusp tTeam tGrid cSusp) with vfs := [(0, { en := true, evcn := 1 })] }
    let leafOk (va kind : Nat) : Bool := mapsTo e s va kind (va + 0x10000)
    ((gPair false 0x10080).slot1.live = true ∧ tGrid.k.preg < 4 * 33) ∧
    (e.otherLive = false ∧ e.g.depth = 0 ∧ 4 * (1 : BitVec 4).toNat ≤ e.gr.k.preg ∧ (e.s 6).toNat % 8 = 0 ∧ (e.s 5).toNat % 4 = 0 ∧ e.g.loads = [] ∧
      (∀ q ∈ e.g.eng, q = []) ∧ e.g.mat = [] ∧ e.g.engErr = [] ∧ e.g.matErr = [] ∧ s.countersFit 1 0 [e.s 6] = true ∧ cSusp.freeCont = some 0 ∧
      (List.range 33).all fun j => cSusp.contAddr 0 + 64 * j < 2 ^ 56 && leafOk (cSusp.contAddr 0 + 64 * j) 1) ∧
    ((tState (withS 6 0x10011)).group? 1 = some (withS 6 0x10011) ∧ (0x10011 : Nat) % 8 ≠ 0 ∧ (0x10046 : Nat) % 4 ≠ 0) ∧
    (s.admits 0 3 = true ∧ { s with vfs := [(0, { en := true, evcn := 1, left := [none, none, none, some 0] })] }.admits 0 3 = false ∧
      gAway.stopping = false) ∧
    ((tState gAway).group? 1 = some gAway ∧ tTeam.placing = .placed ∧ cSusp.cst = 1 ∧ s.admits 0 0 = true ∧ tGrid.k.preg ≤ ((tState gAway).part 0 0).pool ∧
      ((tState gAway).part 0 0).active.length + ((tState gAway).part 0 0).pending.length < 32 ∧ gAway.part < ((tState gAway).core 0).parts.length ∧
      (List.range 9).all fun j => leafOk (cSusp.contAddr 0 + 64 * j) 0) := by
  decide +kernel

theorem test_wit_SpecialRegisters :
    (tEnv).NoPop 5 3 ∧ (tEnv).NoPop 61 0 ∧ { tGroup with ownBwto := some 300 }.ownBwto = some 300 ∧ { tCtx with privc := true }.privc = true ∧ tCtx.privc = false ∧ tGroup.audit = .off := by decide +kernel

/-! ### Witnesses: seals, engines, matrix operations -/

/-- A record of 4 elements of 16 bits, their distance apart given, and its bytes at a physical address. -/
def tRec (stride : Nat := 2) : Nat := packBits [(0, 64, 0x10000), (64, 4, 1), (68, 4, 1), (512, 32, 4), (576, 64, stride)]
def numCells (pa n x : Nat) : List Host.Cell := ((leBytes n x).zipIdx.map fun p => (pa + p.2, p.1)).filter fun c => c.2 ≠ 0
def sSeal (r : Nat) (c : Ctx := tCtx) : State :=
  { mapped (tState (withS 5 0x10200) tTeam tGrid c) with mem := tTables ++ numCells 0x20200 256 r }
def cSeals (c : Nat) : Ctx := { tCtx with seals := (List.range c).map fun i => (i, 0) }

theorem seals_full (n : Nat) : ∀ i, i < n → Map.get? (cSeals n).seals i ≠ none := by
  intro i hi
  have h : ∀ l : List Nat, i ∈ l → Map.get? (l.map fun j => (j, (0 : BitVec 2048))) i = some 0 := by
    intro l hl
    induction l with
    | nil => simp at hl
    | cons a l ih =>
      by_cases ha : a = i
      · simp [Map.get?, ha]
      · simp only [List.map_cons, Map.get?, if_neg ha]
        exact ih ((List.mem_cons.mp hl).resolve_left (fun h => ha h.symm))
  show Map.get? ((List.range n).map fun j => (j, (0 : BitVec 2048))) i ≠ none
  rw [h _ (List.mem_range.mpr hi)]
  simp

theorem test_wit_SealsNameRecords :
    let e := tEnv (withS 5 0x10200)
    (tEnv (withS 5 0x10220)).s 5 = 0x10220 ∧ (0x10220 : Nat) % 64 ≠ 0 ∧
    (∀ j ∈ List.range 4, ∀ r ∈ [0, tRec, tRec (2 ^ 60)], mapsTo e (sSeal r) (0x10200 + 64 * j) 0 (0x20200 + 64 * j) ∧
      leNat ((sSeal r).loadedBytes e ((List.range 4).map fun j => 0x20200 + 64 * j)).1 = r) ∧ e.hbm = true ∧
    recIllegal 0 = some 68 ∧ recIllegal tRec = none ∧ recIllegal (tRec (2 ^ 60)) = none ∧
    recInside tRec = true ∧ recInside (tRec (2 ^ 60)) = false ∧
    (Map.get? tCtx.seals 0 = none ∧ Map.get? (cSeals 2).seals 2 = none ∧ (∀ j < 2, Map.get? (cSeals 2).seals j ≠ none) ∧
      2 ≤ (cSeals 2).seals.length) ∧
    (Map.get? (cSeals 2).seals 0 = some 0 ∧ (0 : Nat) / 65536 = (Map.get? (cSeals 2).sealGen 0).getD 0 ∧
      (65536 : Nat) / 65536 ≠ (Map.get? (cSeals 2).sealGen 0).getD 0) := by
  decide +kernel

def cEng : Ctx := { tCtx with seals := [(0, BitVec.ofNat 2048 tRec)] }
/-- A communicator at 0x10300 of two ranks, this context's and one of module 1. -/
def tComm : Nat := packBits [(0, 64, 77), (64, 16, 2), (512 + 32, 32, 1), (512 + 80, 12, 1), (512 + 96, 32, 1)]
def gEng : Group := withS 7 0x10300 (withS 6 64 (withV 2 (fun _ => 0)))
def sEng : State := { mapped (tState gEng tTeam tGrid cEng) with mem := tTables ++ numCells 0x20300 128 tComm }
def xEng (b c : Src) : XArgs := { dst := .discard, ty := .bf16, fn := 0, a := .scal 0, b, c }

theorem test_wit_EngineOperationsQueue :
    let e := tEnv gEng tTeam tGrid cEng
    e.active (xEng (.scal 6) .none) ≠ 0 ∧ e.pfx = none ∧ e.hbm = true ∧
    (255 ≤ ((List.replicate 255 tEngOp) : List EngOp).length ∧ recRuns tRec ≤ (1 : Nat)) ∧ e.offsetOf .none = 0 ∧
    ((tEnv gEng).c.sealed ((tEnv gEng).s 0) = none ∧ e.c.sealed (e.s 0) = some (BitVec.ofNat 2048 tRec)) ∧
    (let x := xEng (.scal 7) (.scal 6)
     let u : Use := { srcs := [(x.b, 1)], dst := some x.dst }
     (e.activeLanes x).filter (fun l => recRuns tRec ≤ (e.val x .int .n32 x.b).at l) = e.activeLanes x ∧ e.activeLanes x ≠ [] ∧ e.Ready u ∧
       e.Quiet (e.deadFlag u)) ∧
    (255 ≤ ({ gEng with eng := [[], [], List.replicate 255 tEngOp, []] }.eng.getD 2 []).length) ∧
    ((0x10000 + e.s 5).toNat % recZ tRec = 0 ∧ (e.s 6).toNat % recZ tRec = 0 ∧ (0x10000 + e.s 5).toNat < 2 ^ 56 ∧ e.t.granted = true ∧
      (e.s 6).toNat + ((recRuns tRec - 1) * recPitch tRec + recRun tRec) ≤ e.gr.k.scrb ∧ (e.s 6).toNat < 2 ^ 56 ∧ e.g.eng = [[], [], [], []]) ∧
    (let x := xEng (vreg 2) (.scal 6)
     let u : Use := { srcs := [(x.b, 1)], dst := some x.dst }
     e.Ready u ∧ e.Quiet (e.deadFlag u) ∧ (∀ l ∈ List.range 96, (e.active x).getLsbD l = true → (e.val x .int .n32 x.b).at l < recRuns tRec) ∧
       (e.s 6).toNat + (((e.activeLanes x).length - 1) * recPitch tRec + recRun tRec) ≤ e.gr.k.scrb ∧ recRot tRec = false) ∧
    ((e.s 7).toNat % 64 = 0 ∧ (e.s 6).toNat % 2 = 0 ∧ sEng.collBusy 1 (e.s 7) = false ∧
      (let header := sEng.loaded e 0x20300 64
       let h := header.1
       let entries := dwords 2 (header.2.loadedBytes e [0x20340]).1
       bits h 79 64 = 2 ∧ commOk 0 1 h entries = true ∧ recEfmt tRec = 1 ∧ recElems tRec % 2 = 0) ∧
      (∀ j ∈ List.range 2, mapsTo e sEng (0x10300 + 64 * j) 0 (0x20300 + 64 * j)) ∧ mapsTo e sEng 0x10310 2 0x20310) := by
  decide +kernel


theorem test_wit_UnitsAreAwaited :
    ((tGroup.eng.getD 0 []).length = (0 : BitVec 8).toNat ∧ (∀ p ∈ tGroup.engErr, p.1 ≠ 3) ∧ (0 : Nat) ≤ (0 : BitVec 8).toNat) ∧
    (let g := { tGroup with eng := [[tEngOp], [], [], []] }
     (g.eng.getD 0 []).length = (1 : BitVec 8).toNat ∧ (0 : BitVec 8).toNat < (g.eng.getD 0 []).length) ∧
    (gErr.engErr = [] ++ (3, 6, 0x500) :: []) ∧
    (((tGroup.mat.filterMap (·.batch)).dedup).length < 4 ∧
      4 ≤ ((([tMat (some 1), tMat (some 2), tMat (some 3), tMat (some 4)] : List MatOp).filterMap (·.batch)).dedup).length) ∧
    (tSlot.oldest = none ∧ { tSlot with oldest := some 1 }.oldest = some 1 ∧ (∀ b ∈ [1, 2, 3, 4], b ≤ { tGroup with closed := 4 }.closed) ∧
      1 ∈ (([tMat (some 1)] : List MatOp).filterMap (·.batch)).dedup ∧ 2 ∉ (([tMat (some 1)] : List MatOp).filterMap (·.batch)).dedup ∧ (tEnv).NoPop 60 1) ∧
    (tGroup.closed < 1 ∧ (0 : Nat) ≤ tGroup.closed ∧ (∀ o ∈ tGroup.mat, o.batch = none) ∧ tGroup.matErr = []) ∧
    ((tMat (some 1)).batch = some 1 ∧ (tErr (some 1)).batch = some 1 ∧ (1 : Nat) ≤ { tGroup with closed := 1 }.closed) := by
  decide +kernel

def grBig : Grid := { tGrid with k := { tGrid.k with scrb := 8192 } }
def gMat : Group := withS 7 192 (withS 8 0x10000 tGroup)

def calm (e : Env) (u : Use) (reads : Bool) : Bool :=
  decide (e.Ready u ∧ e.Quiet ((e.deadFlag u).or { poison := reads && e.g.regs.tdead.getLsbD 0 }))

theorem test_wit_MatrixOperationsIssue :
    let e := tEnv gMat tTeam grBig
    calm e { srcs := [(vreg 0, 8), (vreg 8, 12)], dst := some (.tile 0) } true ∧
    ((0 : Word).toNat % 16 = 0 ∧ e.t.granted = true ∧ (e.s 5).toNat % 2 ^ 32 + 512 ≤ e.gr.k.scrb ∧ (2 : BitVec 5).toNat % 4 = 2) ∧
    calm e { srcs := [(vreg 0, 8), (vreg 8, 24), (vreg 123, 5)], dst := some (.tile 0) } true ∧
    calm e { srcs := [(vreg 0, 8), (vreg 8, 48), (vreg 123, 5)], dst := some (.tile 0) } true ∧
    calm e { dst := some (.tile 0) } false ∧ calm e { srcs := [(.tile 0, 1)], dst := some (.vec 125), n := 3 } true ∧
    calm e { srcs := [(.tile 0, 1)] } true ∧
    ((e.s 5).toNat % 16 = 0 ∧ (e.s 7).toNat % 16 = 0 ∧ 192 ≤ (e.s 7).toNat ∧ (e.s 7).toNat ≤ 2 ^ 24 ∧
      (e.s 5).toNat + 31 * (e.s 7).toNat + 192 ≤ e.gr.k.scrb ∧ (e.s 8).toNat + 31 * (e.s 7).toNat + 192 ≤ 2 ^ 56) ∧
    (((e.s 5).toNat + ((8 : BitVec 10).signExtend 64).toInt) % 16 ≠ 0 ∧ ((e.s 5).toNat + ((-16 : BitVec 10).signExtend 64).toInt) % 16 = 0 ∧
      ¬(0 ≤ (e.s 5).toNat + ((-16 : BitVec 10).signExtend 64).toInt) ∧ gMat.pair = none) := by
  decide +kernel

def gDraw : Group := withS 6 4 (withV 2 (fun l => BitVec.ofNat 32 (16 * l)))
def grPop : Grid := { tGrid with step := some (0, 0, 1), slots := [4], table := [(4, 7)], stepNo := 5 }
/-- Request 7 of context 1 runs in a step: two particles, one arrival a particle, its block at 0x10400. -/
def tReq : Req :=
  { bits := BitVec.ofNat 2048 (packBits [(48, 3, 1), (192, 64, 0x10400), (256, 16, 2), (288, 8, 1)]), stream := some (0, 0, 1), inStep := true }
def sPopn (g : Group) (gr : Grid) (l : List Host.Cell := []) : State :=
  { mapped (tState g tTeam gr) with reqs := [(7, tReq)], mem := tTables ++ l }

theorem test_wit_TreesDrawsAndRandomWords :
    let e := tEnv gDraw
    let x : XArgs := { dst := .vec 124, ty := .b32, fn := 0, a := vreg 2, b := .scal 6, c := vreg 1 }
    (let u : Use := { srcs := [(vreg 1, 1)], dst := some (.pred 2) }
     e.Ready u ∧ e.Quiet (e.deadFlag u) ∧ (e.s 0).toNat % 16 = 0 ∧ e.t.granted = true ∧
       ∀ l ∈ List.range 96, (e.active x).getLsbD l = true → (e.s 0 + BitVec.ofNat 64 (16 * l)).toNat + 16 ≤ e.gr.k.scrb) ∧
    (let u : Use := { srcs := [(vreg 2, 1), (vreg 1, 1)], dst := some x.dst }
     e.Ready u ∧ e.Quiet (e.deadFlag u) ∧ (e.s 6).toNat = 4 ∧
       ∀ l ∈ List.range 96, (e.active x).getLsbD l = true → (e.val x .int .b64 x.a).at l % 4 = 0 ∧ (e.val x .int .b64 x.a).at l + 4 * 4 ≤ e.gr.k.scrb) ∧
    (let e := tEnv (withV 2 (fun l => BitVec.ofNat 32 (l % 2))) tTeam grPop
     let s := sPopn (withV 2 (fun l => BitVec.ofNat 32 (l % 2))) grPop
     let u : Use := { srcs := [(vreg 2, 1), (vreg 1, 1)], dst := some x.dst, n := 4 }
     e.Ready u ∧ e.Quiet (e.deadFlag u) ∧ e.inStep = true ∧ (e.place s).2.1.toNat = 7 ∧ (s.setFlags e (e.deadFlag u)).popOk 1 7 = true ∧
       ∀ l ∈ List.range 96, (e.active x).getLsbD l = true → (e.val x .int .n32 (vreg 2)).at l < s.popSize 7) ∧
    (let s := sPopn gDraw grPop
     (vreg 2).isVec = true ∧ (Src.scal 0).isVec = false ∧ (e.val x .int .n32 (.scal 0)).at 0 < s.popSize 7) := by
  decide +kernel

def gPopn : Group := { withV 2 (fun l => BitVec.ofNat 32 (l % 2)) with regs := { (withV 2 (fun l => BitVec.ofNat 32 (l % 2))).regs with popid := 7 } }
def popIs (r : PopAt × State) (s : State) (p : Nat → Nat → Bool) : Bool := match r with
  | (.entry _ _ h e, t) => t = s && p h e
  | _ => false

theorem test_wit_PopulationOperations :
    let e := tEnv gPopn tTeam grPop
    let s := sPopn gPopn grPop
    let x : XArgs := { dst := .discard, ty := .b32, fn := 0, a := vreg 1, b := vreg 2, c := .none }
    let s1 := s.setGroup 1 { e.g with interval := e.g.interval + 1, relScope := .device }
    e.Fresh ∧ (e.val x .int .n32 (.scal 0)).at 0 < s.popSize 7 ∧ e.g.regs.popid.extractLsb' 26 6 = 0 ∧ e.popNode = s.node ∧ e.popRid = 7 ∧ s.popOk 1 7 = true ∧ (tState gPopn).popOk 1 7 = false ∧
    s.blockReady tReq.vf = true ∧ { s with vfs := [(0, { en := true, left := [some 0, none, none, none] })] }.blockReady tReq.vf = false ∧
    { s with pend := [tStore] }.settledAt 1 .device = false ∧ e.NoPop 9 3 ∧ e.NoPop 61 0 ∧
    (let u : Use := { srcs := [(x.a, 1), (x.b, 1)] }
     e.Ready u ∧ e.Quiet (e.deadFlag u) ∧ ∀ l ∈ List.range 96, (e.active x).getLsbD l = true →
       (e.val x .int .n32 x.b).at l < s.popSize 7 ∧ ((s.setFlags e (e.deadFlag u)).popAdd 7 ((e.val x .int .n32 x.b).at l) 0).1 = some true) ∧
    (∀ n ∈ [1, 2], let u : Use := { srcs := [(vreg 2, 1)], dst := some (.vec 126), n }
     let s1 := s.setFlags e (e.deadFlag u)
     e.Ready u ∧ e.Quiet (e.deadFlag u) ∧ ∀ i ∈ [0, 1], i < s.popSize 7 ∧ popIs (s1.popAt 7 i) s1 fun _ _ => true) ∧
    (∀ n ∈ [1, 2], let u : Use := { srcs := [(vreg 2, 1)], dst := some (.scal 9), n }
     e.Ready u ∧ e.deadFlag u = {} ∧ u.marks = [] ∧ popIs ((s.setFlags e {}).popAt 7 0) (s.setFlags e {}) fun _ _ => true) ∧
    (s.settledAt 1 .device = true ∧ popIs (s1.popAt 7 0) s1 fun h en => bits h 127 64 ≠ 5 && bits en 135 128 ≠ recApp tReq.h &&
      bits h 63 32 + 1 < recNpart tReq.h * recApp tReq.h) ∧
    (let s1 : State := { s1 with mem := tTables ++ [(0x20404, 1)] }
     popIs (s1.popAt 7 0) s1 fun h en => bits h 127 64 ≠ 5 && bits en 135 128 ≠ recApp tReq.h && bits h 63 32 + 1 = recNpart tReq.h * recApp tReq.h) ∧
    (let s1 : State := { s1 with mem := tTables ++ [(0x20450, 1)] }
     popIs (s1.popAt 7 0) s1 fun h en => bits h 127 64 ≠ 5 && bits en 135 128 = recApp tReq.h) ∧
    (let s1 : State := { s1 with mem := tTables ++ [(0x20408, 5)] }
     popIs (s1.popAt 7 0) s1 fun h _ => bits h 127 64 = 5) ∧
    (let s1 : State := { s1 with mem := tTables ++ [(0x20400, 2)] }
     s1.popAt 7 0 = (.running, s1)) := by
  decide +kernel

def grCmt : Grid := { grPop with commit := true }
/-- A write of the group to another module that is not answered. -/
def tSent : FabOut := { id := 9, gid := 1, slot := false, idx := 0, dest := 5, req := { node := 0, id := 9, ctxid := 1, va := 0x50000, kind := .write [1], hops := 0 } }
def gQmov : Group := withS 7 2 (withS 5 7 (withS 6 99 tGroup))
def reqState (n : Nat) : Req := { tReq with bits := BitVec.ofNat 2048 (packBits [(48, 3, n), (1088, 32, 2)]) }
def grCheck : Grid := { grPop with table := [(4, BitVec.ofNat 128 (packBits [(0, 16, 7), (62, 2, 2)]))] }

theorem test_wit_StepCommands :
    (tGrid.step = none ∧ grPop.commit = false ∧ (tEnv tGroup tTeam grCmt).gr.step = some (0, 0, 1) ∧ grCmt.commit = true ∧ tTeam.no = 0 ∧
      tGroup.no = 0 ∧ grCmt.committed = false) ∧
    ((tEnv tGroup tTeam grCmt).aloneInGrid (sPopn tGroup grCmt) = true ∧
      (tEnv tGroup tTeam { grCmt with teams := 2 }).aloneInGrid (sPopn tGroup { grCmt with teams := 2 }) = false ∧
      (∀ rid ∈ (sPopn tGroup grCmt).stepReqs 0 0, ((sPopn tGroup grCmt).req rid).running = false) ∧
      (sPopn tGroup grCmt).stepReqs 0 0 = [7] ∧ (sPopn tGroup grCmt).settledAt 1 .device = true ∧ (sPopn tGroup grCmt).gridSends 1 = false ∧
      (sPopn tGroup grCmt).blockReady 0 = true ∧ (tEnv tGroup tTeam grCmt).NoPop 60 1 ∧
      { sPopn tGroup grCmt with pend := [tStore] }.settledAt 1 .device = false ∧ { sPopn tGroup grCmt with fabOut := [tSent] }.gridSends 1 = true ∧
      { sPopn tGroup grCmt with reqs := [(7, { tReq with running := true })] }.stepReqs 0 0 = [7] ∧
      { sPopn tGroup grCmt with vfs := [(0, { en := true, left := [some 0, none, none, none] })] }.blockReady 0 = false) ∧
    (let s (n : Nat) : State := { sPopn gQmov grPop with reqs := [(7, reqState n)] }
     ((tEnv gQmov).s 5).toNat = 7 ∧ ((s 1).req 7).ctx = some 1 ∧ ((s 1).req 99).ctx ≠ some 1 ∧
       (∀ n ∈ [0, 1, 2, 3, 4, 7], (((s n).req 7).bits.extractLsb' 48 3).toNat = n)) ∧
    ((tEnv gQmov).inStep = false ∧ (tEnv gQmov tTeam grCheck).inStep = true ∧
      ((Map.get? grCheck.table 4).getD 0).extractLsb' 62 2 = 2 ∧ ((Map.get? grPop.table 4).getD 0).extractLsb' 62 2 ≠ 2 ∧
      recDlen (reqState 1).n = 2 ∧ ((tEnv gQmov).s 7).toNat ≤ 2 ∧ 2 < ((tEnv gQmov).s 6).toNat ∧ (reqState 1).verdict = false) := by
  decide +kernel

/-! ### Witnesses: units, grants, dispatch, pages -/

def tLoad : Load := { id := 4, reg := 9, lanes := 7, vals := [mkLanes fun _ => 5] }
/-- A copy of one run of 8 elements of 32 bits from 0x10000 to scratchpad 64. -/
def tCopy (done : Nat := 0) : EngOp :=
  { id := 3, kind := .cpy false, record := BitVec.ofNat 2048 (packBits [(0, 64, 0x10000), (64, 4, 2), (68, 4, 1), (512, 32, 8), (576, 64, 4)])
    off := 0, other := 64, runs := [], done }
def gCopy : Group := { tGroup with eng := [[tCopy], [], [], []] }
def xLds : XArgs := { dst := .vec 127, ty := .b32, b := vreg 2 }
def sWake (i : Instr) : State :=
  { sProg (encode i) with groups := [(1, { tGroup with slot0 := { tSlot with pc := 0x10000, wait := .granule } })] }
def runs (o : FetchedUnit) (i : Instr) : Bool := match o with
  | .run j s1 => j = i && s1.env?.isSome
  | _ => false

def tEarly : FabOut :=
  { id := 2, gid := 1, slot := false, idx := 0, dest := 5
    req := { node := 0, id := 2, ctxid := 1, va := 0x50000, kind := .read 4, hops := 0 } }

theorem test_wit_UnitsComplete :
    ({ tGroup with loads := [tLoad] }.loads = [] ++ tLoad :: []) ∧
    (∀ k ∈ [MatKind.mma .bf16 [] [], .mmas .bf16 16 [] [] [], .mqk .bf16 1 5 [] [] [], .mzero, .msmx false 9 7],
      { tGroup with mat := [{ tMat none with kind := k }] }.mat = [] ++ { tMat none with kind := k } :: []) ∧ tGroup.life ≠ .saved ∧
    ((gCopy.eng.getD 0 [] = [] ++ tCopy :: []) ∧ tCopy.fin = false ∧ (tCopy 8).parked = none ∧ (tCopy 8).total ≤ (tCopy 8).done) ∧
    (let r := tCopy.record.toNat
     let a : Actor := { gid := 1, g := gCopy, t := tTeam, gr := tGrid, c := tCtx }
     (mapped (tState gCopy)).afterEarlier a 3 = some (mapped (tState gCopy)) ∧ tCopy.stage ≤ tCopy.dense tCopy.done / 16 ∧
     tEarly.gid = 1 ∧ tEarly.id < tCopy.id ∧ tEarly.eng = none ∧ tEarly.signal = false ∧
     tCopy.kind = .cpy false ∧ tCopy.parked = none ∧ (∀ c ∈ List.range 4, ((mapped (tState gCopy)).vf 0).left.getD c none = none) ∧
     recEfmt r = 2 ∧ recRot r = false ∧ recStride r 0 = 4 ∧ recRun r ≤ recPitch r ∧ tCopy.done + 4 ≤ tCopy.total ∧
       tCopy.done % recSize r 0 + 4 ≤ recSize r 0 ∧ tCopy.dense tCopy.done % 16 = 0 ∧ tCopy.start 0 = 0x10000 ∧
       (mapped (tState gCopy)).tlbFind 0 (asidOf 1) 1 = some tTlb ∧
       ∀ j ∈ List.range 4, useLeaf false 1 (0x10000 + 4 * j) 4 tTlb.entry tTlb.level = .ok (0x20000 + 4 * j) tLeaf) ∧
    (∀ i ∈ [Instr.lds xLds, .sts { xLds with dst := .discard, c := vreg 1 }],
      { tGroup with slot0 := { tSlot with pc := 0x10000, wait := .granule } }.mayAct false = true ∧ runs ((sWake i).fetchUnit 1 false) i = true) ∧
    ([tStore].find? (fun q => q.id = tStore.id) = some tStore ∧ tStore.gid = 1 ∧ tStore.sp = none) := by
  decide +kernel

def gRet : Group := { tGroup with life := .retiring, slot0 := {} }
def tSig (a : BitVec 64) : Signal := { ctx := 1, addr := a, src := 9, grid := true }

theorem test_wit_GrantsAndRetirement :
    (let s : State := { tState gPro tTeam grPro with cores := [(0, { parts := List.replicate 4 { acqr := [(1, false)] } })] }
     (s.part 0 0).acqr = (1, false) :: [] ∧ (s.actor 1).isSome ∧ gPro.full = false ∧ grPro.k.fullSlots - grPro.k.preg ≤ (s.part 0 0).pool) ∧
    (let c := cKey { queue := [{ who := 1, slot := false, ex := true, bind := false }] }
     (c.key tKey).queue = [{ who := 1, slot := false, ex := true, bind := false }] ∧ (c.key tKey).holders = []) ∧
    (let s := tState gRet
     s.group? 1 = some gRet ∧ gRet.audit = .off ∧ s.idle 1 gRet = true ∧ gRet.keys = [] ∧ gRet.part < (s.core 0).parts.length ∧
       tTeam.groups = [1] ∧ tTeam.retired = false ∧ tTeam.twin = none ∧ tTeam.placing = .placed ∧ tGrid.teams ≤ tGrid.done + 1 ∧
       s.hasChildren 1 = false ∧ tGrid.parent = none) ∧
    ((mapped tState).admits 0 0 = true ∧ (mapped tState).pinnedBy 0 none 0x20010 8 = false ∧ (tState gRet).gridSends 1 = false ∧ tGrid.cctr = none ∧
      { mapped tState with vfs := [(0, { en := true, left := [some 0, none, none, none] })] }.admits 0 0 = false ∧
      { mapped tState with
        groups := [(2, { tGroup with team := 2, pair := some (3, true) })]
        pend := [{ tStore with gid := 2, team := 2, addr := 0x20010, held := true, pinned := true }] }.pinnedBy 0 none 0x20010 8 = true) ∧
    ((tSig 0x10011).parked = none ∧ (tSig 0x10011).addr.toNat % 8 ≠ 0 ∧ 2 ^ 56 ≤ (tSig 0x100000000000000).addr.toNat ∧ (tSig 0x10010).addr.toNat % 8 = 0 ∧
      (mapped tState).translateAt 1 tCtx 0x10010 2 = (.ok 0x20010 tLeaf, mapped tState) ∧
      (match ((mapped tState).translateAt 1 tCtx 0x50010 2).1 with
        | .park _ _ _ => true
        | _ => false) = true ∧
      (match ({ mapped tState with vfs := [(0, { en := true, left := [none, none, none, some 0] })] }.translateAt 1 tCtx 0x10010 2).1 with
        | .deferred => true
        | _ => false) = true ∧
      (match ({ mapped tState with mem := (mapped tState).mem.filter (fun (c : Host.Cell) => c.1 < 81928) ++ [(81928, 2#8), (81930, 5#8), (81934, 1#8)] }.translateAt 1 tCtx
          0x10010 2).1 with
        | .remote n => n = 5
        | _ => false) = true ∧
      ({ mapped tState with mem := (mapped tState).mem.filter (fun (c : Host.Cell) => c.1 ≠ 81928) ++ [(81928, 3#8)] }.translateAt 1 tCtx 0x10010 2).1 = .access) := by
  decide +kernel

def cFifo : Ctx := { tCtx with fifos := (List.replicate 8 []).set 3 [1] }
def grTeams : Grid := { grPro with teams := 3, queued := true }
def sDisp : State :=
  { tState tGroup tTeam grTeams cFifo with vfs := [(0, { en := true, cores := 6 })], cores := [(0, {}), (1, {}), (2, {})], cur := none }

theorem test_wit_DispatcherPlacesTeams :
    (cFifo.cst = 1 ∧ (∀ l < 8, 3 < l → cFifo.fifos.getD l [] = [] ∧ sDisp.restoringTeams 1 l = []) ∧ sDisp.restoringTeams 1 3 = [] ∧
      cFifo.fifos.getD 3 [] = [1] ∧ sDisp.grid? 1 = some grTeams ∧ sDisp.launchOrdered grTeams = true ∧
      sDisp.coresFor grTeams cFifo = some (1, none) ∧ grTeams.placed + 1 < grTeams.teams ∧ grTeams.k.gpt ≤ 16 ∧
      (sDisp.core 1).parts.length = 4 ∧ grTeams.k.preg < grTeams.k.freg) ∧
    (sDisp.rotated 3 = [] ++ 1 :: [] ∧ ∀ l < 8, 3 < l → ∀ n ∈ sDisp.rotated l, (sDisp.dispatchCtx n l).isNone = true) ∧
    (sDisp.pickCore cFifo [] 0 (fun _ => true) = some 1 ∧ sDisp.pickCore cFifo [] 0 (fun _ => false) = none) ∧
    (tState.ctx? 1 = some tCtx ∧ ∀ l < 8, ∀ n ∈ tState.rotated l, (tState.dispatchCtx n l).isNone = true) := by
  decide +kernel

def grPaired : Grid := { grTeams with k := { grTeams.k with pair := true } }
def sPaired : State := { sDisp with grids := [(1, grPaired)], vfs := [(0, { en := true, cores := BitVec.allOnes 256 })] }
/-- A team of a group that was saved, waiting to be placed again at level 0. -/
def tSaved : Team := { tTeam with placing := .restoring }
def sRestore : State := { sDisp with teams := [(1, tSaved)], groups := [(1, { tGroup with life := .saved })], grids := [(1, { grTeams with prio := 0 })] }

theorem test_wit_DispatcherPlacesPairsAndSavedTeams :
    (sPaired.restoringTeams 1 3 = [] ∧ sPaired.launchOrdered grPaired = true ∧ (match sPaired.coresFor grPaired cFifo with
      | some (a, some b) => clusterOf a ≠ clusterOf b && (sPaired.core a).parts.length = 4 && (sPaired.core b).parts.length = 4
      | _ => false) = true) ∧
    (sRestore.restoringTeams 1 0 = [(1, tSaved, { grTeams with prio := 0 })] ∧ tSaved.groups.Nodup ∧
      sRestore.pickCore cFifo (sRestore.savedNeed tSaved grTeams.k) grTeams.k.scrb (sRestore.pairAllows tSaved) = some 1 ∧
      ((sRestore.group? 1).map (·.life)) = some .saved) := by
  decide +kernel

theorem test_wit_PartitionsSelect :
    let young : Group := { tGroup with since := 7, readySince := some 100 }
    let s : State := { tState with
      cycle := 5000, groups := [(1, young), (2, { tGroup with issuedAt := 4990 })]
      cores := [(0, { parts := [{ active := [2], pending := [1] }, {}, {}, {}] })] }
    (s.youngest (s.part 0 0).active = some 2 ∧ 1 ∈ (s.part 0 0).pending ∧ 0 < (s.core 0).parts.length ∧ young.readySince = some 100 ∧
      100 + 4032 ≤ s.cycle) ∧
    (s.nextGroup (s.part 0 0) = some 2 ∧ (s.part 0 0).second = none ∧ s.selects 2 false = true ∧ young.starved s.cycle = true) ∧
    s.nextGroup { active := [] } = none ∧
    (let t : State := { s with cores := [(0, { parts := [{ active := [2], second := some (2, true) }, {}, {}, {}] })]
                               groups := [(2, { tGroup with slot1 := { tSlot with pc := 0x10080 } })] }
     t.pairMate (t.part 0 0) = some (2, true)) ∧
    { tGroup with loads := [{ id := 4, reg := 9, lanes := 7, vals := [], dev := true, miss := true }] }.missing = true ∧
    ({ tGroup with slot1 := { tSlot with wait := .key } }.slot true).live = true ∧
    ({ tGroup with slot1 := { tSlot with wait := .key } }.slot true).wait.swaps = true := by
  decide +kernel

/-- Page 1 of the context's space with another entry, one slot waiting for it. -/
def sPage (entry : Nat) (kind : Nat) (v : Vf) : State :=
  { mapped (tState { tGroup with slot0 := { tSlot with wait := .page [{ ctx := 1, page := 1, va := 0x10010, kind }] } }) with
    mem := (tTables.filter fun c => c.1 < 81920) ++ numCells 81928 8 entry, vfs := [(0, v)] }
def vRoom : Vf := { en := true, hquota := 4, free := [(9, 50)] }
/-- VF 0 may take 64 frames, and the common list has frames 40 to 40 + n. -/
def tBig (n : Nat) : State := { tState with vfs := [(0, { en := true, hquota := 64 })], common := [(40, n)] }
def tWant (kind : Nat) : PageWant := { ctx := 1, page := 1, va := 0x10010, kind }

theorem test_wit_PagesAreMapped :
    ((tState.vf 0).hquota + (tState.vf 0).hborrow ≤ (tState.vf 0).hused ∧ vRoom.hused < vRoom.hquota + vRoom.hborrow ∧ vRoom.free = [(9, 50)]) ∧
    (let s := sPage 0x2006 1 vRoom
     s.wants.find? (·.hits 1 1) = some (tWant 1) ∧ (s.walk tCtx 0x10000).1 = .grow 0x2006 ∧ (s.allocate 0).1 = .got 9 ∧
       ((s.allocate 0).2.kvOwner 1 0x10000) = none ∧ ((sPage 0x2006 1 {}).allocate 0).1 = .quota ∧
       ((sPage 0x2006 1 { vRoom with hquota := 0, hborrow := 4, free := [] }).allocate 0).1 = .host) ∧
    (let e : BitVec 64 := 0x24003
     let s := sPage e.toNat 1 vRoom
     s.wants.find? (fun w => w.hits 1 1 && kindWrites w.kind) = some (tWant 1) ∧ (s.walk tCtx 0x10000).1 = .leaf e 4 ∧ leafW e = false ∧
       leafCow e = true ∧ s.countOf e = 1 ∧ { s with frames := [(2, { count := 2 })] }.countOf (e ||| 0x0010000000000000) = 2 ∧
       s.admits 0 2 = true) ∧
    ((tState.vf 0).pquota + (tState.vf 0).pborrow ≤ (tState.vf 0).pused ∧ (0 : Nat) < 4) ∧
    (let s := sPage 0 1 { vRoom with pquota := 2, pfree := [((5, 8), 50)] }
     (match (s.walk tCtx 0x10000).1 with
       | .leaf _ _ | .moved _ => false
       | _ => true) = true ∧ s.walkLevel tCtx 0x10000 = 4 ∧ (s.allocate 0).1 = .got 9 ∧ (s.allocatePool 0 1 1).1 = .got (5, 8)) ∧
    (let s := sPage (forwardEntry 5) 1 vRoom
     (s.walk tCtx 0x10000).1 = .moved 5 ∧ s.walkLevel tCtx 0x10000 = 4 ∧ s.devAdmits 2 = true ∧ ((s.allocateRun 0 1).map (·.1)) = some 9 ∧
       ((sPage (forwardEntry 5) 1 {}).allocateRun 0 1).isNone = true) ∧
    (((tBig 60).allocateRun 0 32).map (·.1) = some 64 ∧ (1 : Nat) < 32 ∧ ((tBig 30).allocateRun 0 32).isNone = true) ∧
    (let v : Vf := { vRoom with free := [] }
     ((sPage 0 1 v).allocate 0).1 = .reclaim ∧ ((sPage 0 1 { v with hquota := 0, hborrow := 4 }).allocate 0).1 = .host ∧
       (sPage 0 1 v).dev.fillDone = false ∧ ((sPage 0 1 { v with hused := 4 }).allocate 0).1 = .quota ∧
       ((sPage 0 1 { v with hused := 4 }).vf 0).qtrap = false ∧ ((sPage 0 1 v).allocatePool 0 1 1).1 = .none .quota) ∧
    (let r : PageReq := { want := tWant 1, vf := 0, tag := 6, cgen := 0, mal := false, posted := true }
     [r].find? (fun q => q.vf = 0 && q.posted && q.tag.toNat = ((6 : BitVec 128).setWidth 32 : BitVec 32).toNat) = some r ∧
       ({ tState with frames := [(2, { count := 0, owner := some 0 })] }.frame 2).count = 0 ∧
       ({ tState with frames := [(2, { count := 1, owner := some 0 })] }.frame 2).count ≠ 0 ∧
       tCtx.cgen = 0 ∧ tCtx.cst ≠ 3 ∧ (tState).dev.ready = true ∧
       { tCtx with cgen := 1 }.cgen ≠ r.cgen ∧ { r with frame := some 2 }.pool = none ∧
       ({ tState with frames := [(2, { count := 1, owner := some 0 })] }.frame 2).owner = some 0) ∧
    (let s := sPage 0x2000F 1 vRoom
     (s.walk tCtx 0x10000).1 = .leaf 0x2000F 4 ∧ leafRoot (0x2000F : BitVec 64) = false ∧ leafRoot (0x2800F : BitVec 64) = true ∧ s.node ≠ 5 ∧
       (s.movesOf 1 1).times = [] ∧ s.devAdmits 2 = true ∧
       { s with moves := [((asidOf 1, 1), { times := [100, 90, 80, 70], rooted := some 8000 })] }.movesOf 1 1 =
         { times := [100, 90, 80, 70], rooted := some 8000 }) := by
  decide +kernel

/-! ### Witnesses: the fabric, contexts, requests, reliability, registers -/

/-- VF 0 owns frame 2; a command whose completion word is 0x20F00. -/
def sOwn (s : State) (l : List Host.Cell := []) : State := { s with frames := [(2, { count := 1, owner := some 0 })], mem := s.mem ++ l }
def tCmd (l : List (Nat × Nat × Nat)) (cmpl : Nat := 0x20F00) : BitVec 256 := BitVec.ofNat 256 (packBits ((192, 64, cmpl) :: l))
def tInv (op : Nat) : BitVec 256 := tCmd [(0, 8, op), (48, 16, 1), (64, 64, 0x10000), (128, 64, 0x20000)]
def tFab (kind : FabKind) (ctx : Nat) (hops : Nat := 0) : FabReq := { node := 3, id := 8, ctxid := ctx, va := 0x10010, kind, hops }
def sMoved : State := { mapped tState with mem := (tTables.filter fun c => c.1 < 81920) ++ numCells 81928 8 (forwardEntry 5), cores := [] }
def tOut (misses : Nat) : FabOut := { id := 6, gid := 1, slot := false, idx := 2, dest := 3, req := tFab (.read 4) 1, misses }
/-- Every port is up. -/
def up (s : State) : State := { s with dev := { s.dev with ports := List.replicate 32 { link := 2 } } }
theorem up_link (s : State) (n : Nat) : ((up s).dev.ports.getD (Config.portOf n) {}).link = 2 := by
  have h : ∀ p : Fin 32, ((List.replicate 32 ({ link := 2 } : Port)).getD p.val {}).link = 2 := by decide
  exact h (Config.portNo n)
/-- Nothing waits at a port that is up: what comes arrives at once. -/
theorem up_came (s : State) (n : Nat) (h : s.portIn = []) : (up s).CameIn n :=
  .inr ⟨up_link s n, by intro x hx; exact absurd (h ▸ hx) (by simp)⟩
/-- Before a reset no port is up. -/
theorem down_link (n : Nat) : ((tState).dev.ports.getD (Config.portOf n) {}).link ≠ 2 := by
  have h : ∀ p : Fin 32, ((tState).dev.ports.getD p.val {}).link ≠ 2 := by decide
  exact h (Config.portNo n)

theorem test_wit_FabricPorts :
    ((up (mapped tState)).CameIn 3 ∧ (up sMoved).CameIn 3 ∧ (up tState).CameIn 3 ∧ (up { tState with fabOut := [tOut 0] }).CameIn 3) ∧
    ((tState).fabHeld = [] ∧ (3 : Nat) ≠ (tState).node ∧ ((tState).dev.ports.getD (Config.portOf 3) {}).link ≠ 2) ∧
    ((∀ w ∈ (up tState).portWait, w.1 ≠ Config.portOf 3) ∧ ((up tState).dev.ports.getD (Config.portOf 3) {}).link = 2) :=
  ⟨⟨up_came _ 3 rfl, up_came _ 3 rfl, up_came _ 3 rfl, up_came _ 3 rfl⟩, ⟨rfl, by decide, down_link 3⟩, by simp [up, tState], up_link _ 3⟩

theorem test_wit_InvalidationsAndFabric :
    (let s := sOwn (mapped tState)
     s.dev.ready = true ∧ s.wordOk 0 (invCmpl (tInv 1)) = true ∧ s.wordOk 0 (invCmpl (tCmd [] 0x20F01)) = false ∧
       (∀ n ∈ [1, 2, 3], invOk (tInv n) = true ∧ invOp (tInv n) = n) ∧ invOk (tInv 4) = false ∧ invOk (tCmd [(0, 8, 2), (8, 1, 1)]) = false) ∧
    (tCtx.cst = 1 ∧ (mapped tState).fabHeld = [] ∧ (tFab (.read 4) 1 3).hops = 3 ∧ sMoved.fabHeld = [] ∧ (sMoved.walk tCtx 0x10010).1 = .moved 5 ∧ ((mapped tState).walk tCtx 0x10010).1 = .leaf tLeaf 4 ∧
      (∀ k ∈ [0, 1], (mapped tState).translateAt 1 tCtx 0x10010 k = (.ok 0x20010 tLeaf, mapped tState)) ∧
      leafWatch tLeaf = false ∧ (tFab (.read 4) 1).acc = none ∧ (mapped tState).admits 0 0 = true ∧ sMoved.admits 0 3 = true ∧
      { mapped tState with vfs := [(0, { en := true, left := [some 0, none, none, none] })] }.admits 0 0 = false) ∧
    (let p : PStore := { tStore with held := true, va := 0x10800 }
     let s : State := { sOwn (mapped tState) with pend := [p] }
     s.invHeld (tInv 1) = [1] ∧ (sOwn (mapped tState)).invHeld (tInv 1) = [] ∧ s.invq = [] ∧ p.id ∈ [1]) ∧
    ((tState).ctx? 9 = none ∧ (tFab (.read 4) 9).node ≠ (tState).node ∧ (tFab (.read 4) 9).id ≠ 0) ∧
    (let s : State := { tState with fabOut := [tOut 0] }
     s.fabOut.find? (fun p => p.id = 6) = some (tOut 0) ∧ (tOut 0).eng = none ∧ (tOut 0).writes = false ∧ tSent.writes = true ∧ tGroup.halts = false ∧ s.ending = [] ∧ (tOut 0).idx < 96 ∧
       (up s).unsent 6 = false ∧ { up s with egress := [(0, 3, { tFab (.read 4) 1 with node := 0, id := 6 })] }.unsent 6 = true ∧ (3 : Nat) ≠ s.node ∧ (5 : Nat) ≠ s.node ∧ (tOut 0).signal = false ∧
       (s.group? 1).isSome ∧ (∀ p ∈ s.fabOut, p.id ≠ 6 → ¬(p.gid = 1 ∧ p.slot = false ∧ p.eng = none)) ∧ 1 ≤ (tOut 1).misses ∧ FabKind.population (.read 4) = false ∧
       { s with mem := [(0, 1), (2, 3), (0x30000, 1), (0x30002, 5)] }.route tCtx 0x10010 = some 5) := by
  decide +kernel

/-- A CCB at 0x20100 of context 5, and the command that starts it. -/
def tCcb (bad : Nat := 0) : Nat := packBits [(0, 64, 0x30000), (64, 1, bad), (192, 64, 0x20400), (416, 32, 5)]
def tStart (l : List (Nat × Nat × Nat) := []) : BitVec 256 := tCmd ([(0, 8, 0x13), (32, 32, 5), (64, 64, 0x20100)] ++ l)
def tCc (op : Nat) : BitVec 256 := tCmd [(0, 8, op), (32, 32, 1)]
def tHl (rec_ : Nat := 0x10080) : BitVec 256 := tCmd [(96, 32, 1), (128, 64, rec_)]

theorem test_wit_ContextCommands :
    (let s (b : Nat) : State := sOwn (mapped tState) (numCells 0x20100 256 b)
     (s 0).wordOk 0 (ccCmpl (tStart)) = true ∧ ccOp (tStart) = 0x13 ∧ ccCcba (tStart) = 0x20100 ∧ (s 0).ownsFrame 0 2 = true ∧
       (tState).ownsFrame 0 2 = false ∧ (s tCcb).num .module none 0x20100 256 = tCcb ∧
       (s (tCcb 1)).ccbBad 0 (tStart) (tCcb 1) = some 64 ∧ (s tCcb).ccbBad 0 (tStart) tCcb = none ∧
       (∀ l ∈ [(8, 1, 1), (9, 1, 1), (10, 6, 1), (24, 8, 1)], (tStart [l]).extractLsb' 8 8 ≠ 0 ∨ (tStart [l]).extractLsb' 24 8 ≠ 0) ∧
       ccAbort (tStart) = false ∧ ccAbort (tStart [(8, 1, 1)]) = true ∧ ccOne (tStart [(9, 1, 1)]) = true ∧
       (tStart).extractLsb' 128 64 = 0 ∧ (tStart [(128, 1, 1)]).extractLsb' 128 64 ≠ 0) ∧
    (let s := sOwn (mapped tState)
     (∀ op ∈ [0x10, 0x11, 0x12], ccOk (tCc op) = true ∧ ccOp (tCc op) = op ∧ ccCtx (tCc op) = 1 ∧ s.wordOk 0 (ccCmpl (tCc op)) = true) ∧
       ccAbort (tCc 0x10) = false ∧ s.runnersOf 1 = [] ∧ (s.ctx? 1).isSome ∧ tCtx.vf = 0 ∧ tCtx.cst = 1 ∧
       s.ccbBad 0 (tCc 0x11) tCcb true ≠ none ∧ s.ccbBad 0 (tCmd [(0, 8, 0x11), (32, 32, 5)]) tCcb true = none ∧
       { tTeam with placing := .saved }.placing = .saved ∧ tTeam.retired = false ∧ (0 : Nat) ∈ ccCores (tCc 0x11)) ∧
    (let j : SaveJob := { vf := 0, cid := 1, cmpl := none, teams := [1], all := true, back := false }
     let parked : MatOp := { tMat none with kind := .mldt true 0x50000 192 none none }
     let s (l : List MatOp) : State := tState { tGroup with mat := l }
     (tState).commandsWait 0 = false ∧ { tState with saves := [j] }.commandsWait 0 = true ∧ j.cid = 1 ∧
       { tState with cmdq := [(0, tCc 0x10)] }.commandsWait 0 = true ∧ { tTeam with placing := .saved }.retired = false ∧
       (tState).teamsOn 1 (ccCores (tCmd [(0, 8, 0x10), (9, 1, 1), (16, 8, 7), (32, 32, 1)])) .placed = [] ∧
       ((tState).fabOut.filter fun o => o.writes && ((tState).groupsOf 1).contains o.gid) = [] ∧
       ([tSent].filter fun o => o.writes && ((tState).groupsOf 1).contains o.gid) = [tSent] ∧ tTeam.groups.Nodup ∧
       (((s []).settleTeam 1).team? 1).isSome ∧ (((s []).settleTeam 1).ctx? 1).isSome ∧ (((s []).settleTeam 1).grid? 1).isSome ∧
       ((s []).settleTeam 1).matrixLeft tTeam = false ∧ (((s [parked]).settleTeam 1).team? 1).isSome ∧ ((s [parked]).settleTeam 1).matrixLeft tTeam = true ∧
       tGroup.onCore = true) ∧
    (let s := sOwn (sLaunch 1 0x10100 1 1 tCtx)
     s.wordOk 0 (hlStat (tHl)) = true ∧ s.wordOk 0 (hlStat (tCmd [] 0x30F00)) = false ∧ (s.vf 0).launches = [] ∧
       s.hlContext 0 (tHl) = some tCtx ∧ s.hlContext 0 (tHl 0x10081) = none ∧
       (match s.readLaunch 1 tCtx 0x10080 with
         | (.both r h, s1) => (s1.launch tCtx { ctx := 1, lrec := hlRec (tHl), depth := 1, nest := none, parent := none, stat := some (hlStat (tHl)) } r h).1 = 0
         | _ => false) = true ∧
       (match (s.readLaunch 1 tCtx 0x10180).1 with
         | .badRecord => true
         | _ => false) = true ∧
       (match (s.readLaunch 1 tCtx (2 ^ 56)).1 with
         | .unreadable => true
         | _ => false) = true ∧
       (match (s.readLaunch 1 tCtx 0x50080).1 with
         | .park _ => true
         | _ => false) = true ∧
       (match ({ s with vfs := [(0, { en := true, left := [none, none, none, some 0] })] }.readLaunch 1 tCtx 0x10080).1 with
         | .wait => true
         | _ => false) = true ∧
       (match (sLaunch 0 0x10100 1 1 tCtx).readLaunch 1 tCtx 0x10080 with
         | (.both r h, s1) => (s1.launch tCtx
             { ctx := 1, lrec := 0, depth := 1, nest := none, parent := none, stat := none } r h).1 = 4
         | _ => false) = true) := by
  decide +kernel

/-- A stream's descriptor: context 1, capacity 4, one grid, its program at 0x10080. -/
def tDesc (en : Nat) : BitVec 512 := BitVec.ofNat 512 (packBits [(96, 1, en), (104, 4, 1), (112, 16, 4), (128, 32, 1), (160, 64, 0x10080), (224, 64, 0x10800)])
def vStream (p : Phase) : Vf := { en := true, recCount := 16, slots := 128, evcn := 1, streams := (List.replicate 8 {}).set 2 { desc := tDesc 1, phase := p } }
def sStream (p : Phase) (teams : Nat := 1) (r : Req := { bits := 0 }) : State :=
  { sLaunch 1 0x10100 teams 0 tCtx with vfs := [(0, vStream p)], reqs := [(7, r)] }
def reqOf (st : Nat) : Req := { bits := BitVec.ofNat 2048 (packBits [(48, 3, st), (256, 16, 2), (1008, 16, 0)]), stream := some (0, 2, 1), slotN := 2 }

theorem test_wit_RequestsAndSteps :
    (let s := sStream .idle 1 (reqOf 5)
     (0x20007 : BitVec 64).toNat < 2 ^ 19 ∧ (s.vf 0).hasRecord 7 = true ∧ recState (s.req 7).n = 5 ∧ sdConfigured (s.stream 0 2).desc = true ∧
       (s.vf 0).hasRecord 16 = false) ∧
    (recState (reqOf 5).n = 5 ∧ recState (reqOf 1).n ≠ 5 ∧ ownerOf 8 = .device ∧ ownerOf 12 = .kernel ∧ hostMay false 0 = true ∧
      hostMay false 8 = false ∧ hostMay true 8 = true ∧ hostMay true 4 = false) ∧
    (let s := sStream .idle 1 { reqOf 1 with shadow := some 0 }
     s.streamCtx 0 2 = some (1, tCtx) ∧ (s.stream 0 2).phase = .idle ∧ sdEn (s.stream 0 2).desc = true ∧
       s.heldAgain.streamReqs 0 2 = [7] ∧ (s.heldAgain.req 7).takesPart = true ∧ (s.stream 0 2).aborted = false ∧ s.dev.ready = true ∧
       s.blockReady 0 = true ∧ { (s.stream 0 2) with aborted := true }.aborted = true ∧
       { s with vfs := [(0, { vStream .idle with left := [none, none, none, some 0] })] }.blockReady 0 = false) ∧
    (let s := sStream .idle
     s.heldAgain.streamReqs 0 2 = [] ∧ s.pendingOrder 0 2 = [] ∧ (s.admitAll 0 2 tCtx false []).1 = false) ∧
    (let snap (q : Nat) : State :=
       let s : State := { sStream .idle 1 (reqOf 0) with vfs := [(0, { vStream .idle with hquota := q })] }
       (s.heldAgain.streamReqs 0 2).foldl (fun s rid => s.snapshotReq rid) s.heldAgain
     ((snap 4).admitAll 0 2 tCtx false ((snap 4).pendingOrder 0 2)).1 = true ∧ (snap 0).victim 0 = none ∧
       ((snap 0).vf 0).pagesLeft < (snap 0).demand 0 2 1 [] ∧ (snap 4).demand 0 2 1 [] ≤ ((snap 4).vf 0).pagesLeft) ∧
    (let s := sStream .idle 1 { reqOf 1 with stream := some (0, 3, 1) }
     s.victim 0 = some 7 ∧ (sStream .idle).victim 0 = none) ∧
    (let s := sStream (.launching 0)
     let rd (s : State) (a : Nat) (p : State → Nat → Nat → Bool) : Bool := match s.readLaunch 1 tCtx a with
       | (.both r h, s1) => p s1 r h
       | _ => false
     (s.stream 0 2).phase = .launching 0 ∧ (s.stream 0 2).unreadable = false ∧ (s.stream 0 2).parked = none ∧ sdProg (s.stream 0 2).desc + 128 * 0 = 0x10080 ∧
       rd s 0x10080 (fun s r h => kernelOk tCtx (lrArgs r) h && 0 * lrTeams r ≤ 2 ^ 24 && (s.launch tCtx
         { ctx := 1, lrec := 0x10080, depth := 1, nest := none, parent := none, step := some (0, 2, 1), prio := some 0, teams := some 0 } r h).1 = 0) = true ∧
       rd (sStream (.launching 0) (2 ^ 24)) 0x10080 (fun _ r _ => 2 ^ 24 < 2 * lrTeams r) = true ∧
       rd (sLaunch 1 0x10140 1 0 tCtx) 0x10080 (fun _ r h => !kernelOk tCtx (lrArgs r) h) = true ∧
       (match (s.readLaunch 1 tCtx 0x10180).1 with
         | .badRecord => true
         | _ => false) = true ∧
       (match (s.readLaunch 1 tCtx (2 ^ 56)).1 with
         | .unreadable => true
         | _ => false) = true ∧
       (match (s.readLaunch 1 tCtx 0x50080).1 with
         | .park _ => true
         | _ => false) = true ∧
       (match ({ s with vfs := [(0, { en := true, left := [none, none, none, some 0] })] }.readLaunch 1 tCtx 0x10080).1 with
         | .wait => true
         | _ => false) = true) ∧
    (let s := sStream .idle 1 (reqOf 1)
     s.slotOwner [7] 1 = some (7, 1) ∧ s.slotOwner [7] 2 = none) ∧
    ((∀ rid ∈ (sStream .committing).stepReqs 0 2, (sStream .committing).resampling rid = false) ∧
      ((sStream .committing).stream 0 2).phase = .committing ∧ ((sStream (.running 1 9)).stream 0 2).phase = .running 1 9 ∧
      (sStream (.running 1 9)).grid? 9 = none ∧ sdNprog (tDesc 1) ≤ 1 ∧ ((sStream (.failed 0 2)).stream 0 2).phase = .failed 0 2 ∧
      ((sStream .killed).stream 0 2).phase = .killed ∧ ((sStream .writing).stream 0 2).phase = .writing ∧
      (sStream .writing).streamCtx 0 2 = some (1, tCtx) ∧ ((sStream .idle).ctx? (sdCtx (tDesc 1))).map (·.cst) = some 1) := by
  decide +kernel

def tEnd (l : List (Nat × Nat × Nat)) : Req := { bits := BitVec.ofNat 2048 (packBits ([(48, 3, 1), (640, 32, 9), (512, 128, 2 ^ 128 - 1)] ++ l)), stream := some (0, 0, 1) }

theorem test_wit_RequestTransitions :
    (recFault (tEnd [(160, 32, 2)]).n ≠ 0 ∧ recTlen (tEnd [(64, 32, 3)]).n < recClen (tEnd [(64, 32, 3)]).n) ∧
    (recFault (tEnd [(56, 1, 1)]).n = 0 ∧ recAgate (tEnd [(56, 1, 1)]).h = true ∧ recHstop (tEnd [(57, 1, 1)]).h = true ∧
      recHstop (tEnd []).h = false ∧ (tEnd []).ctx = some 1) ∧
    (let r := tEnd [(1056, 32, 4), (544, 32, 2 ^ 32 - 1)]
     recNtokv r.n = 4 ∧ stopIndex r.h 4 = none ∧ min (recTlen r.n) (recMaxlen r.h) ≠ recMaxlen r.h ∧
       min 9 (recMaxlen r.h) = recMaxlen r.h ∧ stopIndex (packBits [(512, 32, 7), (544, 32, 4)]) 4 = some 1) ∧
    (recGen (1 : Nat) % 2 = 1 ∧ recGen (0 : Nat) % 2 = 0 ∧ recHsusp (2 ^ 58) = true ∧ recHsusp 0 = false ∧ recState (reqOf 4).n = 4 ∧
      (reqOf 1).held = false ∧ (reqOf 1).shadow = none) ∧
    (recEvc (packBits [(896, 64, 0x10010)]) % 8 = 0 ∧ recEvc (packBits [(896, 64, 0x10011)]) % 8 ≠ 0 ∧ 2 ^ 56 ≤ recEvc (packBits [(896, 64, 2 ^ 56)])) ∧
    (let s := { sStream .idle 1 { reqOf 1 with stream := some (0, 3, 1) } with vfs := [(0, vStream .idle)] }
     s.victim 0 = some 7) := by
  decide +kernel

theorem test_wit_OffspringSumToPopulation :
    ((2 ^ 31 : Nat) < 2 ^ 32 ∧ offspring (2 ^ 31) [0, 0, -(2 ^ 63)] = [1, 2, 0]) ∧ (∀ l ∈ ([-(2 ^ 63)] : List Int), l = -(2 ^ 63)) ∧
    ([2, 0, 1] : List Nat).sum = [2, 0, 1].length ∧ parentsOf [2, 0, 1] (cloneParents [2, 0, 1] 0) 0 = [0, 0, 2] := by
  decide +kernel

def sRun (r : Req) (l : List Host.Cell := []) : State := { sPopn tGroup grPop l with reqs := [(7, r)] }

theorem test_wit_ResamplesComplete :
    (let s := sRun { tReq with running := true }
     (s.req 7).running = true ∧ (s.req 7).ctx = some 1 ∧ (s.ctx? 1).isSome ∧ s.popHeader (s.req 7) = some 0x20400 ∧
       (s.popEntries 7 0 (recNpart (s.req 7).h)).1.isSome ∧ s.blockReady (s.req 7).vf = true ∧
       { s with vfs := [(0, { en := true, left := [some 0, none, none, none] })] }.blockReady (s.req 7).vf = false) ∧
    (let s := sRun { tReq with running := true, bits := BitVec.ofNat 2048 (packBits [(48, 3, 1), (192, 64, 0x1FFC0), (256, 16, 2), (288, 8, 1)]) }
     (s.popHeader (s.req 7)).isSome = true ∧ (s.popEntries 7 0 (recNpart (s.req 7).h)).1 = none) ∧
    ({ sRun { tReq with running := true } with mem := [] }.popHeader { tReq with running := true } = none) ∧
    (let s := sRun { tReq with timer := some 90, bits := tReq.bits ||| BitVec.ofNat 2048 (packBits [(320, 32, 20)]) } [(0x20400, 1)]
     (s.req 7).timer = some 90 ∧ s.cycle < 90 + recDeadl (s.req 7).h ∧ ¬({ s with cycle := 110 }.cycle < 90 + recDeadl (s.req 7).h) ∧
       s.popHeader (s.req 7) = some 0x20400 ∧ hdrRst (s.num .pod none 0x20400 64) = 1) := by
  decide +kernel

def tJob : AuditJob :=
  { gid := 1, ctx := 1, vf := 0, grid := tGrid, team := 0, gno := 0, regs := {}, core := 0, sigO := 5, log := [], rid := 7, stepNo := 0, slotId := 0 }
def sAud (j : AuditJob) : State := { tState with audits := [j] }
def coreOf (c : Core) : State := { tState with cores := [(0, c)], cycle := 2 ^ 20 }

theorem test_wit_AuditsAndScores :
    ((sAud tJob).audits[0]? = some tJob ∧ tJob.runner = none ∧ tJob.sigR = none ∧ clusterOf 16 ≠ clusterOf 0 ∧
      ((sAud tJob).core 16).quarantined = false ∧ (sAud tJob).devAdmits 0 = true ∧ ((sAud tJob).core 16).fits [(0, tGrid.k.fullSlots)] 0 = true) ∧
    ({ tJob with sigR := some 5 }.sigR = some tJob.sigO ∧ { tJob with sigR := some 6, sigT := some 6 }.sigT = some 6 ∧
      { tJob with sigR := some 6, sigT := some 5 }.sigT = some tJob.sigO) ∧
    (let j := { tJob with grid := grPop, sigR := some 6, sigT := some 7, reCore := 16, thCore := 32 }
     let s : State := { sPopn tGroup grPop with audits := [j] }
     j.core ≠ j.reCore ∧ j.core ≠ j.thCore ∧ j.reCore ≠ j.thCore ∧ j.grid.step = some (0, 0, 1) ∧ (s.req 7).inStep = true ∧
       (s.stream 0 0).stepNo = j.stepNo ∧ recFault (s.req 7).n = 0 ∧ { tReq with held := true, heldBy := 0 }.held = true ∧
       { tReq with held := true, heldBy := 0 }.heldBy = j.stepNo) ∧
    ((coreOf { parts := List.replicate 4 { replay := [(1, .nop, [])] } }).part 0 3).replay ≠ [] ∧
    ((coreOf {}).laneUsed 0 0 31 = true ∧ (coreOf {}).laneUsed 0 0 32 = false ∧
      (coreOf { parts := List.replicate 4 { spare := some 3 } }).laneUsed 0 0 3 = false) ∧
    (0 < ((coreOf { score := 9 }).core 0).score ∧ ((coreOf { score := 9 }).core 0).decayed + 2 ^ 20 ≤ (coreOf { score := 9 }).cycle) ∧
    (((coreOf { diag := true }).core 0).diag = true ∧ (coreOf { diag := true }).devAdmits 3 = true ∧ ((coreOf {}).core 0).parts.length = 4 ∧
      ([[], [5]] : List (List Nat)).getD 1 [] ≠ [] ∧ ((coreOf {}).part 0 1).spare = none ∧
      ((coreOf { parts := List.replicate 4 { spare := some 3 } }).part 0 1).spare ≠ none) := by
  decide +kernel

theorem test_wit_ErrorsAndWatchdog :
    (((tState).actor 1).isSome ∧ tGroup.life = .resident ∧ tGroup.replays = false ∧ tGrid.step = none ∧ grPop.step.isSome = true) ∧
    ((tState).group? 1 = some tGroup ∧ { tGroup with drained := false }.drained = false ∧ tGroup.loads = [] ∧ tGroup.mat = [] ∧ gLoad.loads ≠ [] ∧
      (∀ b, (tGroup.slot b).dest = [] ∧ (tGroup.slot b).sent = false)) ∧
    (let t := tBar [(3, { expect := 2, arrived := [0], t0 := 50, period := 60 })]
     (tState tGroup t).team? 1 = some t ∧ Map.get? t.bars 3 = some { expect := 2, arrived := [0], t0 := 50, period := 60 } ∧
       (tState tGroup t).grid? 1 = some tGrid ∧ (tState tGroup t).cycle < 50 + 60 ∧ 50 + 60 ≤ { tState tGroup t with cycle := 110 }.cycle) := by
  decide +kernel

/-- FIPS 180-4's example: the digest of the message "abc", its first byte the most significant here. -/
theorem test_sha512_of_abc : beNat (sha512Bytes [0x61, 0x62, 0x63]) =
    0xDDAF35A193617ABACC417349AE20413112E6FA4E89A97EA20A9EEEE64B55D39A2192992A274FC1A836BA3C23A3FEEBBD454D4423643CE80E2A9AC94FA54CA49F := by
  decide +kernel

/-- FIPS 186-5's P-521: the generator lies on y² = x³ − 3x + b and its multiple by the group's order is the point at infinity. -/
theorem test_p521_group : ecG.y * ecG.y % ecP = (ecG.x ^ 3 + (ecP - 3) * ecG.x + ecB) % ecP ∧ (ecG.mul ecN).z = 0 ∧ (ecG.mul (ecN - 1)).z ≠ 0 := by
  decide +kernel

/-- A firmware image whose signature, with the private key 3 and the random number 5, verifies, in a module whose fuses hold the digest
of that key's public key. -/
def tFirmware : ResetInput :=
  { image := [1, 2, 3], key := (ecG.mul 3).sec1, sig := ecdsaSign 3 5 [1, 2, 3], version := 1, badStacks := [7], badPorts := [3], errc := 0 }
def sFuses : State := { State.reset with dev := { fuseKey := sha512 tFirmware.key, fuseVersion := 1 } }

set_option maxRecDepth 100000 in
theorem test_wit_FirmwareVerifies :
    sha512 tFirmware.key = sFuses.dev.fuseKey ∧ ecdsaVerify tFirmware.key tFirmware.image tFirmware.sig.1 tFirmware.sig.2 = true ∧
    sFuses.dev.fuseVersion ≤ tFirmware.version ∧ ¬sFuses.dev.fuseVersion ≤ { tFirmware with version := 0 }.version := by
  decide +kernel

theorem test_wit_DeviceRegisters :
    ({ tState with cycle := 10500 }.dev.period + 10500 ≤ { tState with cycle := 10500 }.cycle ∧ Map.get? (tState).vfs 0 = some { en := true } ∧
      (3600000 : Nat) < 3600001 ∧ (tState).dev.power < 4 ∧ (tState).dev.powerMark + 105000 ≤ { tState with cycle := 105000 }.cycle) ∧
    ((3399999 : Nat) < 3400000 ∧ (0 : Nat) < ({ power := 4 } : Device).power ∧ ({ power := 4 } : Device).powerMark + 1050000 ≤ 1050000) ∧
    ((tState).dev.ready = true ∧ (tState).dev.filled < 640 ∧ ({ filled := 639 } : Device).filled + 1 = 640 ∧
      (tState).dev.filled / 80 ∉ (tState).dev.badStacks ∧ (0 : Nat) / 80 ∈ ({ badStacks := [0] } : Device).badStacks) ∧
    ((128 : Nat) % 128 = 0 ∧ 8192 ≤ 8192 ∧ (129 : Nat) % 128 ≠ 0 ∧ 0 < (sKey gKey (cKey {})).vfBinds 0 ∧
      0 < ({ tState gAway with groups := [(1, { gAway with life := .suspended { counter := 8, target := 1, cont := 0, slotNo := 0, nv := 0 } })] }.countersInUse 0).length ∧
      State.reset.ctxs = []) ∧
    (((sStream .idle).vf 0).streams.length = 8 ∧ sdEn ((sStream .idle).stream 0 2).desc = true ∧ sdEn ((sStream .idle).stream 0 1).desc = false) ∧
    (((tState).dev.ports.getD 31 {}).g3 = true ∧ ((tState).dev.ports.getD 31 {}).g4 = true ∧ (0x30 : BitVec 64).toNat / 16 % 16 = 3 ∧ (0x10 : BitVec 64).toNat / 16 % 16 = 1 ∧
      ((tState).dev.ports.getD 31 {}).link ≠ 1 ∧ ({ link := 1 } : Port).link = 1 ∧ (∀ x ∈ (tState).portIn, x.1 ≠ 31) ∧
      (let s : State := { tState with portIn := [(31, .notHome 6)] }
       s.portIn = (31, .notHome 6) :: [])) ∧
    ((0 : Nat) + 32 ≤ 32 ∧ (tState).dev.arStore = none ∧ { (tState).dev with arStore := some 1 }.arStore.isSome = true ∧
      (∃ p ∈ ({ tState with pend := [tStore] } : State).pend, p.id = 1) ∧ (∀ p ∈ (tState).pend, p.id ≠ 1) ∧ (∀ w ∈ (tState).portWait, w.1 ≠ 3) ∧
      ((sStream .idle).vf 0).hasRecord 7 = true ∧ ((tState).vf 0).hasRecord 7 = false) ∧
    (((tState).vf 5).en = false ∧ ((sOwn (tState)).vf 0).en = true ∧ (0x20000 : BitVec 64).toNat / 256 * 256 < 2 ^ 48 ∧
      (sOwn (tState)).ownsFrame 0 2 = true) := by
  decide +kernel

theorem test_wit_StepKeepsMemory : (sProg [0x05C00005]).MemInv ∧ ∃ t, step (sProg [0x05C00005]) = .next t :=
  ⟨by decide +kernel, _, rfl⟩

theorem test_wit_NothingStops :
    encode .budgetPeriodStart = [] ∧ (tState).env?.isSome = true ∧ encode .nop ≠ [] ∧ State.reset.env? = none := by
  decide +kernel

theorem test_wit_DecodeOfEncode :
    (Instr.iadd { dst := .vec 255, ty := .i32, a := .vec 254 false true, b := .last true, c := .none }).wf = true ∧
    encode (.iadd { dst := .vec 255, ty := .i32, a := .vec 254 false true, b := .last true, c := .none }) ≠ [] := by
  decide +kernel

/-! ### Decoding: words of the spec's encodings, and the instructions they stand for (the entries' encoding tables) -/

/-- The words decode to the instruction, which uses all of them, is well formed and encodes to them again. -/
def readsAs (ws : List Word) (i : Instr) : Bool := decode ws = .ok (i, ws.length) && encode i = ws && i.wf

theorem test_words_control :
    readsAs [0x01800000] .exit ∧ readsAs [0x01000000] .ret ∧ readsAs [0x00400008] (.br 8) ∧ readsAs [0x007FFFFC] (.br 0x3FFFFC) ∧
    readsAs [0x00C00040] (.call 64) ∧ readsAs [0x00854003] (.brc 5 1 3) ∧ readsAs [0x0083BFF6] (.brc 3 2 0x3FF6) ∧
    readsAs [0x01401C00] (.brx 7) ∧ readsAs [0xA0040000, 0, 6] (.brv false 1 6) ∧ readsAs [0xA0240000, 0, 0x00FFFFFE] (.brv true 1 0xFFFFFE) := by
  decide +kernel

theorem test_words_system :
    readsAs [0x02020047] (.barArrive 2 1 3) ∧ readsAs [0x02020084] (.bar 2 2 2) ∧ readsAs [0x02400014] (.fence .rel .pod) ∧
    readsAs [0x02400003] (.fence .ar .device) ∧ readsAs [0x02821401] (.acq 2 5 0 true) ∧ readsAs [0x02821402] (.acq 2 5 1 false) ∧
    readsAs [0x02C01400] (.rel 5 0) ∧ readsAs [0x03051870] (.bind 5 6 7 0) ∧ readsAs [0x03450000] (.unbind 5 0) ∧
    readsAs [0x03800300] (.waitc 3 0) ∧ readsAs [0x03C50000] (.mbatch 5) ∧ readsAs [0x04001400] (.mwait 5) ∧
    readsAs [0x04490832] (.susp 9 2 3 2) ∧ readsAs [0x04840860] (.evsig 4 2 6) ∧ readsAs [0x04C00000] .acqr ∧ readsAs [0x05000000] .rela ∧
    readsAs [0x05450060] (.setb 5 96) ∧ readsAs [0x05870400] (.launch 7 1) ∧ readsAs [0x06000000] .eret ∧ readsAs [0x06000001] .eretSkip ∧
    readsAs [0x064B0001] (.rdsr 11 1) ∧ readsAs [0x07440800] (.seal 4 2) ∧ readsAs [0x07440061] (.sealRel 4 6) ∧
    readsAs [0x07820000] (.stepcmt 2) ∧ readsAs [0x070B0000] (.mpx { ord := .acq, scope := .device, cache := 0, nt := false, rx := false }) ∧
    readsAs [0x0714E000] (.mpx { ord := .rel, scope := .pod, cache := 3, nt := true, rx := false }) := by
  decide +kernel

theorem test_words_scalar :
    readsAs [0x08031050] (.sadd 3 4 5) ∧ readsAs [0x08431050] (.ssub 3 4 5) ∧ readsAs [0x0ABF2400] (.smov 63 9) ∧
    readsAs [0x4AC60000, 0x56789ABC, 0x1234] (.sliLit 6 0x123456789ABC) ∧ readsAs [0x0D030FFF] (.saddi 3 3 0x3FF) ∧
    readsAs [0x4D030C00, 0xFFFFFFFF, 0xFFFFFFFF] (.saddiLit 3 3 0xFFFFFFFFFFFFFFFF) ∧ readsAs [0x0B060422] (.scmp 6 1 2 2) ∧
    readsAs [0x0C041460] (.ssel 4 5 6) ∧ readsAs [0x0B472091] (.sbfe 7 8 9 true) ∧ readsAs [0x0C460421] (.sdiv 6 1 2 1) ∧
    readsAs [0x0D420000] (.sldu 2 0 0) ∧ readsAs [0x4D420000, 0x1000, 0] (.slduLit 2 0 0x1000) ∧ readsAs [0x0D840010] (.sstu 4 0 16) := by
  decide +kernel

theorem test_words_vector_integer :
    readsAs [0x906C0220, 0x00409000, 0] (.isub { pn := true, pi := 3, dst := .vec 1, ty := .i32, a := vreg 1, b := vreg 9 }) ∧
    readsAs [0x901C0420, 0x00800000, 0x30FFFFFB] (.iadd { dst := .vec 2, ty := .i32, a := vreg 2, b := .imm, xf := 0xFFFFFB }) ∧
    readsAs [0x901C0420, 0x00800000, 0x20000000] (.iadd { dst := .vec 2, ty := .i32, a := vreg 2, b := .last false }) ∧
    readsAs [0x911C0620, 0x01005018, 0] (.imad { dst := .vec 3, ty := .i32, a := vreg 4, b := vreg 5, c := vreg 6 }) ∧
    readsAs [0x915C0840, 0x00803000, 0] (.idiv { dst := .vec 4, ty := .n32, a := vreg 2, b := vreg 3 }) ∧
    readsAs [0x92DEA422, 0x00C04000, 0x10000000] (.icmp { dst := .pred 2, ty := .i32, fn := 2, a := vreg 3, b := .scal 4 }) ∧
    readsAs [0x931C0C00, 0x03400000, 0x40000000] (.shl { dst := .vec 6, ty := .b32, a := .scal 13, b := vreg 0 }) ∧
    readsAs [0x965C0C00, 0x0040200C, 0] (.bfi { dst := .vec 6, ty := .b32, a := vreg 1, b := vreg 2, c := vreg 3 }) ∧
    readsAs [0x961C0C40, 0x01807000, 0x0C000010] (.bfe { dst := .vec 6, ty := .n32, a := vreg 6, b := vreg 7, c := .imm, xf := 16 }) ∧
    readsAs [0x96DE1200, 0, 0xC0FFFFFF] (.mov { dst := .scal 9, ty := .b32, a := .imm, xf := 0xFFFFFF }) ∧
    readsAs [0x971C0020, 0x02400000, 0x70000001] (.movi { dst := .vec 0, ty := .i32, a := .scal 9, b := .imm, xf := 1 }) ∧
    readsAs [0x969C0600, 0x01005088, 0x08000000] (.sel { dst := .vec 3, ty := .b32, a := vreg 4, b := vreg 5, c := .pred 2 }) := by
  decide +kernel

theorem test_words_vector_float :
    readsAs [0xD81C0460, 0x00800000, 0x30000000, 0x3FC00000, 0]
      (.fadd { dst := .vec 2, ty := .f32, a := vreg 2, b := .imm, lit := some 0x3FC00000 }) ∧
    readsAs [0x98DC1860, 0x0240E030, 0] (.fma { dst := .vec 12, ty := .f32, a := vreg 9, b := vreg 14, c := vreg 12 }) ∧
    readsAs [0x999EA662, 0x00402000, 0] (.fcmp { dst := .pred 3, ty := .f32, fn := 2, a := vreg 1, b := vreg 2 }) ∧
    readsAs [0x9A5C0860, 0x01400000, 0x01000000] (.frcp { dst := .vec 4, ty := .f32, a := vreg 5, rm := .rtz }) ∧
    readsAs [0xDB5C0860, 0, 0xC0000000, 0x3F000000, 0] (.fexp2 { dst := .vec 4, ty := .f32, a := .imm, lit := some 0x3F000000 }) ∧
    readsAs [0x9CDC0483, 0x00C00000, 0x01000000] (.cvt { dst := .vec 2, ty := .bf16, fn := 3, a := vreg 3, rm := .rtz }) ∧
    readsAs [0x9D1C0AE2, 0x01805000, 3] (.pack { dst := .vec 5, ty := .i8, fn := 2, a := vreg 6, b := vreg 5, xf := 3 }) ∧
    readsAs [0x9D5C0661, 0x00800000, 4] (.unpk { dst := .vec 3, ty := .f32, fn := 1, a := vreg 2, xf := 4 }) := by
  decide +kernel

theorem test_words_lanes :
    readsAs [0x9E1C0802, 0x00C00000, 0x30000001] (.shfl { dst := .vec 4, ty := .b32, fn := 2, a := vreg 3, b := .imm, xf := 1 }) ∧
    readsAs [0x9E5E0800, 0x08400000, 0x80000000] (.ballot { dst := .scal 4, ty := .b32, a := .pred 1 }) ∧
    readsAs [0x9E9E0801, 0x08400000, 0x80000000] (.vote { dst := .scal 4, ty := .b32, fn := 1, a := .pred 1 }) ∧
    readsAs [0x9EDC0A02, 0x00C00000, 0x40000000] (.matchLanes { dst := .vec 5, ty := .b32, fn := 2, a := .scal 3 }) ∧
    readsAs [0x9F1E0860, 0x00800000, 0] (.redux { dst := .scal 4, ty := .f32, a := vreg 2 }) ∧
    readsAs [0x9F9C1000, 0x00803000, 0x0C000123] (.prmb { dst := .vec 8, ty := .b32, a := vreg 2, b := vreg 3, c := .imm, xf := 0x123 }) ∧
    readsAs [0x9FDC1180, 0x02000000, 0] (.xpose { dst := .vec 8, ty := .b8, a := vreg 8 }) ∧
    readsAs [0xA05EA605, 0x08427000, 0xA0000000] (.plog { dst := .pred 3, ty := .b32, fn := 5, a := .pred 1, b := .pred 7 }) ∧
    readsAs [0xA09E0C01, 0x08800000, 0x80000000] (.pmov { dst := .scal 6, ty := .b32, fn := 1, a := .pred 2 }) ∧
    readsAs [0xA0DE0A00, 0x01C00000, 0x30000028] (.vget { dst := .scal 5, ty := .b32, a := vreg 7, b := .imm, xf := 40 }) ∧
    readsAs [0xA11C0E00, 0x01400000, 0x70000028] (.vput { dst := .vec 7, ty := .b32, a := .scal 5, b := .imm, xf := 40 }) := by
  decide +kernel

theorem test_words_memory :
    readsAs [0xA21C0E02, 0x00005000, 0] (.lds { dst := .vec 7, ty := .b32, fn := 2, b := vreg 5 }) ∧
    readsAs [0xA21C1010, 0x00005000, 0x00FFFFF0] (.lds { dst := .vec 8, ty := .b32, fn := 16, b := vreg 5, xf := 0xFFFFF0 }) ∧
    readsAs [0xA25EB001, 0x0000501C, 0] (.sts { dst := .discard, ty := .b32, fn := 1, b := vreg 5, c := vreg 7 }) ∧
    readsAs [0xA286B040, 0x00013018, 0] (.ats { pi := 1, dst := .discard, ty := .n32, b := vreg 19, c := vreg 6 }) ∧
    readsAs [0xA2DC11C8, 0x0C804000, 0x80000000] (.ldg { dst := .vec 8, ty := .page, fn := 8, a := .greg 2, b := vreg 4 }) ∧
    readsAs [0xA31EB000, 0x0C80501C, 0x84000000] (.stg { dst := .discard, ty := .b32, a := .greg 2, b := vreg 5, c := .scal 7 }) ∧
    readsAs [0xA35C09AE, 0x0C805018, 0x80000000] (.atg { dst := .vec 4, ty := .b64, fn := 14, a := .greg 2, b := vreg 5, c := vreg 6 }) ∧
    readsAs [0xA39EB000, 0x0C805000, 0x80000000] (.pfg { dst := .discard, ty := .b32, a := .greg 2, b := vreg 5 }) ∧
    readsAs [0xA3DEC400, 0x00007000, 0x50000000] (.gset { dst := .greg 2, ty := .b32, a := .scal 0, b := .scal 7 }) ∧
    readsAs [0xA41C0E00, 0x02005000, 0x40000010] (.ldf { dst := .vec 7, ty := .b32, a := .scal 8, b := vreg 5, xf := 16 }) ∧
    readsAs [0xA45EB000, 0x0200501C, 0x40000010] (.stf { dst := .discard, ty := .b32, a := .scal 8, b := vreg 5, c := vreg 7, xf := 16 }) ∧
    readsAs [0xA49C0847, 0x02005018, 0x40000010] (.atf { dst := .vec 4, ty := .n32, fn := 7, a := .scal 8, b := vreg 5, c := vreg 6, xf := 16 }) ∧
    readsAs [0xA4DC15C8, 0x0C805018, 0x80000000] (.ldk { dst := .vec 10, ty := .page, fn := 8, a := .greg 2, b := vreg 5, c := vreg 6 }) ∧
    readsAs [0xA51C0800, 0x01805000, 0x40000008] (.reqld { dst := .vec 4, ty := .b32, a := .scal 6, b := vreg 5, xf := 8 }) ∧
    readsAs [0xA55EB1A0, 0x0100001C, 0x44000088] (.reqst { dst := .discard, ty := .b64, a := .scal 4, c := .scal 7, xf := 0x88 }) := by
  decide +kernel

theorem test_words_engines_matrix_populations :
    readsAs [0xA81EB1C1, 0x0100601C, 0x54000000] (.cpy { dst := .discard, ty := .page, fn := 1, a := .scal 4, b := .scal 6, c := .scal 7 }) ∧
    readsAs [0xA85EB1C0, 0x01005018, 0x44000000] (.gath { dst := .discard, ty := .page, a := .scal 4, b := vreg 5, c := .scal 6 }) ∧
    readsAs [0xA8DEB060, 0x01006020, 0x54000000] (.coll { dst := .discard, ty := .f32, a := .scal 4, b := .scal 6, c := .scal 8 }) ∧
    readsAs [0xA91EB1C1, 0x01006000, 0x50000000] (.cpyf { dst := .discard, ty := .page, fn := 1, a := .scal 4, b := .scal 6 }) ∧
    readsAs [0xA95E0A00, 0, 0] (.cntrd { dst := .scal 5, ty := .b32 }) ∧
    readsAs [0xAC1E8480, 0x02010000, 0] (.mma { dst := .tile 2, ty := .bf16, a := vreg 8, b := vreg 16 }) ∧
    readsAs [0xAC5E86E1, 0x000080E0, 0] (.mmas { dst := .tile 3, ty := .i8, fn := 1, a := vreg 0, b := vreg 8, c := vreg 56 }) ∧
    readsAs [0xAC9E8482, 0x02010018, 0x04000000] (.mqk { dst := .tile 2, ty := .bf16, fn := 2, a := vreg 8, b := vreg 16, c := .scal 6 }) ∧
    readsAs [0xACDC2860, 0x04800000, 0x80000000] (.msmx { dst := .vec 20, ty := .f32, a := .tile 2 }) ∧
    readsAs [0xAD1E8A00, 0, 0] (.mzero { dst := .tile 5, ty := .b32 }) ∧
    readsAs [0xAD5E8801, 0x01807000, 0x50000040] (.mldt { dst := .tile 4, ty := .b32, fn := 1, a := .scal 6, b := .scal 7, xf := 64 }) ∧
    readsAs [0xAD9EB001, 0x01807050, 0x58000040] (.mstt { dst := .discard, ty := .b32, fn := 1, a := .scal 6, b := .scal 7, c := .tile 4, xf := 64 }) ∧
    readsAs [0xADDEA420, 0x01003000, 0x40000000] (.tmask { dst := .pred 2, ty := .i32, a := .scal 4, b := vreg 3 }) ∧
    readsAs [0xB01EB060, 0x03003000, 0] (.plwadd { dst := .discard, ty := .f32, a := vreg 12, b := vreg 3 }) ∧
    readsAs [0xB05E0DA0, 0x00800000, 0x40000000] (.plwrd { dst := .scal 6, ty := .b64, a := .scal 2 }) ∧
    readsAs [0xB09E0840, 0x00800000, 0x40000000] (.rsmp { dst := .scal 4, ty := .n32, a := .scal 2 }) ∧
    readsAs [0xB0DC2A40, 0x00C00000, 0] (.pmap { dst := .vec 21, ty := .n32, a := vreg 3 }) ∧
    readsAs [0xB11C3041, 0x00C07020, 0x14000000] (.rngx { dst := .vec 24, ty := .n32, fn := 1, a := vreg 3, b := .scal 7, c := .scal 8 }) ∧
    readsAs [0xB15C3C61, 0x0200902C, 0x50000200]
      (.drawc { dst := .vec 30, ty := .f32, fn := 1, a := .scal 8, b := .scal 9, c := vreg 11, xf := 512 }) ∧
    readsAs [0xB19E0840, 0x0280B000, 0x50000000] (.specv { dst := .scal 4, ty := .n32, a := .scal 10, b := .scal 11 }) := by
  decide +kernel

/-- What is no instruction is refused under its own name (R83, R84, R87, R90, R91, R96, R98). -/
theorem test_words_refused :
    decode [0x90000000] = .error .short ∧ decode [0x40000000, 0, 0] = .error .pairing ∧ decode [0x97400000, 0, 0] = .error .opcode ∧
    decode [0x01800001] = .error .reserved ∧ decode [0x901C03E0, 0x00409000, 0] = .error .field ∧
    decode [0x901C0221, 0x00409000, 0] = .error .operand := by
  decide +kernel

/-! ### Well-formedness: one ill-formed term for each check, beside a well-formed one -/

def xBase : XArgs := { dst := .vec 3, ty := .i32, a := vreg 1, b := vreg 2 }

theorem test_wf_fields :
    (Instr.iadd xBase).wf ∧ !(Instr.iadd { xBase with pn := true }).wf ∧ !(Instr.iadd { xBase with a := .vec 1 true true }).wf ∧
    !(Instr.iadd { xBase with b := .vec 1 true true }).wf ∧ !(Instr.iadd { xBase with c := .vec 1 true true }).wf ∧
    !(Instr.iadd { xBase with ty := .f32 }).wf ∧ !(Instr.iadd { xBase with fn := 1 }).wf ∧ !(Instr.iadd { xBase with rm := .rtz }).wf ∧
    !(Instr.iadd { xBase with a := .tile 1 }).wf ∧ !(Instr.iadd { xBase with b := .greg 1 }).wf ∧ !(Instr.iadd { xBase with c := vreg 1 }).wf ∧
    !(Instr.iadd { xBase with dst := .tile 1 }).wf ∧ !(Instr.iadd { xBase with dst := .scal 1 }).wf ∧
    (Instr.iadd { xBase with dst := .scal 1, a := .scal 1, b := .scal 2 }).wf ∧ !(Instr.icmp { xBase with dst := .pred 7 }).wf := by
  decide +kernel

theorem test_wf_immediates :
    !(Instr.iadd { xBase with xf := 1 }).wf ∧ !(Instr.iadd { xBase with lit := some 1 }).wf ∧ !(Instr.iadd { xBase with a := .imm, b := .imm }).wf ∧
    (Instr.iadd { xBase with b := .imm, lit := some 0xFFFFFFFFFFFFFFFF }).wf ∧ !(Instr.iadd { xBase with b := .imm, lit := some 0x100000000 }).wf ∧
    !(Instr.iadd { xBase with b := .imm, xf := 1, lit := some 1 }).wf ∧ !(Instr.fadd { xBase with ty := .f32, b := .imm, xf := 1 }).wf ∧
    !(Instr.fadd { xBase with ty := .f32, b := .imm, lit := some 0xFFFFFFFF00000000 }).wf ∧
    !(Instr.sts { dst := .discard, ty := .b32, b := .imm, c := vreg 3, xf := 8 }).wf := by
  decide +kernel

theorem test_wf_operand_rules :
    !(Instr.mov { dst := .vec 3, ty := .b64, a := vreg 2 }).wf ∧ !(Instr.ldg { dst := .vec 3, ty := .b64, a := .greg 1, b := vreg 2 }).wf ∧
    !(Instr.ldg { dst := .vec 2, ty := .b32, fn := 16, a := .greg 1, b := vreg 2 }).wf ∧
    !(Instr.ats { dst := .discard, ty := .b64, fn := 9, b := vreg 2, c := vreg 4 }).wf ∧
    !(Instr.ats { dst := .discard, ty := .n32, fn := 7, b := vreg 2, c := vreg 5 }).wf ∧
    !(Instr.mma { dst := .tile 1, ty := .bf16, a := vreg 4, b := vreg 4 }).wf ∧ !(Instr.mma { dst := .tile 1, ty := .bf16, pi := 0, a := vreg 8, b := vreg 4 }).wf ∧
    !(Instr.pmov { dst := .vec 1, ty := .b32, a := .scal 1 }).wf ∧ !(Instr.cpy { dst := .discard, ty := .page, a := .scal 1, b := .scal 2, c := vreg 3 }).wf ∧
    !(Instr.drawc { dst := .vec 1, ty := .f32, fn := 8, a := vreg 1, b := .scal 2, c := vreg 3 }).wf ∧
    !(Instr.xpose { dst := .vec 8, ty := .b32, a := vreg 16 }).wf ∧ !(Instr.rngx { dst := .vec 2, ty := .n32, a := vreg 1, b := vreg 2 }).wf ∧
    !(Instr.fence .rlx .pod).wf ∧ !(Instr.acq 1 2 3 true).wf ∧ !(Instr.bind 1 2 3 3).wf ∧ !(Instr.rdsr 1 18).wf ∧ !(Instr.scmp 1 2 3 10).wf ∧
    !(Instr.brv true 7 0).wf := by
  decide +kernel

/-! ### Numbers and single steps, with the values of the spec's tables -/

/-- R124's table and the CVT entry's. -/
theorem test_conversions :
    convert .f32 .dl8 .rne 0x3E99999A = (0x54, true) ∧ convert .dl8 .f32 .rne 0xB5 = (0xC425A000, false) ∧
    convert .f32 .i8 .rne 0xC0600000 = (0xFFFFFFFC, true) ∧ convert .f32 .i8 .rne 0x4348B333 = (0x7F, true) ∧
    convert .f32 .bf16 .rtz 0x3F80FFFF = (0x3F80, true) ∧ convert .i32 .f32 .rne 16777217 = (0x4B800000, true) ∧
    (convert .i32 .i4 .rne 9).1 = 7 ∧ convert .f32 .f16 .rtz 0x47C35000 = (0x7BFF, true) ∧ (convert .f16 .f32 .rne 0x7E01).1 = 0x7FC00000 ∧
    (convert .dl8 .bf16 .rne 0x50).1 = 0x3DCD ∧ dl8Decode 0x7F = 0x42BCC000 ∧ dl8Decode 0x03 = 0x501502F9 ∧
    (convert .f32 .dl8 .rne 0x3FA40000).1 = 0x60 := by
  decide +kernel

/-- R330's table: 1 + 2^-24 in binary32 and 65504 + 65504 in binary16 under the four modes. -/
theorem test_float_rounding :
    f32.add .rne 0x3F800000 0x33800000 = (0x3F800000, true) ∧ f32.add .rtz 0x3F800000 0x33800000 = (0x3F800000, true) ∧
    f32.add .rdn 0x3F800000 0x33800000 = (0x3F800000, true) ∧ f32.add .rup 0x3F800000 0x33800000 = (0x3F800001, true) ∧
    f16.add .rne 0x7BFF 0x7BFF = (0x7C00, true) ∧ f16.add .rtz 0x7BFF 0x7BFF = (0x7BFF, true) ∧
    f16.add .rdn 0x7BFF 0x7BFF = (0x7BFF, true) ∧ f16.add .rup 0x7BFF 0x7BFF = (0x7C00, true) := by
  decide +kernel

/-- R128's corners. -/
theorem test_division_corners :
    divide 32 true 5 0 = (0x7FFFFFFF, 5, true, false) ∧ divide 32 true 0xFFFFFFFB 0 = (0x80000000, 0xFFFFFFFB, true, false) ∧
    divide 32 false 5 0 = (0xFFFFFFFF, 5, true, false) ∧ divide 32 true 0 0 = (0, 0, true, false) ∧
    divide 32 true 0x80000000 0xFFFFFFFF = (0x80000000, 0, false, true) ∧ divide 32 true 0xFFFFFFF9 2 = (0xFFFFFFFD, 0xFFFFFFFF, false, false) := by
  decide +kernel

/-- R134's table: the value read after the increments of each row but the fourth (see log 47). -/
theorem test_log_weights :
    (let r := fun (xs : List Nat) => wrap (weightRead ((xs.map fun x => (weightStep x).getD 0).foldl (· + ·) 0) (xs.any fun x => (weightStep x).isNone)) 64
     r [0xBF800000] = 0xFFFFFFFF00000000 ∧ r [0xBF800000, 0x3DCCCCCD] = 0xFFFFFFFF199999A0 ∧ r [0x2B8CBCCC] = 0 ∧
     r [0x4F32D05E] = 0x7FFFFFFFFFFFFFFF ∧
     r [0x40000000, 0xFF800000, 0x40A00000] = 0x8000000000000000) := by
  decide +kernel

/-- The element order of R347's example: 2^24 first or last among ones, summed in ascending k. -/
theorem test_matrix_sum_order :
    ((0x4B80 :: List.replicate 47 0x3F80).foldl (fun acc b => accumulate .bf16 acc 0x3F80 b) 0 = 0x4B800000) ∧
    ((List.replicate 47 0x3F80 ++ [0x4B80]).foldl (fun acc b => accumulate .bf16 acc 0x3F80 b) 0 = 0x4B800018) := by
  decide +kernel

/-- What register n of the group holds in lane 0 after one instruction on v1 = a, v2 = b in every lane. -/
def laneAfter (i : Instr) (n a b : Nat) : Option Nat :=
  match exec i (tState (withV 1 (fun _ => BitVec.ofNat 32 a) (withV 2 (fun _ => BitVec.ofNat 32 b)))) with
  | .next s => (s.group? 1).map fun g => (lane (g.regs.vec n) 0).toNat
  | _ => none
/-- What scalar n holds after one instruction on s1 = a, s2 = b. -/
def scalarAfter (i : Instr) (n : Nat) (a b : BitVec 64) : Option (BitVec 64) :=
  match exec i (tState (withS 1 a (withS 2 b))) with
  | .next s => (s.group? 1).map fun g => g.regs.s.getD n 0
  | _ => none

/-- R338's IMULHI values, and a destination that is also a source. -/
theorem test_step_vector_integer :
    laneAfter (.imulhi { xBase with ty := .i32 }) 3 0xFFFFFFFF 2 = some 0xFFFFFFFF ∧ laneAfter (.imulhi { xBase with ty := .n32 }) 3 0xFFFFFFFF 2 = some 1 ∧
    laneAfter (.imulhi { xBase with ty := .i32 }) 3 0x80000000 0xFFFFFFFF = some 0 ∧
    laneAfter (.imulhi { xBase with ty := .n32 }) 3 0x80000000 0xFFFFFFFF = some 0x7FFFFFFF ∧
    laneAfter (.isub { xBase with dst := .vec 2 }) 2 5 7 = some 0xFFFFFFFE ∧
    laneAfter (.sar { xBase with ty := .b32 }) 3 0x80000000 36 = some 0xF8000000 ∧
    laneAfter (.rotl { xBase with ty := .b32 }) 3 0x80000001 4 = some 0x18 ∧
    laneAfter (.andn { xBase with ty := .b32 }) 3 0xFF 0x0F = some 0xF0 := by
  decide +kernel

theorem test_step_scalar :
    scalarAfter (.sadd 3 1 2) 3 0xFFFFFFFFFFFFFFFF 2 = some 1 ∧ scalarAfter (.ssub 1 2 1) 1 3 1 = some 0xFFFFFFFFFFFFFFFE ∧
    scalarAfter (.smulhi 3 1 2) 3 0xFFFFFFFFFFFFFFFF 2 = some 0xFFFFFFFFFFFFFFFF ∧ scalarAfter (.ssar 3 1 2) 3 0x8000000000000000 68 = some 0xF800000000000000 ∧
    scalarAfter (.spopc 3 1) 3 0xF00F 0 = some 8 ∧ scalarAfter (.saddi 3 1 0x3FF) 3 5 0 = some 4 ∧
    scalarAfter (.sdiv 3 1 2 0) 3 0xFFFFFFFFFFFFFFF9 2 = some 0xFFFFFFFFFFFFFFFD ∧ scalarAfter (.scmp 3 1 2 2) 3 0xFFFFFFFFFFFFFFFF 0 = some 1 := by
  decide +kernel

/-- Lane 3 is not active (mask 7): it keeps its value, and the pc moves past the twelve bytes (R71, R82). -/
theorem test_step_inactive_lane :
    (match exec (.iadd xBase) (tState (withV 1 (fun l => BitVec.ofNat 32 l) (withV 2 (fun _ => 10) (withV 3 (fun _ => 99))))) with
     | .next s => (s.group? 1).map fun g => ((lane (g.regs.vec 3) 2).toNat, (lane (g.regs.vec 3) 3).toNat, g.slot0.pc)
     | _ => none) = some (12, 99, 0x1004C) := by
  decide +kernel

end Sys2Proof.Tests
end

section
namespace Sys2Proof.Machine

set_option Elab.async false

/-! ### Every step keeps memory in form (O58)

One lemma for each function that answers a state, in the order of the model: from a state whose memory is in form it answers one
whose memory is in form. `h.setVf.fields` reads as the operations themselves do, inmost first; a function that is handed a
continuation asks that the continuation keeps the form. Memory itself is written only by a store that is performed, by the
frames zeroed and copied, and by a region of HBM filled; everything else is built of these. -/

/-! #### What carries a state -/

/-- Every state that a result carries has its memory in form. -/
def Res.MemInv : Res → Prop
  | .ok t | .trap _ _ _ t | .wait _ t => t.MemInv

/-- The state that an outcome goes on with, where it does, has its memory in form. -/
def OutMemInv : Host.Outcome State Fault Refusal → Prop
  | .next t => t.MemInv
  | _ => True

/-- Every state that a piece of an engine or matrix operation carries has its memory in form. -/
def Piece.MemInv : Piece → Prop
  | .done _ t | .park _ t | .wait t | .err _ t => t.MemInv

/-- As for a piece, of the value an engine read. -/
def Got.MemInv : Got → Prop
  | .val _ t | .park _ t | .wait t | .err _ _ t => t.MemInv

/-- As for a result, of a fetch. -/
def Fetched.MemInv : Fetched → Prop
  | .words _ t => t.MemInv
  | .stop r => r.MemInv

/-- As for a result, of an instruction fetched whole. -/
def FetchedUnit.MemInv : FetchedUnit → Prop
  | .run _ t | .over t => t.MemInv

/-- As for a result, of a request that arrives over the fabric. -/
def Ingress.MemInv : Ingress → Prop
  | .answer _ t | .hold t | .forward _ t | .notHome t | .silent t => t.MemInv

/-- As for a result, of an access by the module. -/
def ModAway.MemInv : ModAway → Prop
  | .wait t => t.MemInv
  | _ => True

/-- The operations of a memory instruction keep memory in form. -/
structure MemOp.MemInv (op : MemOp) : Prop where
  xl : ∀ {s a}, s.MemInv → (op.xl s a).2.MemInv
  here : ∀ {s a pa leaf}, s.MemInv → (op.here s a pa leaf).2.MemInv
  there : ∀ {s a bs}, s.MemInv → (op.there s a bs).2.MemInv

theorem State.MemInv.next {s : State} (h : s.MemInv) : OutMemInv (.next s) := h

/-- A field other than memory changed. -/
theorem State.MemInv.fields {s t : State} (h : s.MemInv) (e : t.mem = s.mem := by rfl) : t.MemInv :=
  State.memInv_of_mem e h

/-- The state of a pair that an operation answered. -/
theorem State.MemInv.of_eq {α : Type} {p : α × State} {a : α} {t : State} (h : p.2.MemInv) (e : p = (a, t)) : t.MemInv := by
  subst e
  exact h

theorem State.MemInv.of_eq_fst {α : Type} {p : State × α} {a : α} {t : State} (h : p.1.MemInv) (e : p = (t, a)) : t.MemInv := by
  subst e
  exact h

theorem Res.MemInv.of_ok {r : Res} {t : State} (h : r.MemInv) (e : r = .ok t) : t.MemInv := by
  subst e
  exact h

theorem Res.MemInv.of_trap {r : Res} {c i l} {t : State} (h : r.MemInv) (e : r = .trap c i l t) : t.MemInv := by
  subst e
  exact h

theorem Res.MemInv.of_wait {r : Res} {w} {t : State} (h : r.MemInv) (e : r = .wait w t) : t.MemInv := by
  subst e
  exact h

theorem Piece.MemInv.of_done {x : Piece} {a0} {t : State} (h : x.MemInv) (e : x = .done a0 t) : t.MemInv := by
  subst e
  exact h

theorem Piece.MemInv.of_park {x : Piece} {a0} {t : State} (h : x.MemInv) (e : x = .park a0 t) : t.MemInv := by
  subst e
  exact h

theorem Piece.MemInv.of_wait {x : Piece} {t : State} (h : x.MemInv) (e : x = .wait t) : t.MemInv := by
  subst e
  exact h

theorem Piece.MemInv.of_err {x : Piece} {a0} {t : State} (h : x.MemInv) (e : x = .err a0 t) : t.MemInv := by
  subst e
  exact h

theorem Got.MemInv.of_val {x : Got} {a0} {t : State} (h : x.MemInv) (e : x = .val a0 t) : t.MemInv := by
  subst e
  exact h

theorem Got.MemInv.of_park {x : Got} {a0} {t : State} (h : x.MemInv) (e : x = .park a0 t) : t.MemInv := by
  subst e
  exact h

theorem Got.MemInv.of_wait {x : Got} {t : State} (h : x.MemInv) (e : x = .wait t) : t.MemInv := by
  subst e
  exact h

theorem Got.MemInv.of_err {x : Got} {a0 a1} {t : State} (h : x.MemInv) (e : x = .err a0 a1 t) : t.MemInv := by
  subst e
  exact h

theorem FetchedUnit.MemInv.of_run {x : FetchedUnit} {a0} {t : State} (h : x.MemInv) (e : x = .run a0 t) : t.MemInv := by
  subst e
  exact h

theorem FetchedUnit.MemInv.of_over {x : FetchedUnit} {t : State} (h : x.MemInv) (e : x = .over t) : t.MemInv := by
  subst e
  exact h

theorem Ingress.MemInv.of_answer {x : Ingress} {a0} {t : State} (h : x.MemInv) (e : x = .answer a0 t) : t.MemInv := by
  subst e
  exact h

theorem Ingress.MemInv.of_hold {x : Ingress} {t : State} (h : x.MemInv) (e : x = .hold t) : t.MemInv := by
  subst e
  exact h

theorem Ingress.MemInv.of_forward {x : Ingress} {a0} {t : State} (h : x.MemInv) (e : x = .forward a0 t) : t.MemInv := by
  subst e
  exact h

theorem Ingress.MemInv.of_notHome {x : Ingress} {t : State} (h : x.MemInv) (e : x = .notHome t) : t.MemInv := by
  subst e
  exact h

theorem Ingress.MemInv.of_silent {x : Ingress} {t : State} (h : x.MemInv) (e : x = .silent t) : t.MemInv := by
  subst e
  exact h

theorem ModAway.MemInv.of_wait {x : ModAway} {t : State} (h : x.MemInv) (e : x = .wait t) : t.MemInv := by
  subst e
  exact h

theorem Fetched.MemInv.of_words {x : Fetched} {a0} {t : State} (h : x.MemInv) (e : x = .words a0 t) : t.MemInv := by
  subst e
  exact h

theorem Fetched.MemInv.of_stop {x : Fetched} {t : Res} (h : x.MemInv) (e : x = .stop t) : t.MemInv := by
  subst e
  exact h

theorem State.MemInv.of_eq2 {α β : Type} {p : α × β × State} {a : α} {b : β} {t : State} (h : p.2.2.MemInv)
    (e : p = (a, b, t)) : t.MemInv := by
  subst e
  exact h

theorem Fetched.MemInv.of_stop_fst {p : Fetched × Nat} {r : Res} {n : Nat} (h : p.1.MemInv) (e : p = (.stop r, n)) :
    r.MemInv := by
  subst e
  exact h

theorem Fetched.MemInv.of_words_fst {p : Fetched × Nat} {ws : List Word} {t : State} {n : Nat} (h : p.1.MemInv)
    (e : p = (.words ws t, n)) : t.MemInv := by
  subst e
  exact h

theorem Got.MemInv.of_eq {α : Type} {p : α × Got} {a : α} {g : Got} (h : p.2.MemInv) (e : p = (a, g)) : g.MemInv := by
  subst e
  exact h

theorem State.MemInv.of_some {s u : State} (h : s.MemInv) (e : some s = some u) : u.MemInv := by
  cases e
  exact h

theorem State.MemInv.of_some_snd {α : Type} {s u : State} {a b : α} (h : s.MemInv) (e : some (a, s) = some (b, u)) :
    u.MemInv := by
  cases e
  exact h

theorem OutMemInv.of_next {o : Host.Outcome State Fault Refusal} {t : State} (h : OutMemInv o) (e : o = .next t) :
    t.MemInv := by
  subst e
  exact h

theorem State.MemInv.ite {c : Prop} [Decidable c] {s t : State} (hs : s.MemInv) (ht : t.MemInv) :
    (if c then s else t).MemInv := by
  split
  · exact hs
  · exact ht

theorem Res.MemInv.ite {c : Prop} [Decidable c] {p q : Res} (hp : p.MemInv) (hq : q.MemInv) :
    (if c then p else q).MemInv := by
  split
  · exact hp
  · exact hq

theorem State.MemInv.ite_fst {c : Prop} [Decidable c] {α : Type} {p q : State × α} (hp : p.1.MemInv) (hq : q.1.MemInv) :
    (if c then p else q).1.MemInv := by
  split
  · exact hp
  · exact hq

theorem State.MemInv.ite_snd {c : Prop} [Decidable c] {α : Type} {p q : α × State} (hp : p.2.MemInv) (hq : q.2.MemInv) :
    (if c then p else q).2.MemInv := by
  split
  · exact hp
  · exact hq

theorem State.MemInv.foldl {α : Type} {f : State → α → State} {s : State} {l : List α} (h : s.MemInv)
    (hf : ∀ s a, s.MemInv → (f s a).MemInv) : (l.foldl f s).MemInv := by
  induction l generalizing s with
  | nil => exact h
  | cons a l ih => exact ih (hf _ _ h)

theorem State.MemInv.foldl_snd {α β : Type} {f : β × State → α → β × State} {p : β × State} {l : List α} (h : p.2.MemInv)
    (hf : ∀ p a, p.2.MemInv → (f p a).2.MemInv) : (l.foldl f p).2.MemInv := by
  induction l generalizing p with
  | nil => exact h
  | cons a l ih => exact ih (hf _ _ h)


/-! #### Stores, drains and frames -/

theorem State.MemInv.setVf {s : State} {v x} (h : s.MemInv) : (s.setVf v x).MemInv := h.fields

theorem State.MemInv.setCore {s : State} {c x} (h : s.MemInv) : (s.setCore c x).MemInv := h.fields

theorem State.MemInv.setFrame {s : State} {f x} (h : s.MemInv) : (s.setFrame f x).MemInv := h.fields

theorem State.MemInv.setCtx {s : State} {c x} (h : s.MemInv) : (s.setCtx c x).MemInv := h.fields

theorem State.MemInv.setGrid {s : State} {g x} (h : s.MemInv) : (s.setGrid g x).MemInv := h.fields

theorem State.MemInv.setTeam {s : State} {t x} (h : s.MemInv) : (s.setTeam t x).MemInv := h.fields

theorem State.MemInv.setGroup {s : State} {g x} (h : s.MemInv) : (s.setGroup g x).MemInv := h.fields

theorem State.MemInv.setReq {s : State} {r x} (h : s.MemInv) : (s.setReq r x).MemInv := h.fields

theorem State.MemInv.modGroup {s : State} {g} {f : Group → Group} (h : s.MemInv) : (s.modGroup g f).MemInv := by
  unfold State.modGroup
  split
  exacts [h.setGroup, h]

theorem State.MemInv.modTeam {s : State} {t} {f : Team → Team} (h : s.MemInv) : (s.modTeam t f).MemInv := by
  unfold State.modTeam
  split
  exacts [h.setTeam, h]

theorem State.MemInv.modGrid {s : State} {g} {f : Grid → Grid} (h : s.MemInv) : (s.modGrid g f).MemInv := by
  unfold State.modGrid
  split
  exacts [h.setGrid, h]

theorem State.MemInv.modCtx {s : State} {c} {f : Ctx → Ctx} (h : s.MemInv) : (s.modCtx c f).MemInv := by
  unfold State.modCtx
  split
  exacts [h.setCtx, h]

theorem State.MemInv.tell {s : State} {m} (h : s.MemInv) : (s.tell m).MemInv := h.fields

theorem State.MemInv.post {s : State} {node m} (h : s.MemInv) : (s.post node m).MemInv := h.fields.ite h.tell

theorem State.MemInv.sendTo {s : State} {node r} (h : s.MemInv) : (s.sendTo node r).MemInv := h.post

theorem State.MemInv.sendOut {s : State} {o} (h : s.MemInv) : (s.sendOut o).MemInv := h.fields.sendTo

theorem State.MemInv.drainFrom {s : State} {l kept} (h : s.MemInv) : (s.drainFrom l kept).MemInv :=
  State.memInv_drainFrom l kept h

theorem State.MemInv.drain {s : State} (h : s.MemInv) : (s.drain).MemInv := h.drainFrom

theorem State.MemInv.performAt {s : State} {x} {f : PStore → Bool} (h : s.MemInv) : (s.performAt x f).MemInv :=
  State.memInv_performAt x f h

theorem State.MemInv.addStore {s : State} {gid team core sp a bs level held va atomic unit fence} (h : s.MemInv) :
    (s.addStore gid team core sp a bs level held va atomic unit fence).MemInv := by
  unfold State.addStore
  repeat' split
  exacts [h, h.modTeam.fields.drain, h.fields.drain, h.fields.drain]

theorem State.MemInv.modWrite {s : State} {a bs} (h : s.MemInv) : (s.modWrite a bs).MemInv := h.addStore

theorem State.MemInv.modWriteNum {s : State} {a n x} (h : s.MemInv) : (s.modWriteNum a n x).MemInv := h.modWrite

theorem State.MemInv.settleBytes {s : State} {sp a n x team} (h : s.MemInv) : (s.settleBytes sp a n x team).MemInv :=
  h.performAt

theorem State.MemInv.settleOwn {s : State} {gid sp a n} (h : s.MemInv) : (s.settleOwn gid sp a n).MemInv :=
  h.performAt.ite h

theorem State.MemInv.fenceHeld {s : State} {gid x atomics} (h : s.MemInv) : (s.fenceHeld gid x atomics).MemInv := by
  unfold State.fenceHeld
  repeat' split
  exacts [h, h, h.fields.modTeam]

theorem State.MemInv.discard {s : State} {vf} (h : s.MemInv) : (s.discard vf).MemInv := h.setVf

theorem State.MemInv.complete {s : State} {a n} (h : s.MemInv) : (s.complete a n).MemInv := h.settleBytes.modWriteNum

/-! #### Translation, faults and charges -/

theorem State.MemInv.tlbFill {s : State} {core t} (h : s.MemInv) : (s.tlbFill core t).MemInv := h.fields

theorem State.MemInv.tlbDrop {s : State} {asid lo hi} (h : s.MemInv) : (s.tlbDrop asid lo hi).MemInv := h.fields

theorem State.MemInv.charge {s : State} {vf cls n} (h : s.MemInv) : (s.charge vf cls n).MemInv := by
  unfold State.charge
  dsimp only
  split
  exacts [h, h.setVf]

theorem State.MemInv.sendFor {s : State} {vf node r} (h : s.MemInv) : (s.sendFor vf node r).MemInv :=
  h.fields.ite h.charge.sendTo

theorem State.MemInv.flushEgress {s : State} (h : s.MemInv) : (s.flushEgress).MemInv :=
  h.fields.foldl (fun _ _ h1 => h1.sendFor)

theorem State.MemInv.translate {s : State} {cid c core va kind} (h : s.MemInv) :
    (s.translate cid c core va kind).2.MemInv := by
  unfold State.translate
  split
  · dsimp only
    split <;> exact h
  · dsimp only
    repeat' split
    exacts [h, h.charge.tlbFill, h.charge]

theorem State.MemInv.walkAt {s : State} {cid c va kind} (h : s.MemInv) : (s.walkAt cid c va kind).2.MemInv := h.charge

theorem State.MemInv.translateAt {s : State} {cid c va kind} (h : s.MemInv) : (s.translateAt cid c va kind).2.MemInv :=
  h.ite_snd h.walkAt

theorem State.MemInv.postRequests {s : State} {l l'} (h : s.MemInv) : (s.postRequests l l').MemInv := by
  induction l generalizing s l' with
  | nil =>
    unfold State.postRequests
    exact h
  | cons a l ih =>
    unfold State.postRequests
    exact (ih h).ite (ih h.modWriteNum.setVf)

theorem State.MemInv.fault {s : State} {w host mal} (h : s.MemInv) : (s.fault w host mal).MemInv := by
  unfold State.fault
  split
  exacts [h, h.ite h.fields.postRequests]

theorem State.MemInv.addHint {s : State} {cid core page node} (h : s.MemInv) : (s.addHint cid core page node).MemInv :=
  h.fields

theorem State.MemInv.dropHint {s : State} {cid page} (h : s.MemInv) : (s.dropHint cid page).MemInv := h.fields

/-! #### Groups, teams and what ends them -/

theorem State.MemInv.modPart {s : State} {core part} {f : Part → Part} (h : s.MemInv) :
    (s.modPart core part f).MemInv :=
  h.setCore

theorem State.MemInv.vacate {s : State} {gid} (h : s.MemInv) : (s.vacate gid).MemInv := by
  unfold State.vacate
  repeat' split
  exacts [h, h, h, h, h.modPart]

theorem State.MemInv.tellRelease {s : State} {cid c gid abandon k} (h : s.MemInv) :
    (s.tellRelease cid c gid abandon k).MemInv := by
  unfold State.tellRelease
  repeat' split
  exacts [h, h, h, h.sendFor]

theorem State.MemInv.withdrawKeys {s : State} {gid} (h : s.MemInv) : (s.withdrawKeys gid).MemInv :=
  h.fields.foldl (fun _ _ h1 => h1.sendFor)

theorem State.MemInv.dropKeys {s : State} {cid gid abandon} (h : s.MemInv) : (s.dropKeys cid gid abandon).MemInv := by
  unfold State.dropKeys
  split
  exacts [(h.foldl (fun _ _ h1 => h1.tellRelease)).modCtx.modGroup, h]

theorem State.MemInv.barCheck {s : State} {tid n} (h : s.MemInv) : (s.barCheck tid n).MemInv := by
  unfold State.barCheck
  repeat' split
  exacts [h, h, h.modTeam.foldl (fun _ _ h1 => h1.modGroup), h.modTeam.foldl (fun _ _ h1 => h1.modGroup), h]

theorem State.MemInv.barCheckAll {s : State} {tid} (h : s.MemInv) : (s.barCheckAll tid).MemInv :=
  h.foldl (fun _ _ h1 => h1.barCheck)

theorem State.MemInv.gridTry {s : State} {grid n} (h : s.MemInv) : (s.gridTry grid n).MemInv := by
  induction n generalizing s grid with
  | zero =>
    unfold State.gridTry
    exact h
  | succ n ih =>
    unfold State.gridTry
    repeat' split
    exacts [h, h, ih h.performAt, h.performAt, ih h.performAt, h.performAt]

theorem State.MemInv.freeScratch {s : State} {tid} (h : s.MemInv) : (s.freeScratch tid).MemInv := by
  unfold State.freeScratch
  repeat' split
  exacts [h, h, h, h.setCore.setTeam]

theorem State.MemInv.teamTry {s : State} {tid} (h : s.MemInv) : (s.teamTry tid).MemInv := by
  unfold State.teamTry
  split
  · exact h
  · exact h.ite (h.freeScratch.modTeam.ite h.freeScratch.modTeam.modGrid.gridTry)

theorem State.MemInv.tellRacers {s : State} {gid retired} (h : s.MemInv) : (s.tellRacers gid retired).MemInv := by
  unfold State.tellRacers
  repeat' split
  exacts [h, h, h, h.foldl (fun _ _ h1 => h1.sendFor)]

theorem State.MemInv.dropDetector {s : State} {cid gid} (h : s.MemInv) : (s.dropDetector cid gid).MemInv :=
  h.tellRacers.modGroup.modCtx

theorem State.MemInv.freeConts {s : State} {gid} (h : s.MemInv) : (s.freeConts gid).MemInv := by
  unfold State.freeConts
  repeat' split
  exacts [h, h, h, h.modCtx]

theorem State.MemInv.withdraw {s : State} {ctx op} (h : s.MemInv) : (s.withdraw ctx op).MemInv :=
  h.fields.foldl (fun _ _ h1 => h1.sendFor)

theorem State.MemInv.withdrawAll {s : State} {g} (h : s.MemInv) : (s.withdrawAll g).MemInv := by
  unfold State.withdrawAll
  refine h.foldl (fun _ _ h1 => ?_)
  repeat' split
  exacts [h1, h1, h1, h1.withdraw]

theorem State.MemInv.stopGroup {s : State} {gid life} (h : s.MemInv) : (s.stopGroup gid life).MemInv := by
  unfold State.stopGroup
  split
  exacts [h, h.withdrawAll.withdrawKeys.freeConts.vacate.fields.drain.modTeam.modGroup]

theorem State.MemInv.setFault {s : State} {rid code detail} (h : s.MemInv) : (s.setFault rid code detail).MemInv :=
  h.ite h.setReq

theorem State.MemInv.endGroup {s : State} {gid life fault} (h : s.MemInv) : (s.endGroup gid life fault).MemInv := by
  unfold State.endGroup
  split
  · exact h
  · split
    · exact h
    · split
      · exact h
      · refine (State.MemInv.dropKeys ?_).stopGroup.dropDetector.barCheckAll.teamTry
        split
        exacts [h.setFault, h]

theorem State.MemInv.killSteps {s : State} {cid} (h : s.MemInv) : (s.killSteps cid).MemInv := h.fields

theorem State.MemInv.tellEnded {s : State} (h : s.MemInv) : (s.tellEnded).MemInv :=
  h.fields.foldl (fun _ _ h1 => h1.tell)

theorem State.MemInv.terminateCtx {s : State} {cid i} (h : s.MemInv) : (s.terminateCtx cid i).MemInv := by
  unfold State.terminateCtx
  split
  · exact h
  · split
    · exact h
    · extract_lets gids sent s0 s1 tids s2 s3 s4 s5 s6 s7 old s8 s9
      have h0 : s0.MemInv := h.killSteps.foldl fun _ _ h1 => h1.dropKeys.tellRacers
      have h1 : s1.MemInv := h0.foldl fun _ _ h1 => h1.stopGroup
      have h2 : s2.MemInv := h1.foldl fun _ _ h1 => h1.freeScratch
      have h3 : s3.MemInv := h2.performAt
      have h5 : s5.MemInv := State.MemInv.setCtx h3.fields
      have h8 : s8.MemInv := h5.modWrite.modWriteNum.modWriteNum
      have h9 : s9.MemInv := h8.foldl fun _ _ h1 => h1.complete
      exact State.MemInv.tellEnded h9.fields

/-! #### The race detector -/

theorem State.MemInv.raceLog {s : State} {vf r} (h : s.MemInv) : (s.raceLog vf r).MemInv := h.ite h.modWriteNum.setVf

theorem State.MemInv.detector {s : State} {r} (h : s.MemInv) : (s.detector r).2.MemInv := by
  unfold State.detector
  repeat' split
  exacts [h, h, h.setCtx, h.setVf]

theorem State.MemInv.markWriter {s : State} {r pa n} (h : s.MemInv) : (s.markWriter r pa n).MemInv := by
  unfold State.markWriter
  refine State.MemInv.modCtx ?_
  repeat' split
  exacts [h, h, h.setCtx, h.setVf]

theorem State.MemInv.watch {s : State} {r write wrote n va pa leaf} (h : s.MemInv) :
    (s.watch r write wrote n va pa leaf).MemInv := by
  unfold State.watch
  repeat' split
  exacts [h, h.raceLog.markWriter, h.raceLog, h.markWriter, h]

theorem State.MemInv.heard {s : State} {cid r retired} (h : s.MemInv) : (s.heard cid r retired).MemInv := h.modCtx

/-! #### Attempts, traps and results -/

theorem State.MemInv.trap {e : Env} {code} {s : State} (h : s.MemInv) : (e.trap code s).MemInv := h

theorem State.MemInv.upd {s : State} {e : Env} {f : Group → Group} (h : s.MemInv) : (s.upd e f).MemInv := h.modGroup

theorem State.MemInv.updRegs {s : State} {e : Env} {f : Regs → Regs} (h : s.MemInv) : (s.updRegs e f).MemInv :=
  h.modGroup

theorem State.MemInv.updSlot {s : State} {e : Env} {f : Slot → Slot} (h : s.MemInv) : (s.updSlot e f).MemInv :=
  h.modGroup

theorem State.MemInv.advance {s : State} {e : Env} (h : s.MemInv) : (s.advance e).MemInv := h.updSlot

theorem State.MemInv.jump {s : State} {e : Env} {target} (h : s.MemInv) : (s.jump e target).MemInv := h.updSlot

theorem State.MemInv.setFlags {s : State} {e : Env} {f} (h : s.MemInv) : (s.setFlags e f).MemInv := h.updRegs

theorem State.MemInv.store {s : State} {e : Env} {va pa bs level atomic} (h : s.MemInv) :
    (s.store e va pa bs level atomic).MemInv :=
  h.ite h.addStore

theorem State.MemInv.storeSp {s : State} {e : Env} {a bs level atomic} (h : s.MemInv) :
    (s.storeSp e a bs level atomic).MemInv :=
  h.ite h.addStore

theorem State.MemInv.xlate {s : State} {e : Env} {va kind} (h : s.MemInv) : (s.xlate e va kind).2.MemInv :=
  h.ite_snd h.translate

theorem State.MemInv.parkRes {s : State} {w host mal} (h : s.MemInv) : (s.parkRes w host mal).MemInv := h.fault

theorem State.MemInv.holdAway {s : State} {e : Env} {node va kind record atomic fence acc} (h : s.MemInv) :
    (s.holdAway e node va kind record atomic fence acc).MemInv :=
  h.fields.modTeam

theorem State.MemInv.carry {e : Env} {s : State} {node va write rx kind} {k : List Byte → State → Res} (h : s.MemInv)
    (hk : ∀ x1 s, s.MemInv → (k x1 s).MemInv) :
    (e.carry s node va write rx kind k).MemInv := by
  unfold Env.carry
  split
  · dsimp only
    repeat' split
    exacts [h.upd, hk _ _ h, h]
  · split
    · dsimp only
      repeat' split
      exacts [h.upd, hk _ _ h, h]
    · split
      · dsimp only
        repeat' split
        exacts [h.upd, hk _ _ h, h.charge.fields.sendTo]
      · dsimp only
        repeat' split
        exacts [h.upd, hk _ _ h, h.charge.fields.sendTo]

theorem State.MemInv.raced {e : Env} {s : State} {rx write va pa n leaf} {k : State → Res} (h : s.MemInv)
    (hk : ∀ s, s.MemInv → (k s).MemInv) :
    (e.raced s rx write va pa n leaf k).MemInv := by
  unfold Env.raced
  repeat' split
  exacts [hk _ h, h, hk _ h.watch]

theorem State.MemInv.loadNum {s : State} {e : Env} {va n} {k : Nat → State → Res} {rx} (h : s.MemInv)
    (hk : ∀ x1 s, s.MemInv → (k x1 s).MemInv) :
    (s.loadNum e va n k rx).MemInv := by
  unfold State.loadNum
  split
  · repeat' split
    exacts [h.xlate.of_eq ‹_›, (h.xlate.of_eq ‹_›).raced (fun _ h1 => hk _ _ h1.charge.settleOwn)]
  · exact h.xlate.of_eq ‹_›
  · exact (h.xlate.of_eq ‹_›).parkRes
  · exact (h.xlate.of_eq ‹_›).carry (fun _ _ h1 => hk _ _ h1)
  · exact h.xlate.of_eq ‹_›

theorem State.MemInv.storeVaAt {s : State} {e : Env} {kind level va bs rx} {k : State → Res} (h : s.MemInv)
    (hk : ∀ s, s.MemInv → (k s).MemInv) :
    (s.storeVaAt e kind level va bs rx k).MemInv := by
  unfold State.storeVaAt
  split
  · repeat' split
    exacts [h.xlate.of_eq ‹_›, (h.xlate.of_eq ‹_›).raced (fun _ h1 => hk _ h1.charge.store)]
  · exact h.xlate.of_eq ‹_›
  · exact (h.xlate.of_eq ‹_›).parkRes
  · split
    · exact hk _ (h.xlate.of_eq ‹_›).holdAway
    · exact (h.xlate.of_eq ‹_›).carry (fun _ _ h1 => hk _ h1)
  · exact h.xlate.of_eq ‹_›

theorem State.MemInv.storeVa {s : State} {e : Env} {va bs} {k : State → Res} (h : s.MemInv)
    (hk : ∀ s, s.MemInv → (k s).MemInv) :
    (s.storeVa e va bs k).MemInv :=
  h.storeVaAt hk

theorem State.MemInv.loggedEntry {s : State} {e : Env} {size x} (h : s.MemInv) : (s.loggedEntry e size x).MemInv := by
  unfold State.loggedEntry
  repeat' split
  exacts [h, h.setVf.setGroup, h.setGroup, h]

theorem State.MemInv.logged {s : State} {e : Env} {size vals} (h : s.MemInv) : (s.logged e size vals).MemInv :=
  h.loggedEntry

theorem State.MemInv.fromLog {s : State} {e : Env} (h : s.MemInv) : (s.fromLog e).2.MemInv := by
  unfold State.fromLog
  repeat' split
  exacts [h, h.setGroup, h]

theorem State.MemInv.record {s : State} {e : Env} {addr space sz data} (h : s.MemInv) :
    (s.record e addr space sz data).MemInv := by
  unfold State.record
  repeat' split
  exacts [h.upd, h.upd.upd, h.upd.modGroup, h.upd.fromLog, h.upd.logged]

theorem State.MemInv.outside {s : State} {e : Env} {size v} (h : s.MemInv) : (s.outside e size v).2.MemInv := by
  unfold State.outside
  repeat' split
  exacts [h.fromLog.of_eq ‹_›, h.logged]

theorem State.MemInv.skipAudit {s : State} {e : Env} (h : s.MemInv) : (s.skipAudit e).MemInv := by
  unfold State.skipAudit
  repeat' split
  exacts [h, h.setVf.setGroup, h]

theorem State.MemInv.unhandled {s : State} {e : Env} {cause code info flanes} (h : s.MemInv) :
    (s.unhandled e cause code info flanes).MemInv :=
  h.stopGroup.ite (h.endGroup.ite h.terminateCtx)

theorem State.MemInv.enterHandler {s : State} {e : Env} {i a} (h : s.MemInv) : (s.enterHandler e i a).MemInv :=
  (h.ite h.modCtx).upd.updSlot

theorem State.MemInv.keepErrs {s : State} {e : Env} (h : s.MemInv) : (s.keepErrs e).MemInv := h.upd

theorem State.MemInv.takeTrap {s : State} {e : Env} {code info flanes} (h : s.MemInv) :
    (s.takeTrap e code info flanes).MemInv := by
  unfold State.takeTrap
  split
  · exact h.unhandled
  · split
    · exact h.unhandled
    · split
      · split
        exact h.unhandled.ite (h.fromLog.of_eq ‹_›).enterHandler
      · split
        · exact h.unhandled.ite h.unhandled
        · split
          · dsimp only
            split
            · exact h.unhandled
            · split
              · exact (h.xlate.of_eq ‹_›).keepErrs.updSlot
              · exact (h.xlate.of_eq ‹_›).fault.keepErrs.updSlot
              · exact (h.xlate.of_eq ‹_›).keepErrs.updSlot
              · exact (h.xlate.of_eq ‹_›).fault.keepErrs.updSlot
              · exact (h.xlate.of_eq ‹_›).unhandled
          · dsimp only
            split
            · exact h.unhandled
            · split
              · exact (h.xlate.of_eq ‹_›).charge.store.loggedEntry.enterHandler
              · exact (h.xlate.of_eq ‹_›).fault.keepErrs.updSlot
              · exact (h.xlate.of_eq ‹_›).keepErrs.updSlot
              · exact (h.xlate.of_eq ‹_›).fault.keepErrs.updSlot
              · exact (h.xlate.of_eq ‹_›).unhandled

theorem State.MemInv.returnTrap {s : State} {e : Env} {skip} (h : s.MemInv) : (s.returnTrap e skip).MemInv := by
  unfold State.returnTrap
  split
  · exact h.trap
  · split
    · exact h.trap
    · split
      · split
        · split
          · dsimp only
            repeat' split
            exacts [(h.fromLog.of_eq ‹_›).trap, (h.fromLog.of_eq ‹_›).upd.jump]
        · refine h.loadNum (fun _ _ h1 => ?_)
          dsimp only
          split
          exacts [h1.logged.trap, h1.logged.modCtx.upd.jump]
      · split
        · split
          · dsimp only
            repeat' split
            exacts [(h.fromLog.of_eq ‹_›).trap, (h.fromLog.of_eq ‹_›).upd.jump]
        · refine h.loadNum (fun _ _ h1 => ?_)
          dsimp only
          split
          exacts [h1.logged.trap, h1.logged.modCtx.upd.jump]

theorem State.MemInv.undo {s sw : State} (h : sw.MemInv) : (s.undo sw).MemInv := h.fields

theorem State.MemInv.orUndo {s : State} {x : Res} (h : s.MemInv) (hx : x.MemInv) : (x.orUndo s).MemInv := by
  unfold Res.orUndo
  repeat' split
  exacts [State.MemInv.undo hx, h, hx]

theorem Res.MemInv.settle {e : Env} {x : Res} (h : x.MemInv) : (x.settle e).MemInv := by
  unfold Res.settle
  repeat' split
  exacts [h, h.takeTrap, h.updSlot]

theorem State.MemInv.issue {s : State} {k : Env → State → Res} (h : s.MemInv)
    (hk : ∀ x1 s, s.MemInv → (k x1 s).MemInv) :
    OutMemInv (s.issue k) := by
  unfold State.issue
  split
  exacts [trivial, (hk _ _ h).settle]

theorem memInv_passOn {e : Env} {s : State} (h : s.MemInv) : (passOn e s).MemInv := h.advance

theorem State.MemInv.takeFree {s : State} (h : s.MemInv) : (s.takeFree).2.MemInv := h.fields

/-! #### The population block -/

theorem State.MemInv.blockNum {s : State} {vf pa n} (h : s.MemInv) : (s.blockNum vf pa n).2.MemInv :=
  h.charge.charge.settleBytes

theorem State.MemInv.blockWrite {s : State} {vf pa n x} (h : s.MemInv) : (s.blockWrite vf pa n x).MemInv :=
  h.charge.modWriteNum

theorem State.MemInv.popFault {s : State} {rid} (h : s.MemInv) : (s.popFault rid).MemInv := h.setFault

theorem State.MemInv.popAt {s : State} {rid i} (h : s.MemInv) : (s.popAt rid i).2.MemInv := by
  unfold State.popAt
  dsimp only
  split
  · exact h
  · split
    · exact h.blockNum
    · split
      · exact h.blockNum
      · dsimp only
        exact h.blockNum.blockNum

theorem State.MemInv.popAdd {s : State} {rid i x} (h : s.MemInv) : (s.popAdd rid i x).2.MemInv := by
  unfold State.popAdd
  repeat' split
  exacts [(h.popAt.of_eq ‹_›).blockWrite, h.popAt.of_eq ‹_›, h.popAt.of_eq ‹_›]

/-! #### Pages, frames and page requests -/

theorem State.MemInv.forgetFrame {s : State} {f} (h : s.MemInv) : (s.forgetFrame f).MemInv := h.fields

theorem State.MemInv.freeFrame {s : State} {vf f} (h : s.MemInv) : (s.freeFrame vf f).MemInv :=
  h.setFrame.setVf.forgetFrame

theorem State.MemInv.releaseEntry {s : State} {vf e} (h : s.MemInv) : (s.releaseEntry vf e).MemInv :=
  h.freeFrame.ite (h.tell.ite (h.freeFrame.ite h.setFrame))

theorem State.MemInv.takeFrame {s : State} {vf} {out u} (h : s.MemInv) (he : s.takeFrame vf = some (out, u)) :
    u.MemInv := by
  unfold State.takeFrame at he
  dsimp only at he
  repeat' split at he
  all_goals cases he
  all_goals exact h

theorem State.MemInv.zeroFrame {s : State} {f} (h : s.MemInv) : (s.zeroFrame f).MemInv := State.memInv_zeroFrame f h

theorem State.MemInv.copyFrame {s : State} {src dst} (h : s.MemInv) : (s.copyFrame src dst).MemInv :=
  State.memInv_copyFrame src dst h

theorem State.MemInv.allocate {s : State} {vf} (h : s.MemInv) : (s.allocate vf).2.MemInv := by
  unfold State.allocate
  split
  · exact h.ite_snd (h.takeFrame ‹_›).setVf.setFrame.zeroFrame
  · exact h.ite_snd ((h.foldl (fun _ _ h1 => h1.tell)).ite_snd h)

theorem State.MemInv.allocateRun {s : State} {vf n} {out u} (h : s.MemInv) (he : s.allocateRun vf n = some (out, u)) :
    u.MemInv := by
  unfold State.allocateRun at he
  split at he
  · split at he
    · cases he
      exact h.allocate.of_eq ‹_›
    · cases he
  · extract_lets v at he
    split at he
    · cases he
    · obtain ⟨x, -, hx⟩ := Option.map_eq_some_iff.1 he
      cases hx
      exact State.MemInv.foldl (State.MemInv.setVf h.fields) fun _ _ h1 => h1.setFrame.zeroFrame

theorem State.MemInv.takePool {s : State} {vf} {out u} (h : s.MemInv) (he : s.takePool vf = some (out, u)) :
    u.MemInv := by
  unfold State.takePool at he
  dsimp only at he
  repeat' split at he
  all_goals cases he
  all_goals exact h

theorem State.MemInv.allocatePool {s : State} {vf cid page} (h : s.MemInv) : (s.allocatePool vf cid page).2.MemInv := by
  unfold State.allocatePool
  repeat' split
  exacts [h.ite_snd (h.takePool ‹_›).fields, h.ite_snd ((h.foldl (fun _ _ h1 => h1.tell)).ite_snd h)]

theorem State.MemInv.freePool {s : State} {vf f} (h : s.MemInv) : (s.freePool vf f).MemInv := h.fields.ite h

theorem State.MemInv.leavePool {s : State} {vf cid page} (h : s.MemInv) : (s.leavePool vf cid page).MemInv := by
  unfold State.leavePool
  split
  exacts [h.freePool, h]

theorem State.MemInv.releaseLeaf {s : State} {vf e level} (h : s.MemInv) : (s.releaseLeaf vf e level).MemInv :=
  h.foldl (fun _ _ h1 => h1.releaseEntry)

theorem State.MemInv.kvCount {s : State} {rid d} (h : s.MemInv) : (s.kvCount rid d).MemInv := h.setReq

theorem State.MemInv.releaseKv {s : State} {rid cid va} (h : s.MemInv) : (s.releaseKv rid cid va).MemInv := by
  unfold State.releaseKv
  split
  · exact h
  · dsimp only
    repeat' split
    exacts [h.charge.tlbDrop.modWriteNum.releaseEntry.kvCount, h.charge.tell, h.charge]

theorem State.MemInv.kvMap {s : State} {rid c} (h : s.MemInv) : (s.kvMap rid c).MemInv := h.setReq.charge

theorem State.MemInv.releaseKvFrom {s : State} {rid cid first} (h : s.MemInv) :
    (s.releaseKvFrom rid cid first).MemInv := by
  unfold State.releaseKvFrom
  dsimp only
  split
  · exact h.foldl (fun _ _ h1 => h1.foldl (fun _ _ h2 => h2.releaseKv))
  · exact (h.foldl (fun _ _ h1 => h1.foldl (fun _ _ h2 => h2.releaseKv))).kvMap

theorem State.MemInv.kvRecount {s : State} {cid page} (h : s.MemInv) : (s.kvRecount cid page).MemInv := by
  unfold State.kvRecount
  split
  exacts [h.kvMap, h]

/-! #### Divergence and control flow -/

theorem State.MemInv.readEntry {s : State} {e : Env} {i} {k : Nat → State → Res} (h : s.MemInv)
    (hk : ∀ x1 s, s.MemInv → (k x1 s).MemInv) :
    (s.readEntry e i k).MemInv := by
  unfold State.readEntry
  repeat' split
  exacts [h, hk _ _ h, h.loadNum (fun _ _ h1 => hk _ _ h1)]

theorem State.MemInv.writeEntry {s : State} {e : Env} {i x} {k : State → Res} (h : s.MemInv)
    (hk : ∀ s, s.MemInv → (k s).MemInv) :
    (s.writeEntry e i x k).MemInv := by
  unfold State.writeEntry
  repeat' split
  exacts [h, hk _ h.setGroup, h.storeVa hk]

theorem State.MemInv.popInto {s : State} {e : Env} {g i} {k : State → Res} (h : s.MemInv)
    (hk : ∀ s, s.MemInv → (k s).MemInv) :
    (s.popInto e g i k).MemInv := by
  unfold State.popInto
  refine h.readEntry (fun _ _ h1 => ?_)
  split
  exacts [h1.trap, hk _ h1.upd]

theorem State.MemInv.joinRules {s : State} {e : Env} {n} (h : s.MemInv) : (s.joinRules e n).MemInv := by
  induction n generalizing s e with
  | zero =>
    unfold State.joinRules
    exact h
  | succ n ih =>
    unfold State.joinRules
    split
    · exact h
    · split
      · split
        · dsimp only
          repeat' split
          exacts [h.setGroup, h, h.upd, h]
        · dsimp only
          repeat' split
          exacts [h.setGroup.popInto (fun _ h1 => ih h1), h, h.popInto (fun _ h1 => ih h1), h]
      · split
        · dsimp only
          repeat' split
          exacts [h.upd, h, h.upd, h]
        · dsimp only
          split
          · refine h.readEntry (fun _ _ h1 => ?_)
            repeat' split
            exacts [h1.upd, h1.trap, h1.writeEntry (fun _ h1 => ih h1.upd)]
          · repeat' split
            exacts [h, h.popInto (fun _ h1 => ih h1), h]

theorem State.MemInv.freeSlot {s : State} {e : Env} (h : s.MemInv) : (s.freeSlot e).MemInv := by
  unfold State.freeSlot
  repeat' split
  exacts [h, h.setGroup.popInto (fun _ h1 => h1.joinRules), h.setGroup.joinRules, h.setGroup.setGroup]

theorem State.MemInv.putS {s : State} {e : Env} {d x} (h : s.MemInv) : (s.putS e d x).MemInv := by
  unfold State.putS
  repeat' split
  exacts [h.advance.updRegs, h.advance, h.orUndo h.advance.upd.updSlot.freeSlot, h.advance.upd.updSlot]

/-! #### Audited pairs -/

theorem State.MemInv.setScore {s : State} {core n} (h : s.MemInv) : (s.setScore core n).MemInv :=
  h.setCore.tell.ite h.setCore

theorem State.MemInv.addPoints {s : State} {core n} (h : s.MemInv) : (s.addPoints core n).MemInv := h.setScore

theorem State.MemInv.dropAway {s : State} {gid keep} (h : s.MemInv) : (s.dropAway gid keep).MemInv := by
  unfold State.dropAway
  split
  exacts [h, h.modTeam]

theorem State.MemInv.performAway {s : State} {cid vf slot o} (h : s.MemInv) : (s.performAway cid vf slot o).MemInv := by
  unfold State.performAway
  repeat' split
  exacts [h.setReq, h.popAdd, h.charge.fields.sendTo]

theorem State.MemInv.keepFences {s : State} {gid} (h : s.MemInv) : (s.keepFences gid).MemInv :=
  h.foldl (fun _ _ h1 => h1.performAt)

theorem State.MemInv.releaseOps {s : State} {cid vf slot gid ops} (h : s.MemInv) :
    (s.releaseOps cid vf slot gid ops).1.MemInv := by
  induction ops generalizing s with
  | nil =>
    unfold State.releaseOps
    dsimp only
    exact h.keepFences
  | cons o rest ih =>
    unfold State.releaseOps
    extract_lets s1
    have h1 : s1.MemInv := h.keepFences
    clear_value s1
    split
    · exact h1
    · split
      · exact ih (State.MemInv.drain h1.fields)
      · split
        · exact h1
        · exact ih h1.modTeam.performAway

theorem State.MemInv.releaseHeld {s : State} {e : Env} {leader trailer} (h : s.MemInv) :
    (s.releaseHeld e leader trailer).1.MemInv := by
  unfold State.releaseHeld
  repeat' split
  exacts [h.releaseOps.of_eq_fst ‹_›, (h.releaseOps.of_eq_fst ‹_›).fields.drain.dropAway]

theorem State.MemInv.mismatch {s : State} {e : Env} {twin leads} (h : s.MemInv) : (s.mismatch e twin leads).MemInv :=
  (h.fields.dropAway.dropAway.addPoints.addPoints.setFault.foldl (fun _ _ h1 => h1.endGroup)).ite
    h.fields.dropAway.dropAway.addPoints.addPoints.terminateCtx

theorem State.MemInv.compare {e : Env} {s : State} {k : State → Res} (h : s.MemInv)
    (hk : ∀ s, s.MemInv → (k s).MemInv) :
    (e.compare s k).MemInv := by
  unfold Env.compare
  split
  · exact hk _ h
  · split
    · exact hk _ h
    · split
      · exact h
      · split
        · dsimp only
          split
          exacts [h, h.mismatch]
        · split
          · split
            · dsimp only
              repeat' split
              exacts [h, (h.releaseHeld.ite_fst h.releaseHeld).of_eq_fst ‹_›]
            · dsimp only
              repeat' split
              exacts [h, (h.releaseHeld.ite_fst h.releaseHeld).of_eq_fst ‹_›]
          · dsimp only
            repeat' split
            exacts [h, hk _ ((h.releaseHeld.ite_fst h.releaseHeld).of_eq_fst ‹_›).modGroup.updSlot]

theorem State.MemInv.skipList {e : Env} {s : State} {mirror : Env → State → State} {run : Env → State → Res}
    (h : s.MemInv) (hmirror : ∀ x1 s, s.MemInv → (mirror x1 s).MemInv) (hrun : ∀ x1 s, s.MemInv → (run x1 s).MemInv) :
    (e.skipList s mirror run).MemInv := by
  unfold Env.skipList
  refine h.compare (fun _ h1 => ?_)
  split
  · repeat' split
    exacts [((hrun _ _ h1).of_ok ‹_›).skipAudit, hrun _ _ h1]
  · exact h1
  · split
    · exact (hrun _ _ h1).of_wait ‹_›
    · repeat' split
      exacts [hmirror _ _ ((hrun _ _ h1).of_ok ‹_›), (hrun _ _ h1).of_ok ‹_›]
    · repeat' split
      exacts [((hrun _ _ h1).of_trap ‹_›).takeTrap, (hrun _ _ h1).of_trap ‹_›]

theorem memInv_mirrorS {d leader} {t : Env} {s : State} (h : s.MemInv) : (mirrorS d leader t s).MemInv := by
  unfold mirrorS
  repeat' split
  exacts [h, h.putS.settle, h.putS.settle]

theorem memInv_mirrorNone {t : Env} {s : State} (h : s.MemInv) : (mirrorNone t s).MemInv := h.advance

/-! #### Branches, EXIT and barriers of a group -/

theorem outMemInv_execNop {s : State} (h : s.MemInv) : OutMemInv (execNop s) := h.issue (fun _ _ h1 => memInv_passOn h1)

theorem State.MemInv.branch {e : Env} {s : State} {target} (h : s.MemInv) : (e.branch s target).MemInv := by
  unfold Env.branch
  split
  exacts [h.jump, h.trap]

theorem outMemInv_execBr {off} {s : State} (h : s.MemInv) : OutMemInv (execBr off s) :=
  h.issue (fun _ _ h1 => h1.branch)

theorem outMemInv_execBrc {sr cc off} {s : State} (h : s.MemInv) : OutMemInv (execBrc sr cc off s) := by
  unfold execBrc
  refine h.issue (fun _ _ h1 => ?_)
  split
  exacts [h1.branch, memInv_passOn h1]

theorem outMemInv_execCall {off} {s : State} (h : s.MemInv) : OutMemInv (execCall off s) := by
  unfold execCall
  refine h.issue (fun _ _ h1 => ?_)
  dsimp only
  split
  exacts [h1.updRegs.jump, h1.trap]

theorem State.MemInv.branchTo {e : Env} {s : State} {target} (h : s.MemInv) : (e.branchTo s target).MemInv := by
  unfold Env.branchTo
  split
  exacts [h, h.branch]

theorem outMemInv_execRet {s : State} (h : s.MemInv) : OutMemInv (execRet s) := h.issue (fun _ _ h1 => h1.branchTo)

theorem outMemInv_execBrx {a} {s : State} (h : s.MemInv) : OutMemInv (execBrx a s) :=
  h.issue (fun _ _ h1 => h1.branchTo)

theorem State.MemInv.engTrap {e : Env} {s : State} {r} (h : s.MemInv) : (e.engTrap s r).MemInv := h.upd

theorem State.MemInv.matTrap {e : Env} {s : State} {r} (h : s.MemInv) : (e.matTrap s r).MemInv := h.upd

theorem State.MemInv.drainUnits {e : Env} {s : State} {k : State → Res} (h : s.MemInv)
    (hk : ∀ s, s.MemInv → (k s).MemInv) :
    (e.drainUnits s k).MemInv := by
  unfold Env.drainUnits
  repeat' split
  exacts [hk _ h, h, h, h.engTrap, h.matTrap, hk _ h]

theorem outMemInv_execExit {s : State} (h : s.MemInv) : OutMemInv (execExit s) := by
  unfold execExit
  refine h.issue (fun _ _ h1 => ?_)
  split
  exacts [h1.orUndo h1.freeSlot, h1.drainUnits (fun _ h1 => h1.compare (fun _ h2 => h2.orUndo h2.freeSlot))]

theorem outMemInv_execJoin {s : State} (h : s.MemInv) : OutMemInv (execJoin s) :=
  h.issue (fun _ _ h1 => h1.orUndo h1.updSlot.joinRules)

theorem outMemInv_execTrap {n} {s : State} (h : s.MemInv) : OutMemInv (execTrap n s) := h.issue (fun _ _ h1 => h1)

theorem outMemInv_execBkpt {n} {s : State} (h : s.MemInv) : OutMemInv (execBkpt n s) := h.issue (fun _ _ h1 => h1)

theorem outMemInv_execEret {s : State} (h : s.MemInv) : OutMemInv (execEret s) := h.issue (fun _ _ h1 => h1.returnTrap)

theorem outMemInv_execEretSkip {s : State} (h : s.MemInv) : OutMemInv (execEretSkip s) :=
  h.issue (fun _ _ h1 => h1.returnTrap)

theorem outMemInv_execMpx {p} {s : State} (h : s.MemInv) : OutMemInv (execMpx p s) := by
  unfold execMpx
  repeat' split
  exacts [trivial, h, h.trap.settle, h.trap.settle]

/-! #### Operands and destinations -/

theorem State.MemInv.usingOperands {e : Env} {s : State} {u} {k : Flags → Res} (h : s.MemInv)
    (hk : ∀ x1, (k x1).MemInv) :
    (e.using s u k).MemInv := by
  unfold Env.using
  repeat' split
  exacts [h.trap, h, hk _]

theorem State.MemInv.flagged {e : Env} {s : State} {fl lanes} {k : State → Res} (h : s.MemInv)
    (hk : ∀ s, s.MemInv → (k s).MemInv) :
    (e.flagged s fl lanes k).MemInv := by
  unfold Env.flagged
  repeat' split
  exacts [h.setFlags, h.setFlags, hk _ h.setFlags]

theorem State.MemInv.putVec {s : State} {e : Env} {d m rs} (h : s.MemInv) : (s.putVec e d m rs).MemInv :=
  h.advance.updRegs.updSlot

theorem State.MemInv.envDeliver {e : Env} {s : State} {dst marks m o} (h : s.MemInv) :
    (e.deliver s dst marks m o).MemInv := by
  unfold Env.deliver
  repeat' split
  exacts [h.updRegs.putVec, h.orUndo h.updRegs.putS, h.updRegs.advance.updRegs, h.updRegs.advance]

theorem State.MemInv.finish {e : Env} {s : State} {x u fl lanes o} (h : s.MemInv) :
    (e.finish s x u fl lanes o).MemInv :=
  h.flagged (fun _ h1 => h1.envDeliver)

theorem State.MemInv.elementwise {e : Env} {s : State} {x n wide k t} {f : Nat → Nat → Nat → Nat → Lane}
    (h : s.MemInv) :
    (e.elementwise s x n wide k t f).MemInv := by
  unfold Env.elementwise
  refine h.usingOperands (fun _ => ?_)
  repeat' split
  all_goals exact h.finish

/-! #### Memory instructions, lane by lane -/

theorem State.MemInv.xlGreg {s : State} {e : Env} {r kind a} (h : s.MemInv) : (s.xlGreg e r kind a).2.MemInv :=
  h.ite_snd (h.ite_snd h.xlate)

theorem State.MemInv.xlFab {s : State} {e : Env} {kind a} (h : s.MemInv) : (s.xlFab e kind a).2.MemInv := by
  unfold State.xlFab
  repeat' split
  exacts [h, h, h.xlate, h]

theorem State.MemInv.xlLanes {s : State} {f : State → Acc → Xl × State} {l} (h : s.MemInv)
    (hf : ∀ s x1, s.MemInv → (f s x1).2.MemInv) :
    (s.xlLanes f l).2.MemInv := by
  induction l generalizing s f with
  | nil =>
    unfold State.xlLanes
    exact h
  | cons a l ih =>
    unfold State.xlLanes
    exact ih (hf _ _ h) (fun _ _ h1 => hf _ _ h1)

theorem State.MemInv.release {s : State} {gid x} (h : s.MemInv) : (s.release gid x).MemInv := h.modGroup.tellRacers

theorem Res.MemInv.andThen {f : State → State} {x : Res} (h : ∀ s, s.MemInv → (f s).MemInv) (hx : x.MemInv) :
    (x.andThen f).MemInv := by
  unfold Res.andThen
  split
  exacts [h _ hx, hx]

theorem State.MemInv.ordered {e : Env} {s : State} {p} {k : State → Res} (h : s.MemInv)
    (hk : ∀ s, s.MemInv → (k s).MemInv) :
    (e.ordered s p k).MemInv := by
  unfold Env.ordered
  repeat' split
  exacts [Res.MemInv.andThen (fun _ h1 => h1.release) (hk _ h.fenceHeld), h, hk _ h]

theorem State.MemInv.addLoad {s : State} {e : Env} {d l dev miss} (h : s.MemInv) :
    (s.addLoad e d l dev miss).MemInv := by
  unfold State.addLoad
  repeat' split
  exacts [h, h, h.fields.upd]

theorem State.MemInv.performLanes {s : State} {e : Env} {op : MemOp} {l l'} (h : s.MemInv) (hop : op.MemInv) :
    (s.performLanes e op l l').2.MemInv := by
  induction l generalizing s e op l' with
  | nil =>
    unfold State.performLanes
    exact h
  | cons a l ih =>
    unfold State.performLanes
    exact ih (hop.here (h.ite h.watch)) hop

theorem State.MemInv.answeredLanes {s : State} {e : Env} {op : MemOp} {l l'} (h : s.MemInv) (hop : op.MemInv) :
    (s.answeredLanes e op l l').2.MemInv := by
  induction l generalizing s e op l' with
  | nil =>
    unfold State.answeredLanes
    exact h
  | cons a l ih =>
    unfold State.answeredLanes
    split
    exacts [ih (hop.there h.holdAway) hop, ih (hop.there h) hop]

theorem State.MemInv.send {s : State} {e : Env} {op : MemOp} {ask : Acc → FabKind} {l} (h : s.MemInv)
    (hop : op.MemInv) :
    (s.send e op ask l).MemInv := by
  induction l generalizing s e op ask with
  | nil =>
    unfold State.send
    exact h
  | cons a l ih =>
    unfold State.send
    exact ih (h.addHint.ite h).fields.sendTo hop

theorem State.MemInv.noteFmt {s : State} {e : Env} {l fmt} (h : s.MemInv) : (s.noteFmt e l fmt).MemInv := h.updSlot

theorem State.MemInv.sendLanes {e : Env} {s : State} {op : MemOp} {ask : Acc → FabKind} {l left d stalled probing}
    (h : s.MemInv) (hop : op.MemInv) :
    (e.sendLanes s op ask l left d stalled probing).MemInv :=
  (h.charge.send hop).updSlot

theorem State.MemInv.perform {e : Env} {s : State} {op : MemOp} {d accs x} {finish : State → Res} (h : s.MemInv)
    (hop : op.MemInv) (hfinish : ∀ s, s.MemInv → (finish s).MemInv) :
    (e.perform s op d accs x finish).MemInv := by
  unfold Env.perform
  dsimp only
  split
  · exact hfinish _ (((h.charge.performLanes hop).foldl (fun _ _ h1 => h1.holdAway)).ite (h.charge.performLanes
      hop).addLoad)
  · exact (((h.charge.performLanes hop).foldl (fun _ _ h1 => h1.holdAway)).ite (h.charge.performLanes
      hop).addLoad).sendLanes hop

theorem State.MemInv.attempt {e : Env} {s : State} {op : MemOp} {d accs} {finish : State → Res} (h : s.MemInv)
    (hop : op.MemInv) (hfinish : ∀ s, s.MemInv → (finish s).MemInv) :
    (e.attempt s op d accs finish).MemInv := by
  unfold Env.attempt
  split
  · exact hfinish _ h
  · extract_lets bad trap
    split
    rename_i rs s1 hxl
    have h1 : s1.MemInv := (h.xlLanes fun _ _ h1 => hop.xl h1).of_eq hxl
    extract_lets x s2 check racing
    have h2 : s2.MemInv := h1.foldl fun _ _ h2 => h2.fault
    clear_value bad
    have htrap (code : TrapCode) (l : List Acc) (t : State) (k : Res) (ht : t.MemInv) (hk : k.MemInv) :
        (trap code l t k).MemInv := by
      unfold trap
      split
      · exact ht
      · exact hk
    clear_value trap s2
    cases bad with
    | cons a l => exact h
    | nil =>
      refine Res.MemInv.ite ((h1.foldl fun _ _ h2 => h2.fault).sendLanes hop) (htrap _ _ _ _ h1 ?_)
      split
      · exact h2.upd
      · refine Res.MemInv.ite h2 (htrap _ _ _ _ h2 (htrap _ _ _ _ h2 ?_))
        exact htrap _ _ _ _ h2 (Res.MemInv.ite h2 (Res.MemInv.ite h2 (h2.perform hop hfinish)))

theorem State.MemInv.repTrapped {e : Env} {s : State} {t} (h : s.MemInv) : (e.repTrapped s t).MemInv := h.upd

theorem State.MemInv.tested {s : State} {e : Env} {op : MemOp} (h : s.MemInv) :
    (s.tested e op).MemInv :=
  (h.updSlot.foldl (fun _ _ h1 => h1.noteFmt.ite h1)).ite h.updSlot

theorem State.MemInv.memory {e : Env} {s : State} {op : MemOp} {d} {mk : LaneMask → List Acc} {m}
    {finish : State → Res} (h : s.MemInv) (hop : op.MemInv) (hfinish : ∀ s, s.MemInv → (finish s).MemInv) :
    (e.memory s op d mk m finish).MemInv := by
  unfold Env.memory
  split
  · split
    · exact h
    · split
      · exact h.tested.attempt hop hfinish
      · dsimp only
        split
        · exact (h.updSlot.answeredLanes hop).addLoad.updSlot.repTrapped
        · exact (h.updSlot.answeredLanes hop).addLoad.updSlot.attempt hop hfinish
  · exact h.attempt hop hfinish

theorem State.MemInv.memDone {s : State} {e : Env} {x u} (h : s.MemInv) : (s.memDone e x u).MemInv := by
  unfold State.memDone
  split
  exacts [h.updRegs.advance.updSlot, h.updRegs.advance]

theorem State.MemInv.logLoad {s : State} {e : Env} {m d n} (h : s.MemInv) : (s.logLoad e m d n).MemInv := by
  unfold State.logLoad
  repeat' split
  exacts [h, h, h.logged]

theorem State.MemInv.replayLoad {s : State} {e : Env} {x u d n} (h : s.MemInv) : (s.replayLoad e x u d n).MemInv := by
  unfold State.replayLoad
  dsimp only
  exact (h.ite_snd h.fromLog).updRegs.updRegs.advance.updSlot

theorem State.MemInv.memUsing {e : Env} {s : State} {u} {k : State → Res} (h : s.MemInv)
    (hk : ∀ s, s.MemInv → (k s).MemInv) :
    (e.memUsing s u k).MemInv := by
  unfold Env.memUsing
  repeat' split
  exacts [h, hk _ h, h.usingOperands (fun _ => h.flagged (fun _ h2 => hk _ h2))]

theorem State.MemInv.holdRoom {e : Env} {s : State} {n} {k : State → Res} (h : s.MemInv)
    (hk : ∀ s, s.MemInv → (k s).MemInv) :
    (e.holdRoom s n k).MemInv := by
  unfold Env.holdRoom
  split
  exacts [h.compare hk, hk _ h]

theorem State.MemInv.recordLanes {s : State} {e : Env} {m} {addr : Nat → BitVec 64} {space sz}
    {data : Nat → List Byte} (h : s.MemInv) :
    (s.recordLanes e m addr space sz data).MemInv :=
  h.ite h.record

/-! #### Loads -/

theorem State.MemInv.spCheck {e : Env} {s : State} {accs size} {k : Res} (h : s.MemInv) (hk : k.MemInv) :
    (e.spCheck s accs size k).MemInv := by
  unfold Env.spCheck
  repeat' split
  exacts [hk, h, h, hk]

theorem State.MemInv.spWords {e : Env} {s : State} {a n} (h : s.MemInv) : (e.spWords s a n).2.MemInv := h.settleOwn

theorem State.MemInv.fillLane {s : State} {e : Env} {d l vals} (h : s.MemInv) : (s.fillLane e d l vals).MemInv :=
  h.updRegs

theorem State.MemInv.loadFull {s : State} {e : Env} {n clear d l l'} (h : s.MemInv) :
    (s.loadFull e n clear d l l').2.MemInv := by
  induction l generalizing s e n clear d l' with
  | nil =>
    unfold State.loadFull
    exact h
  | cons a l ih =>
    unfold State.loadFull
    exact (ih (h.settleOwn.fillLane.modTeam.ite h.settleOwn.fillLane)).ite_snd (ih h)

theorem outMemInv_execLds {x} {s : State} (h : s.MemInv) : OutMemInv (execLds x s) := by
  unfold execLds
  refine h.issue (fun _ _ h1 => h1.memUsing (fun _ h2 => h2.spCheck ?_))
  split
  · exact h2.replayLoad
  · split
    · exact (h2.foldl (fun _ _ h1 => h1.settleOwn)).updRegs.logLoad.memDone
    · repeat' split
      exacts [(h2.loadFull.of_eq ‹_›).logLoad.memDone, (h2.loadFull.of_eq ‹_›).updSlot]

theorem State.MemInv.loadedAt {e : Env} {s : State} {typed n pa leaf} (h : s.MemInv) :
    (e.loadedAt s typed n pa leaf).2.MemInv :=
  (h.settleOwn.ite h.settleOwn).ite_snd h.settleOwn

theorem State.MemInv.loadOp {e : Env} {x n p} {k : State → Acc → Xl × State}
    (h : ∀ s x1, s.MemInv → (k s x1).2.MemInv) :
    (e.loadOp x n p k).MemInv :=
  ⟨fun h1 => h _ _ h1, fun h1 => h1.loadedAt, fun h1 => h1⟩

theorem State.MemInv.gregReady {e : Env} {s : State} {a} {k : Res} (h : s.MemInv) (hk : k.MemInv) :
    (e.gregReady s a k).MemInv := by
  unfold Env.gregReady
  repeat' split
  exacts [hk, h.trap, hk]

theorem State.MemInv.load {e : Env} {s : State} {x u} {op : MemOp} {base n} (h : s.MemInv) (hop : op.MemInv) :
    (e.load s x u op base n).MemInv := by
  unfold Env.load
  repeat' split
  exacts [h, h.replayLoad, h.memory hop (fun _ h1 => h1.logLoad.memDone)]

theorem outMemInv_execLdg {x} {s : State} (h : s.MemInv) : OutMemInv (execLdg x s) :=
  h.issue (fun _ _ h1 => h1.memUsing (fun _ h2 => h2.gregReady (h2.load (State.MemInv.loadOp (fun _ _ h3 =>
    h3.xlGreg)))))

theorem outMemInv_execLdf {x} {s : State} (h : s.MemInv) : OutMemInv (execLdf x s) :=
  h.issue (fun _ _ h1 => h1.memUsing (fun _ h2 => h2.load ⟨fun h3 => h3.xlFab, fun h3 => h3.loadedAt, fun h3 => h3⟩))

theorem outMemInv_execLdk {x} {s : State} (h : s.MemInv) : OutMemInv (execLdk x s) :=
  h.issue (fun _ _ h1 => h1.memUsing (fun _ h2 => h2.gregReady (h2.load ⟨fun h3 => h3.xlGreg, fun h3 => h3.loadedAt, fun
    h3 => h3⟩)))

theorem State.MemInv.prefetch {s : State} {e : Env} {r n l} (h : s.MemInv) : (s.prefetch e r n l).2.MemInv := by
  induction l generalizing s e r n with
  | nil =>
    unfold State.prefetch
    exact h
  | cons a l ih =>
    unfold State.prefetch
    repeat' split
    exacts [ih h, (ih (h.xlGreg.of_eq ‹_›)).of_eq ‹_›, (ih (h.xlGreg.of_eq ‹_›)).of_eq ‹_›]

theorem outMemInv_execPfg {x} {s : State} (h : s.MemInv) : OutMemInv (execPfg x s) := by
  unfold execPfg
  refine h.issue (fun _ _ h1 => ?_)
  split
  · exact h1.trap
  · dsimp only
    exact memInv_passOn ((h1.prefetch.ite_snd h1).charge.ite (h1.prefetch.ite_snd h1))

theorem outMemInv_execGset {x} {s : State} (h : s.MemInv) : OutMemInv (execGset x s) := by
  unfold execGset
  refine h.issue (fun _ _ h1 => ?_)
  split
  · split
    · dsimp only
      split
      exacts [h1, h1.updRegs.advance]
    · dsimp only
      split
      · exact h1
      · split
        · exact (h1.xlate.of_eq ‹_›).updRegs.advance
        · exact h1.xlate.of_eq ‹_›
        · exact (h1.xlate.of_eq ‹_›).parkRes
        · exact (h1.xlate.of_eq ‹_›).updRegs.advance
        · exact h1.xlate.of_eq ‹_›
  · split
    · dsimp only
      split
      exacts [h1, h1.advance]
    · dsimp only
      split
      · exact h1
      · split
        · exact (h1.xlate.of_eq ‹_›).advance
        · exact h1.xlate.of_eq ‹_›
        · exact (h1.xlate.of_eq ‹_›).parkRes
        · exact (h1.xlate.of_eq ‹_›).advance
        · exact h1.xlate.of_eq ‹_›

theorem State.MemInv.scalarAccess {e : Env} {s : State} {op : MemOp} {a} {finish : State → Res} (h : s.MemInv)
    (hop : op.MemInv) (hfinish : ∀ s, s.MemInv → (finish s).MemInv) :
    (e.scalarAccess s op a finish).MemInv := by
  unfold Env.scalarAccess
  repeat' split
  exacts [(h.memory hop hfinish).of_trap ‹_›, h.memory hop hfinish]

theorem State.MemInv.uniformLoad {e : Env} {s : State} {d a} (h : s.MemInv) : (e.uniformLoad s d a).MemInv := by
  unfold Env.uniformLoad
  split
  · repeat' split
    exacts [h, (h.outside.of_eq ‹_›).putS]
  · exact h.scalarAccess ⟨fun h1 => h1.ite_snd h1.xlate, fun h1 => h1.settleOwn.updSlot, fun h1 => h1.updSlot⟩ (fun _ h1
      => h1.logged.putS)

theorem outMemInv_execSldu {d a imm} {s : State} (h : s.MemInv) : OutMemInv (execSldu d a imm s) :=
  h.issue (fun _ _ h1 => h1.uniformLoad)

theorem outMemInv_execSlduLit {d a lit} {s : State} (h : s.MemInv) : OutMemInv (execSlduLit d a lit s) :=
  h.issue (fun _ _ h1 => h1.uniformLoad)

theorem State.MemInv.reqScalar {e : Env} {s : State} {d x} (h : s.MemInv) : (e.reqScalar s d x).MemInv := by
  unfold Env.reqScalar
  dsimp only
  repeat' split
  exacts [h, h, h, h.outside.putS]

theorem State.MemInv.reqVector {e : Env} {s : State} {x u n} (h : s.MemInv) : (e.reqVector s x u n).MemInv := by
  unfold Env.reqVector
  split
  · dsimp only
    repeat' split
    exacts [h, h, h.replayLoad]
  · dsimp only
    repeat' split
    exacts [h, h, h.addLoad.logLoad.memDone]

theorem outMemInv_execReqld {x} {s : State} (h : s.MemInv) : OutMemInv (execReqld x s) := by
  unfold execReqld
  refine h.issue (fun _ _ h1 => ?_)
  split
  exacts [h1.reqScalar, h1.memUsing (fun _ h1 => h1.reqVector)]

/-! #### Stores -/

theorem State.MemInv.storeEmpty {s : State} {e : Env} {bytes : Nat → List Byte} {l l'} (h : s.MemInv) :
    (s.storeEmpty e bytes l l').2.MemInv := by
  induction l generalizing s e bytes l' with
  | nil =>
    unfold State.storeEmpty
    exact h
  | cons a l ih =>
    unfold State.storeEmpty
    exact (ih h.settleBytes).ite_snd (ih h.settleBytes.storeSp)

theorem outMemInv_execSts {x} {s : State} (h : s.MemInv) : OutMemInv (execSts x s) := by
  unfold execSts
  refine h.issue (fun _ _ h1 => h1.memUsing (fun _ h2 => h2.spCheck (h2.holdRoom (fun _ h3 => h3.ordered (fun _ h4 =>
    ?_)))))
  split
  · exact h4.recordLanes.memDone
  · split
    · exact (h4.foldl (fun _ _ h1 => h1.storeSp)).recordLanes.memDone
    · repeat' split
      exacts [(h4.storeEmpty.of_eq ‹_›).recordLanes.memDone, (h4.storeEmpty.of_eq ‹_›).updSlot]

theorem State.MemInv.storeOp {e : Env} {x n p} {k : State → Acc → Xl × State}
    (h : ∀ s x1, s.MemInv → (k s x1).2.MemInv) :
    (e.storeOp x n p k).MemInv := by
  unfold Env.storeOp
  dsimp only
  split
  · exact ⟨fun h1 => h _ _ h1, fun h1 => h1.noteFmt.store, fun h1 => h1.noteFmt⟩
  · exact ⟨fun h1 => h _ _ h1, fun h1 => h1.store, fun h1 => h1⟩

theorem State.MemInv.storeFmts {e : Env} {s : State} {m} (h : s.MemInv) : (e.storeFmts s m).2.MemInv := by
  unfold Env.storeFmts
  repeat' split
  exacts [h, h.fromLog.of_eq ‹_›, h.logged]

theorem State.MemInv.storeDone {e : Env} {s : State} {x typed base n space} (h : s.MemInv) :
    (e.storeDone s x typed base n space).MemInv := by
  unfold Env.storeDone
  split
  · dsimp only
    exact h.storeFmts.setFlags.recordLanes.memDone
  · exact h.setFlags.recordLanes.memDone

theorem State.MemInv.storeLanes {e : Env} {s : State} {x p} {op : MemOp} {base n space} (h : s.MemInv)
    (hop : op.MemInv) :
    (e.storeLanes s x p op base n space).MemInv := by
  unfold Env.storeLanes
  split
  · dsimp only
    split
    exacts [h, h.storeDone]
  · dsimp only
    split
    exacts [h, h.holdRoom (fun _ h1 => h1.ordered (fun _ h2 => h2.memory hop (fun _ h3 => h3.storeDone)))]

theorem outMemInv_execStg {x} {s : State} (h : s.MemInv) : OutMemInv (execStg x s) :=
  h.issue (fun _ _ h1 => h1.memUsing (fun _ h2 => h2.gregReady (h2.storeLanes (State.MemInv.storeOp (fun _ _ h3 =>
    h3.xlGreg)))))

theorem outMemInv_execStf {x} {s : State} (h : s.MemInv) : OutMemInv (execStf x s) := by
  refine h.issue fun e s h1 => h1.memUsing fun t h2 => h2.storeLanes ?_
  obtain ⟨hx, hh, ht⟩ := State.MemInv.storeOp (e := e) (x := x) (n := regCount x.fn) (p := e.pfxOf .store .pod)
    (k := fun s a => s.xlFab e 1 a) fun _ _ h3 => h3.xlFab
  exact ⟨hx, hh, ht⟩

theorem State.MemInv.uniformStore {e : Env} {s : State} {v a} (h : s.MemInv) : (e.uniformStore s v a).MemInv := by
  unfold Env.uniformStore
  split
  · split
    · exact h
    · split
      · exact h.advance
      · exact h.holdRoom (fun _ h1 => h1.ordered (fun _ h2 => h2.scalarAccess ⟨fun h3 => h3.ite_snd h3.xlate, fun h3 =>
          h3.store, fun h3 => h3⟩ (fun _ h3 => h3.advance)))
  · split
    · exact h
    · split
      · exact h.record.advance
      · exact h.holdRoom (fun _ h1 => h1.ordered (fun _ h2 => h2.scalarAccess ⟨fun h3 => h3.ite_snd h3.xlate, fun h3 =>
          h3.store, fun h3 => h3⟩ (fun _ h3 => h3.record.advance)))

theorem outMemInv_execSstu {d a imm} {s : State} (h : s.MemInv) : OutMemInv (execSstu d a imm s) :=
  h.issue (fun _ _ h1 => h1.uniformStore)

theorem outMemInv_execSstuLit {d a lit} {s : State} (h : s.MemInv) : OutMemInv (execSstuLit d a lit s) :=
  h.issue (fun _ _ h1 => h1.uniformStore)

theorem outMemInv_execReqst {x} {s : State} (h : s.MemInv) : OutMemInv (execReqst x s) := by
  unfold execReqst
  refine h.issue fun e s h1 => ?_
  extract_lets base n off v addr done
  have hdone (t : State) (h2 : t.MemInv) : (done t).MemInv := State.MemInv.advance (h2.ite h2.record)
  split
  · exact h1
  · split
    · exact h1
    · split
      · exact hdone _ h1
      · exact h1.holdRoom fun _ h2 => h2.ordered fun _ h3 => hdone _ (h3.holdAway.ite h3.setReq)

/-! #### Atomics -/

theorem State.MemInv.atomicLane {s : State} {e : Env} {x level sp l va a} (h : s.MemInv) :
    (s.atomicLane e x level sp l va a).2.MemInv := by
  unfold State.atomicLane
  split
  · split
    · dsimp only
      split
      exacts [h.settleBytes, h.settleBytes.storeSp]
  · split
    · dsimp only
      split
      exacts [h.settleBytes, h.settleBytes.store]

theorem State.MemInv.atomicDone {s : State} {e : Env} {x base space} (h : s.MemInv) :
    (s.atomicDone e x base space).MemInv := by
  unfold State.atomicDone
  refine (State.MemInv.recordLanes ?_).memDone
  split
  exacts [h.logLoad, h]

theorem State.MemInv.atomicReplay {s : State} {e : Env} {x base space} (h : s.MemInv) :
    (s.atomicReplay e x base space).MemInv := by
  unfold State.atomicReplay
  refine State.MemInv.recordLanes ?_
  split
  exacts [h.replayLoad, h.memDone]

theorem State.MemInv.atomicScratch {s : State} {e : Env} {x l l'} (h : s.MemInv) :
    (s.atomicScratch e x l l').2.MemInv := by
  induction l generalizing s e x l' with
  | nil =>
    unfold State.atomicScratch
    exact h
  | cons a l ih =>
    unfold State.atomicScratch
    split
    exact ih (h.atomicLane.of_eq ‹_›)

theorem outMemInv_execAts {x} {s : State} (h : s.MemInv) : OutMemInv (execAts x s) := by
  unfold execAts
  refine h.issue (fun _ _ h1 => h1.memUsing (fun _ h2 => h2.spCheck (h2.holdRoom (fun _ h3 => h3.ordered (fun _ h4 =>
    ?_)))))
  split
  · exact h4.atomicReplay
  · refine State.MemInv.atomicDone ?_
    split
    exacts [h4.atomicScratch.updRegs, h4.atomicScratch]

theorem State.MemInv.atomicOp {e : Env} {x p} {k : State → Acc → Xl × State}
    (h : ∀ s x1, s.MemInv → (k s x1).2.MemInv) :
    (e.atomicOp x p k).MemInv := by
  unfold Env.atomicOp
  split
  · dsimp only
    exact ⟨fun h1 => h _ _ h1, fun h1 => h1.atomicLane, fun h1 => h1⟩
  · dsimp only
    exact ⟨fun h1 => h _ _ h1, fun h1 => h1.atomicLane, fun h1 => h1⟩

theorem State.MemInv.atomicLanes {e : Env} {s : State} {x} {op : MemOp} {p base space} (h : s.MemInv)
    (hop : op.MemInv) :
    (e.atomicLanes s x op p base space).MemInv := by
  unfold Env.atomicLanes
  split
  · dsimp only
    split
    exacts [h, h.atomicReplay]
  · dsimp only
    split
    exacts [h, h.holdRoom (fun _ h1 => h1.ordered (fun _ h2 => h2.fields.memory hop (fun _ h3 => h3.atomicDone)))]

theorem outMemInv_execAtg {x} {s : State} (h : s.MemInv) : OutMemInv (execAtg x s) :=
  h.issue (fun _ _ h1 => h1.memUsing (fun _ h2 => h2.gregReady (h2.atomicLanes (State.MemInv.atomicOp (fun _ _ h3 =>
    h3.xlGreg)))))

theorem outMemInv_execAtf {x} {s : State} (h : s.MemInv) : OutMemInv (execAtf x s) :=
  h.issue (fun _ _ h1 => h1.memUsing (fun _ h2 => h2.atomicLanes (State.MemInv.atomicOp (fun _ _ h3 => h3.xlFab))))

/-! #### Tree masks -/

theorem outMemInv_execTmask {x} {s : State} (h : s.MemInv) : OutMemInv (execTmask x s) := by
  unfold execTmask
  refine h.issue (fun _ _ h1 => h1.usingOperands (fun _ => h1.flagged (fun _ h3 => ?_)))
  split
  · dsimp only
    repeat' split
    exacts [h3, h3, h3.holdRoom (fun _ h1 => (h1.foldl (fun _ _ h2 => h2.storeSp)).recordLanes.envDeliver)]
  · dsimp only
    repeat' split
    exacts [h3, h3, h3.holdRoom (fun _ h1 => (h1.foldl (fun _ _ h2 => h2.storeSp)).recordLanes.envDeliver)]

/-! #### Engine operations, queued -/

theorem State.MemInv.loadPieces {s : State} {e : Env} {rx va n l} {k : List Byte → State → Res} (h : s.MemInv)
    (hk : ∀ x1 s, s.MemInv → (k x1 s).MemInv) :
    (s.loadPieces e rx va n l k).MemInv := by
  induction n generalizing s e rx va l k with
  | zero =>
    unfold State.loadPieces
    exact hk _ _ h
  | succ n ih =>
    unfold State.loadPieces
    exact h.loadNum (fun _ _ h1 => ih h1 (fun _ _ h2 => hk _ _ h2))

theorem outMemInv_execSeal {d a} {s : State} (h : s.MemInv) : OutMemInv (execSeal d a s) := by
  unfold execSeal
  refine h.issue (fun _ _ h1 => h1.skipList (fun _ _ h2 => memInv_mirrorS h2) (fun _ _ h2 => ?_))
  dsimp only
  split
  · exact h2
  · refine h2.loadPieces (fun _ _ h1 => ?_)
    split
    exacts [h1, h1.orUndo h1.setCtx.putS]

theorem outMemInv_execSealRel {d b} {s : State} (h : s.MemInv) : OutMemInv (execSealRel d b s) := by
  unfold execSealRel
  refine h.issue (fun _ _ h1 => h1.skipList (fun _ _ h2 => memInv_mirrorS h2) (fun _ _ h2 => ?_))
  split
  exacts [h2.putS, h2.orUndo h2.modCtx.putS]

theorem State.MemInv.enqueue {e : Env} {s : State} {x marks cls data op} (h : s.MemInv) :
    (e.enqueue s x marks cls data op).MemInv := by
  unfold Env.enqueue
  split
  · split
    · dsimp only
      split
      exacts [h, h.envDeliver]
    · dsimp only
      split
      exacts [h, h.fields.upd.envDeliver]
  · split
    · dsimp only
      split
      exacts [h, h.record.envDeliver]
    · dsimp only
      split
      exacts [h, h.record.fields.upd.envDeliver]

theorem State.MemInv.sealedOf {e : Env} {s : State} {hd} {k : BitVec 2048 → Res} (h : s.MemInv)
    (hk : ∀ x1, (k x1).MemInv) :
    (e.sealedOf s hd k).MemInv := by
  unfold Env.sealedOf
  repeat' split
  exacts [hk _, hk _, h]

theorem State.MemInv.spRange {e : Env} {s : State} {a n} {k : Res} (h : s.MemInv) (hk : k.MemInv) :
    (e.spRange s a n k).MemInv := by
  unfold Env.spRange
  split
  exacts [h, hk]

theorem State.MemInv.high {e : Env} {s : State} {a} {k : Res} (h : s.MemInv) (hk : k.MemInv) :
    (e.high s a k).MemInv := by
  unfold Env.high
  split
  exacts [h, hk]

theorem State.MemInv.aligned {e : Env} {s : State} {z a b} {k : Res} (h : s.MemInv) (hk : k.MemInv) :
    (e.aligned s z a b k).MemInv := by
  unfold Env.aligned
  repeat' split
  exacts [h, h, hk]

theorem State.MemInv.copy {e : Env} {s : State} {x cls kind sp} (h : s.MemInv) : (e.copy s x cls kind sp).MemInv := by
  unfold Env.copy
  refine h.sealedOf (fun _ => ?_)
  repeat' split
  exacts [h.enqueue, h.aligned (h.spRange (h.high h.enqueue)), h.aligned (h.high (h.high h.enqueue))]

theorem outMemInv_execCpy {x} {s : State} (h : s.MemInv) : OutMemInv (execCpy x s) := h.issue (fun _ _ h1 => h1.copy)

theorem outMemInv_execCpyf {x} {s : State} (h : s.MemInv) : OutMemInv (execCpyf x s) := h.issue (fun _ _ h1 => h1.copy)

theorem State.MemInv.envRuns {e : Env} {s : State} {x kind dev noRot} (h : s.MemInv) :
    (e.runs s x kind dev noRot).MemInv := by
  unfold Env.runs
  refine h.usingOperands (fun _ => h.flagged (fun _ h2 => h2.sealedOf (fun _ => ?_)))
  split
  · exact h2.enqueue
  · refine h2.aligned ?_
    repeat' split
    exacts [h2, h2.trap, h2.enqueue, h2.high h2.enqueue, h2.enqueue, h2.trap, h2.spRange h2.enqueue]

theorem outMemInv_execGath {x} {s : State} (h : s.MemInv) : OutMemInv (execGath x s) :=
  h.issue (fun _ _ h1 => h1.envRuns)

theorem outMemInv_execScat {x} {s : State} (h : s.MemInv) : OutMemInv (execScat x s) :=
  h.issue (fun _ _ h1 => h1.envRuns)

theorem outMemInv_execColl {x} {s : State} (h : s.MemInv) : OutMemInv (execColl x s) := by
  unfold execColl
  refine h.issue fun e s h1 => ?_
  extract_lets comm dst fn data blank
  split
  · exact h1.enqueue
  · refine h1.orUndo (h1.sealedOf fun bitsOf => ?_)
    extract_lets r
    split
    · exact h1
    · split
      · exact h1
      · refine h1.loadPieces fun head s1 h2 => ?_
        extract_lets d n
        split
        · exact h2
        · refine h2.loadPieces fun bs s2 h3 => ?_
          extract_lets entries
          split
          · exact h3
          · exact h3.high (Res.MemInv.ite h3 (Res.MemInv.ite h3 (h3.storeVaAt fun _ h4 => h4.enqueue)))

theorem outMemInv_execCntrd {x} {s : State} (h : s.MemInv) : OutMemInv (execCntrd x s) := by
  unfold execCntrd
  refine h.issue (fun _ _ h1 => ?_)
  split
  · dsimp only
    exact h1.orUndo h1.outside.putS
  · dsimp only
    exact h1.outside.advance

theorem outMemInv_execWaitc {cls n} {s : State} (h : s.MemInv) : OutMemInv (execWaitc cls n s) := by
  unfold execWaitc
  refine h.issue (fun _ _ h1 => ?_)
  repeat' split
  exacts [memInv_passOn h1, h1, h1.engTrap, memInv_passOn h1]

/-! #### Matrix operations, queued -/

theorem State.MemInv.matrixOp {e : Env} {s : State} {u t reads writes} {checks : State → (State → Res) → Res}
    {kind : State → MatKind × State} (h : s.MemInv)
    (hchecks : ∀ s x1, s.MemInv → (∀ s, s.MemInv → (x1 s).MemInv) → (checks s x1).MemInv)
    (hkind : ∀ s, s.MemInv → (kind s).2.MemInv) :
    (e.matrixOp s u t reads writes checks kind).MemInv := by
  unfold Env.matrixOp
  refine h.usingOperands (fun _ => h.flagged ?_)
  split
  · exact fun _ h1 => hchecks _ _ h1 (fun _ h2 => (hkind _ h2).updRegs.fields.upd.advance.updSlot)
  · exact fun _ h1 => hchecks _ _ h1 (fun _ h2 => (hkind _ h2).updRegs.fields.upd.advance)

theorem memInv_noChecks {s : State} {k : State → Res} (h : s.MemInv) (hk : ∀ s, s.MemInv → (k s).MemInv) :
    (noChecks s k).MemInv :=
  hk _ h

theorem outMemInv_execMma {x} {s : State} (h : s.MemInv) : OutMemInv (execMma x s) :=
  h.issue (fun _ _ h1 => h1.matrixOp (fun _ _ h2 hk2 => memInv_noChecks h2 (fun _ h3 => hk2 _ h3)) (fun _ h2 => h2))

theorem outMemInv_execMmas {x} {s : State} (h : s.MemInv) : OutMemInv (execMmas x s) :=
  h.issue (fun _ _ h1 => h1.matrixOp (fun _ _ h2 hk2 => memInv_noChecks h2 (fun _ h3 => hk2 _ h3)) (fun _ h2 => h2))

theorem State.MemInv.maskRows {s : State} {e : Env} {a} (h : s.MemInv) : (s.maskRows e a).2.MemInv :=
  h.fromLog.ite_snd h.settleOwn.logged

theorem outMemInv_execMqk {x} {s : State} (h : s.MemInv) : OutMemInv (execMqk x s) := by
  unfold execMqk
  refine h.issue (fun _ _ h1 => h1.matrixOp (fun _ _ h2 hk2 => ?_) ?_)
  · repeat' split
    exacts [hk2 _ h2, h2, hk2 _ h2, h2.spRange (hk2 _ h2)]
  · split
    · dsimp only
      exact fun _ h1 => h1.maskRows
    · exact fun _ h1 => h1

theorem outMemInv_execMsmx {x} {s : State} (h : s.MemInv) : OutMemInv (execMsmx x s) :=
  h.issue (fun _ _ h1 => h1.matrixOp (fun _ _ h2 hk2 => memInv_noChecks h2 (fun _ h3 => hk2 _ h3)) (fun _ h2 => h2))

theorem outMemInv_execMzero {x} {s : State} (h : s.MemInv) : OutMemInv (execMzero x s) :=
  h.issue (fun _ _ h1 => h1.matrixOp (fun _ _ h2 hk2 => memInv_noChecks h2 (fun _ h3 => hk2 _ h3)) (fun _ h2 => h2))

theorem State.MemInv.tileSpan {e : Env} {dev b pitch} {s : State} {k : State → Res} (h : s.MemInv)
    (hk : ∀ s, s.MemInv → (k s).MemInv) :
    (e.tileSpan dev b pitch s k).MemInv := by
  unfold Env.tileSpan
  repeat' split
  exacts [h, h, hk _ h, h, hk _ h, h, hk _ h]

theorem outMemInv_execMldt {x} {s : State} (h : s.MemInv) : OutMemInv (execMldt x s) := by
  unfold execMldt
  refine h.issue (fun _ _ h1 => h1.matrixOp (fun _ _ h2 hk2 => h2.tileSpan (fun _ h3 => hk2 _ h3)) (fun _ h2 => ?_))
  repeat' split
  exacts [h2.fromLog.of_eq ‹_›, h2.logged]

theorem State.MemInv.tileRoom {e : Env} {s : State} {k : State → Res} (h : s.MemInv)
    (hk : ∀ s, s.MemInv → (k s).MemInv) :
    (e.tileRoom s k).MemInv := by
  unfold Env.tileRoom
  generalize (_ && _) = full
  exact Res.MemInv.ite (hk _ h) (Res.MemInv.ite h (h.holdRoom hk))

theorem outMemInv_execMstt {x} {s : State} (h : s.MemInv) : OutMemInv (execMstt x s) :=
  h.issue (fun _ _ h1 => h1.matrixOp (fun _ _ h2 hk2 => h2.tileSpan (fun _ h3 => h3.tileRoom (fun _ h4 => hk2 _ h4)))
    (fun _ h2 => h2))

theorem outMemInv_execMbatch {d} {s : State} (h : s.MemInv) : OutMemInv (execMbatch d s) := by
  unfold execMbatch
  refine h.issue (fun _ _ h1 => ?_)
  split
  · exact h1.updSlot
  · dsimp only
    exact h1.orUndo h1.upd.outside.putS

theorem outMemInv_execMwait {a} {s : State} (h : s.MemInv) : OutMemInv (execMwait a s) := by
  unfold execMwait
  refine h.issue (fun _ _ h1 => ?_)
  split
  · dsimp only
    split
    exacts [h1.trap, memInv_passOn h1]
  · dsimp only
    repeat' split
    exacts [h1.trap, h1, h1.matTrap, memInv_passOn h1]

/-! #### Keys and bindings -/

theorem State.MemInv.atHome {e : Env} {s : State} {k} {remote : Nat → State → Res} {here : State → Res} (h : s.MemInv)
    (hremote : ∀ x1 s, s.MemInv → (remote x1 s).MemInv) (hhere : ∀ s, s.MemInv → (here s).MemInv) :
    (e.atHome s k remote here).MemInv := by
  unfold Env.atHome
  split
  · exact hremote _ _ h
  · split
    · exact hhere _ h
    · split
      · exact h
      · split
        · exact hremote _ _ h
        · repeat' split
          exacts [hremote _ _ (h.translateAt.of_eq ‹_›), h.translateAt.of_eq ‹_›, hhere _ (h.translateAt.of_eq ‹_›)]

theorem State.MemInv.knowBinds {s : State} {cid k l} (h : s.MemInv) : (s.knowBinds cid k l).MemInv := h.modCtx

theorem State.MemInv.learnBinds {s : State} {cid k bs} (h : s.MemInv) : (s.learnBinds cid k bs).MemInv :=
  h.ite h.knowBinds

theorem State.MemInv.remoteKey {e : Env} {s : State} {node k req base len} {done : Nat → State → Res} (h : s.MemInv)
    (hdone : ∀ x1 s, s.MemInv → (done x1 s).MemInv) :
    (e.remoteKey s node k req base len done).MemInv := by
  unfold Env.remoteKey
  repeat' split
  exacts [h, h.updSlot, hdone _ _ h.updSlot.learnBinds, h, h.charge.sendOut.updSlot]

theorem State.MemInv.queueKey {s : State} {e : Env} {k ex bind} (h : s.MemInv) : (s.queueKey e k ex bind).MemInv :=
  h.modCtx

theorem State.MemInv.keyTaken {e : Env} {s : State} {k ex d status} (h : s.MemInv) :
    (e.keyTaken s k ex d status).MemInv := by
  unfold Env.keyTaken
  split
  · dsimp only
    exact h.orUndo h.upd.outside.putS
  · dsimp only
    exact h.orUndo h.upd.outside.putS

theorem outMemInv_execAcq {d a space ex} {s : State} (h : s.MemInv) : OutMemInv (execAcq d a space ex s) := by
  unfold execAcq
  refine h.issue (fun _ _ h1 => ?_)
  split
  · split
    · dsimp only
      repeat' split
      exacts [h1, h1.orUndo (h1.outside.of_eq ‹_›).putS]
  · split
    · dsimp only
      split
      exacts [h1, h1.keyTaken]
    · split
      · dsimp only
        split
        · exact h1
        · split
          · exact h1
          · refine h1.atHome (fun _ _ h1 => h1.remoteKey (fun _ _ h2 => h2.keyTaken)) (fun _ h1 => ?_)
            repeat' split
            exacts [h1, h1, h1.modCtx.keyTaken, h1.queueKey]
      · dsimp only
        split
        · exact h1
        · split
          · exact h1
          · refine h1.atHome (fun _ _ h1 => h1.remoteKey (fun _ _ h2 => h2.keyTaken)) (fun _ h1 => ?_)
            repeat' split
            exacts [h1, h1, h1.modCtx.keyTaken, h1.queueKey]

theorem outMemInv_execRel {a space} {s : State} (h : s.MemInv) : OutMemInv (execRel a space s) := by
  unfold execRel
  refine h.issue (fun _ _ h1 => ?_)
  split
  · dsimp only
    split
    exacts [h1, memInv_passOn h1]
  · split
    · dsimp only
      split
      · exact h1
      · split
        · exact h1
        · split
          · exact h1
          · exact h1.atHome (fun _ _ h1 => h1.remoteKey (fun _ _ h2 => memInv_passOn h2.fenceHeld.release.upd)) (fun _
              h1 => memInv_passOn h1.modCtx.fenceHeld.release.upd)
    · dsimp only
      split
      · exact h1
      · split
        · exact h1
        · refine h1.compare (fun _ h1 => ?_)
          split
          · exact h1
          · exact h1.atHome (fun _ _ h1 => h1.remoteKey (fun _ _ h2 => memInv_passOn h2.fenceHeld.release.upd)) (fun _
              h1 => memInv_passOn h1.modCtx.fenceHeld.release.upd)

theorem State.MemInv.rebind {s : State} {cid k base len} {u} (h : s.MemInv) (he : s.rebind cid k base len = some u) :
    u.MemInv := by
  unfold State.rebind at he
  repeat' split at he
  all_goals cases he
  all_goals exact h.setCtx

theorem State.MemInv.tellBinds {s : State} {cid k l} (h : s.MemInv) : (s.tellBinds cid k l).MemInv := by
  unfold State.tellBinds
  repeat' split
  exacts [h, h, h.foldl (fun _ _ h1 => h1.sendFor)]

theorem State.MemInv.bindOp {e : Env} {s : State} {k region} (h : s.MemInv) : (e.bindOp s k region).MemInv := by
  unfold Env.bindOp
  split
  extract_lets bad effect src c range key free
  have hbad (t : State) (h1 : t.MemInv) : (bad t).MemInv := h1
  have heffect (t : State) (h1 : t.MemInv) : (effect t).MemInv := by
    unfold effect
    split
    · exact memInv_passOn (h1.rebind ‹_›).tellBinds
    · exact h1
  refine Res.MemInv.ite h (Res.MemInv.ite (hbad _ h) (h.atHome (fun n t h1 => ?_) fun t h1 => ?_))
  · exact Res.MemInv.ite h1 (h1.remoteKey fun _ _ h2 => memInv_passOn (h2.knowBinds.ite h2))
  · have hfree : (free t).MemInv := h1.modCtx
    exact Res.MemInv.ite (heffect _ hfree) (Res.MemInv.ite h1 (Res.MemInv.ite (hbad _ h1)
      (Res.MemInv.ite h1 (Res.MemInv.ite (heffect _ h1) h1.queueKey))))

theorem outMemInv_execBind {k a b space} {s : State} (h : s.MemInv) : OutMemInv (execBind k a b space s) :=
  h.issue (fun _ _ h1 => h1.skipList (fun _ _ h2 => memInv_mirrorNone h2) (fun _ _ h2 => h2.bindOp))

theorem outMemInv_execUnbind {k space} {s : State} (h : s.MemInv) : OutMemInv (execUnbind k space s) :=
  h.issue (fun _ _ h1 => h1.skipList (fun _ _ h2 => memInv_mirrorNone h2) (fun _ _ h2 => h2.bindOp))

theorem outMemInv_execFence {kind scope} {s : State} (h : s.MemInv) : OutMemInv (execFence kind scope s) := by
  unfold execFence
  refine h.issue (fun _ _ h1 => ?_)
  repeat' split
  exacts [memInv_passOn h1, memInv_passOn h1.fenceHeld, h1, memInv_passOn h1.fenceHeld.release, h1]

/-! #### Ring barriers -/

theorem State.MemInv.arrive {s : State} {e : Env} {n c} (h : s.MemInv) : (s.arrive e n c).MemInv := h.release.modTeam

theorem State.MemInv.barDone {e : Env} {s : State} {d status} (h : s.MemInv) : (e.barDone s d status).MemInv := by
  unfold Env.barDone
  split
  exact h.orUndo (h.outside.of_eq ‹_›).putS

theorem outMemInv_execBar {d n c} {s : State} (h : s.MemInv) : OutMemInv (execBar d n c s) := by
  unfold execBar
  refine h.issue (fun _ _ h1 => ?_)
  split
  · exact h1.barDone
  · exact h1
  · split
    · exact h1.trap
    · split
      · exact h1.barDone
      · refine h1.compare (fun _ h1 => ?_)
        split
        exacts [h1, h1.arrive.updSlot.barCheck]

theorem outMemInv_execBarArrive {d n c} {s : State} (h : s.MemInv) : OutMemInv (execBarArrive d n c s) := by
  unfold execBarArrive
  refine h.issue (fun _ _ h1 => ?_)
  split
  · exact h1.trap
  · split
    · exact h1.barDone
    · refine h1.compare (fun _ h1 => ?_)
      split
      exacts [h1, h1.arrive.barCheck.barDone]

theorem State.MemInv.openScratch {s : State} {tid} (h : s.MemInv) : (s.openScratch tid).MemInv := by
  unfold State.openScratch
  repeat' split
  exacts [h, h, h, (h.takeFree.of_eq ‹_›).setTeam]

theorem State.MemInv.grantFull {s : State} {gid} (h : s.MemInv) : (s.grantFull gid).MemInv := by
  unfold State.grantFull
  repeat' split
  exacts [h, h, h, h.modPart.setGroup.openScratch]

theorem outMemInv_execAcqr {s : State} (h : s.MemInv) : OutMemInv (execAcqr s) := by
  unfold execAcqr
  refine h.issue (fun _ _ h1 => ?_)
  split
  · exact memInv_passOn h1
  · split
    · exact memInv_passOn h1.upd.modTeam
    · dsimp only
      repeat' split
      exacts [h1, memInv_passOn h1.grantFull, h1.modPart]

theorem State.MemInv.tileError {e : Env} {s : State} {t} {k : State → Res} (h : s.MemInv)
    (hk : ∀ s, s.MemInv → (k s).MemInv) :
    (e.tileError s t k).MemInv := by
  unfold Env.tileError
  split
  exacts [h.matTrap, hk _ h]

theorem outMemInv_execRela {s : State} (h : s.MemInv) : OutMemInv (execRela s) := by
  unfold execRela
  refine h.issue (fun _ _ h1 => ?_)
  split
  · exact memInv_passOn h1
  · split
    · exact h1
    · split
      · dsimp only
        split
        exacts [h1, h1.tileError (fun _ h1 => memInv_passOn h1.upd)]
      · dsimp only
        split
        exacts [h1, h1.tileError (fun _ h1 => memInv_passOn h1.upd.modPart)]

theorem outMemInv_execSetb {d n} {s : State} (h : s.MemInv) : OutMemInv (execSetb d n s) := by
  unfold execSetb
  refine h.issue (fun _ _ h1 => ?_)
  dsimp only
  repeat' split
  exacts [h1.trap, h1, h1, h1.tileError (fun _ h1 => h1.orUndo h1.upd.putS)]

/-! #### Launches and signals -/

theorem State.MemInv.counterLook {s : State} {cid va target} (h : s.MemInv) :
    (s.counterLook cid va target).2.MemInv := by
  unfold State.counterLook
  repeat' split
  exacts [h, h, h.charge]

theorem State.MemInv.lookDeps {s : State} {cid l} (h : s.MemInv) : (s.lookDeps cid l).2.2.MemInv := by
  induction l generalizing s with
  | nil => exact h
  | cons d rest ih =>
    unfold State.lookDeps
    exact ih h.counterLook

theorem State.MemInv.enqueueGrid {s : State} {gid} (h : s.MemInv) : (s.enqueueGrid gid).MemInv := by
  unfold State.enqueueGrid
  repeat' split
  exacts [h, h, h, h.ite h.setCtx.setGrid.modWriteNum, h.ite h.setCtx.setGrid]

theorem State.MemInv.evalGrid {s : State} {gid} (h : s.MemInv) : (s.evalGrid gid).MemInv := by
  unfold State.evalGrid
  repeat' split
  exacts [h, (h.lookDeps.of_eq2 ‹_›).setGrid.enqueueGrid]

theorem State.MemInv.evalGroup {s : State} {gid} (h : s.MemInv) : (s.evalGroup gid).MemInv := by
  unfold State.evalGroup
  repeat' split
  exacts [h, (h.counterLook.of_eq ‹_›).setGroup, h]

theorem State.MemInv.lookAgain {s : State} (h : s.MemInv) : (s.lookAgain).MemInv :=
  (h.foldl (fun _ _ h1 => h1.evalGrid)).foldl (fun _ _ h1 => h1.evalGroup)

theorem State.MemInv.signalled {s : State} {pa} (h : s.MemInv) : (s.signalled pa).MemInv :=
  (h.foldl (fun _ _ h1 => h1.evalGrid)).foldl (fun _ _ h1 => h1.evalGroup)

theorem State.MemInv.addCounter {s : State} {gid team core pa x} (h : s.MemInv) :
    (s.addCounter gid team core pa x).2.MemInv :=
  h.settleBytes.addStore.signalled

theorem State.MemInv.addSignal {s : State} {g} (h : s.MemInv) : (s.addSignal g).MemInv := h.fields

theorem State.MemInv.launch {s : State} {c f r hd} (h : s.MemInv) : (s.launch c f r hd).2.2.MemInv := by
  unfold State.launch
  split
  · exact h
  · split
    · exact h
    · split
      · exact h
      · dsimp only
        split
        exacts [h.charge, h.charge.fields.setGrid.enqueueGrid]

theorem outMemInv_execLaunch {d a} {s : State} (h : s.MemInv) : OutMemInv (execLaunch d a s) := by
  unfold execLaunch
  refine h.issue fun e s h1 => ?_
  extract_lets va
  split
  · exact h1.trap
  · split
    · exact h1
    · refine h1.skipList (fun _ _ h2 => memInv_mirrorS h2) fun e s h2 => h2.loadPieces fun bs t h3 => ?_
      extract_lets r finish
      have hf (n : Nat) (t : State) (h3 : t.MemInv) : (finish n t).MemInv := by
        unfold finish
        repeat' split
        · exact h3.trap
        · exact h3
        · exact h2.orUndo h3.launch.putS
      split
      · exact hf _ _ h3
      · exact h3.loadNum hf

theorem outMemInv_execEvsig {d a b} {s : State} (h : s.MemInv) : OutMemInv (execEvsig d a b s) := by
  unfold execEvsig
  refine h.issue (fun _ _ h1 => h1.skipList (fun _ _ h2 => memInv_mirrorS h2) (fun _ _ h2 => ?_))
  split
  · dsimp only
    split
    · exact h2
    · split
      · split
        · exact h2.xlate.of_eq ‹_›
        · repeat' split
          exacts [h2.xlate.of_eq ‹_›, (h2.xlate.of_eq ‹_›).orUndo (h2.xlate.of_eq ‹_›).charge.release.addCounter.putS]
      · exact h2.xlate.of_eq ‹_›
      · exact h2.xlate.of_eq ‹_›
      · exact (h2.xlate.of_eq ‹_›).parkRes
      · exact h2.xlate.of_eq ‹_›
  · dsimp only
    split
    · exact h2
    · split
      · exact h2.xlate.of_eq ‹_›
      · exact h2.xlate.of_eq ‹_›
      · exact h2.xlate.of_eq ‹_›
      · exact (h2.xlate.of_eq ‹_›).parkRes
      · exact h2.xlate.of_eq ‹_›

/-! #### Continuations -/

theorem State.MemInv.storePieces {s : State} {e : Env} {va} {k : State → Res} {l} (h : s.MemInv)
    (hk : ∀ s, s.MemInv → (k s).MemInv) :
    (s.storePieces e va k l).MemInv := by
  induction l generalizing s e va k with
  | nil =>
    unfold State.storePieces
    exact hk _ h
  | cons a l ih =>
    unfold State.storePieces
    split
    · exact ih (h.xlate.of_eq ‹_›).charge.addStore hk
    · exact (h.xlate.of_eq ‹_›).parkRes
    · exact h.xlate.of_eq ‹_›
    · exact (h.xlate.of_eq ‹_›).parkRes
    · exact h.xlate.of_eq ‹_›

theorem State.MemInv.suspend {s : State} {e : Env} {r} (h : s.MemInv) : (s.suspend e r).MemInv := h.vacate.modGroup

theorem outMemInv_execSusp {c a b n} {s : State} (h : s.MemInv) : OutMemInv (execSusp c a b n s) := by
  unfold execSusp
  refine h.issue (fun _ _ h1 => ?_)
  split
  · exact h1.trap
  · split
    · exact h1.trap
    · dsimp only
      split
      · exact h1
      · split
        · exact h1
        · refine h1.skipList (fun _ _ h1 => ?_) (fun _ _ h1 => ?_)
          · repeat' split
            exacts [h1.suspend, h1, h1]
          · split
            · exact h1
            · refine h1.drainUnits (fun _ h1 => ?_)
              repeat' split
              exacts [h1, h1, h1, h1.orUndo (h1.storePieces (fun _ h1 => h1.modCtx.suspend.evalGroup))]

theorem State.MemInv.contRead {s : State} {cid c v core va n l} (h : s.MemInv) :
    (s.contRead cid c v core va n l).2.MemInv := by
  induction n generalizing s cid c v core va l with
  | zero =>
    unfold State.contRead
    exact h
  | succ n ih =>
    unfold State.contRead
    split
    · exact ih (h.translate.of_eq ‹_›).charge
    · exact (h.translate.of_eq ‹_›).fault
    · exact (h.translate.of_eq ‹_›).fault
    · exact h.translate.of_eq ‹_›

theorem outMemInv_execSuspResume {gid} {s : State} (h : s.MemInv) : OutMemInv (execSuspResume gid s) := by
  unfold execSuspResume
  refine State.MemInv.next ?_
  split
  · exact h
  · split
    · split
      · exact h
      · split
        · exact h
        · split
          · exact h.ite (h.contRead.of_eq ‹_›)
          · exact h.ite ((h.contRead.of_eq ‹_›).ite (h.contRead.of_eq ‹_›).modCtx).modPart.modGroup
    · exact h

/-! #### Special registers and seals -/

theorem outMemInv_execRdsr {d n} {s : State} (h : s.MemInv) : OutMemInv (execRdsr d n s) := by
  unfold execRdsr
  refine h.issue (fun _ _ h1 => ?_)
  repeat' split
  exacts [h1.trap, h1.orUndo ((h1.outside.ite_snd h1).of_eq ‹_›).putS]

theorem outMemInv_execWrsr {a n} {s : State} (h : s.MemInv) : OutMemInv (execWrsr a n s) := by
  unfold execWrsr
  refine h.issue (fun _ _ h1 => ?_)
  split
  · dsimp only
    split
    exacts [h1.trap, memInv_passOn h1.updRegs]
  · dsimp only
    split
    exacts [memInv_passOn h1.updRegs, h1.trap]
  · dsimp only
    split
    exacts [memInv_passOn h1.updRegs, h1.trap]
  · split
    · exact h1.trap
    · split
      · dsimp only
        split
        exacts [h1.trap, memInv_passOn h1.upd]
      · dsimp only
        split
        exacts [h1.trap, memInv_passOn h1.modCtx]
  · split
    · exact h1.trap
    · dsimp only
      split
      exacts [h1, memInv_passOn h1.updRegs]
  · exact h1.trap

theorem outMemInv_execSigrd {x} {s : State} (h : s.MemInv) : OutMemInv (execSigrd x s) := by
  unfold execSigrd
  refine h.issue (fun _ _ h1 => ?_)
  split
  exacts [h1.orUndo h1.putS, memInv_passOn h1]

/-! #### Requests -/

theorem State.MemInv.abandonRound {s : State} {rid} (h : s.MemInv) : (s.abandonRound rid).MemInv := by
  unfold State.abandonRound
  dsimp only
  split
  · exact h.popFault
  · split
    · exact h.blockNum
    · refine (h.blockNum.blockWrite.foldl (fun _ _ h1 => ?_)).setReq
      split
      exacts [h1.popFault, h1.blockNum.blockWrite]

theorem State.MemInv.retireReq {s : State} {rid c} (h : s.MemInv) : (s.retireReq rid c).MemInv := by
  unfold State.retireReq
  dsimp only
  split
  exacts [h.setReq, h.setReq.releaseKvFrom.addSignal]

theorem State.MemInv.commitReq {s : State} {rid} (h : s.MemInv) : (s.commitReq rid).2.MemInv := by
  unfold State.commitReq
  dsimp only
  repeat' split
  exacts [h.setReq.retireReq, h.setReq.setReq.retireReq, h.setReq.retireReq, h.setReq]

theorem State.MemInv.settleReq {s : State} {vf rid stepNo t} (h : s.MemInv) :
    (s.settleReq vf rid stepNo t).2.MemInv := by
  unfold State.settleReq
  split
  exact h.setFault.retireReq.ite_snd (h.setReq.ite_snd (h.commitReq.of_eq ‹_›))

theorem State.MemInv.settleReqs {s : State} {vf stepNo t l} (h : s.MemInv) : (s.settleReqs vf stepNo t l).2.MemInv := by
  induction l generalizing s vf stepNo t with
  | nil =>
    unfold State.settleReqs
    exact h
  | cons a l ih =>
    unfold State.settleReqs
    split
    exact ih (h.settleReq.of_eq ‹_›)

theorem State.MemInv.modStream {s : State} {vf k} {f : Stream → Stream} (h : s.MemInv) : (s.modStream vf k f).MemInv :=
  h.setVf

theorem State.MemInv.commitStep {s : State} {vf k} (h : s.MemInv) : (s.commitStep vf k).2.MemInv :=
  (h.foldl (fun _ _ h1 => h1.abandonRound)).settleReqs.modStream

theorem State.MemInv.heldAgain {s : State} (h : s.MemInv) : (s.heldAgain).MemInv := by
  unfold State.heldAgain
  refine h.foldl (fun _ _ h1 => ?_)
  repeat' split
  exacts [h1, h1.settleReq, h1]

theorem outMemInv_execStepcmt {d} {s : State} (h : s.MemInv) : OutMemInv (execStepcmt d s) := by
  unfold execStepcmt
  refine h.issue (fun _ _ h1 => ?_)
  split
  · exact h1.trap
  · split
    · exact h1.trap
    · refine h1.skipList (fun _ _ h1 => memInv_mirrorS h1) (fun _ _ h1 => ?_)
      split
      · exact h1
      · split
        · exact h1
        · split
          · exact h1
          · split
            · exact h1
            · split
              · exact h1
              · exact h1.orUndo (h1.performAt.upd.tellRacers.foldl (fun _ _ h1 =>
                  h1.abandonRound)).settleReqs.modStream.modGrid.putS

theorem outMemInv_execQmov {d a check} {s : State} (h : s.MemInv) : OutMemInv (execQmov d a check s) := by
  unfold execQmov
  split
  · dsimp only
    exact h.issue (fun _ _ h1 => h1.skipList (fun _ _ h2 => memInv_mirrorS h2) (fun _ _ h2 => h2.orUndo (h2.ite_snd
      (h2.ite_snd (h2.ite_snd h2.setReq))).putS))
  · dsimp only
    exact h.issue (fun _ _ h1 => h1.skipList (fun _ _ h2 => memInv_mirrorS h2) (fun _ _ h2 => h2.orUndo (h2.ite_snd
      (h2.ite_snd (h2.ite_snd h2.setReq))).putS))

theorem outMemInv_execSpecv {x} {s : State} (h : s.MemInv) : OutMemInv (execSpecv x s) := by
  unfold execSpecv
  refine h.issue (fun _ _ h1 => ?_)
  split
  · split
    · exact h1.trap
    · dsimp only
      exact h1.skipList (fun _ _ h1 => memInv_mirrorS h1) (fun _ _ h1 => h1.orUndo (h1.ite_snd (h1.ite_snd (h1.ite_snd
        h1.setReq))).putS)
  · exact memInv_passOn h1

/-! #### Populations -/

theorem State.MemInv.arriveAt {s : State} {rid i step} (h : s.MemInv) : (s.arriveAt rid i step).2.MemInv := by
  unfold State.arriveAt
  split
  · exact h.popAt.of_eq ‹_›
  · exact h.popAt.of_eq ‹_›
  · exact (h.popAt.of_eq ‹_›).ite_snd ((h.popAt.of_eq ‹_›).ite_snd (h.popAt.of_eq ‹_›).blockWrite.blockWrite.setReq)

theorem State.MemInv.popDo {s : State} {rid x} (h : s.MemInv) : (s.popDo rid x).2.MemInv := by
  unfold State.popDo
  split
  · repeat' split
    all_goals exact h.popAdd.of_eq ‹_›
  · repeat' split
    all_goals exact h.popAt.of_eq ‹_›
  · repeat' split
    all_goals exact h.popAt.of_eq ‹_›
  · exact h.arriveAt
  · split <;> exact h.popAt.of_eq ‹_›
  · repeat' split
    all_goals exact h.popAt.of_eq ‹_›
  · exact h

theorem State.MemInv.popTests {e : Env} {s : State} {rid uniform ps} {k : State → Res} (h : s.MemInv)
    (hk : ∀ s, s.MemInv → (k s).MemInv) :
    (e.popTests s rid uniform ps k).MemInv := by
  unfold Env.popTests
  repeat' split
  exacts [h.trap, h, h, hk _ h]

theorem State.MemInv.popHere {e : Env} {s : State} {rid uniform ops} {k : List (Nat × Nat) → State → Res}
    (h : s.MemInv) (hk : ∀ x1 s, s.MemInv → (k x1 s).MemInv) :
    (e.popHere s rid uniform ops k).MemInv := by
  unfold Env.popHere
  extract_lets tried
  split
  · exact h
  · split
    · exact h
    · split
      · exact h
      · refine hk _ _ (State.MemInv.foldl_snd h fun acc o h1 => ?_)
        split
        · exact h1.popDo.of_eq ‹_›
        · exact h1.popDo.of_eq ‹_›

theorem State.MemInv.popSend {e : Env} {s : State} {ops probing} (h : s.MemInv) : (e.popSend s ops probing).MemInv := by
  unfold Env.popSend
  split
  exacts [h, (h.charge.foldl (fun _ _ h1 => h1.sendOut)).updSlot]

theorem State.MemInv.popTrap {e : Env} {s : State} {uniform} {k : State → Res} (h : s.MemInv)
    (hk : ∀ s, s.MemInv → (k s).MemInv) :
    (e.popTrap s uniform k).MemInv := by
  unfold Env.popTrap
  repeat' split
  exacts [h, h, hk _ h]

theorem State.MemInv.popThere {e : Env} {s : State} {uniform tests ops} {k : List (Nat × Nat) → State → Res}
    (h : s.MemInv) (hk : ∀ x1 s, s.MemInv → (k x1 s).MemInv) :
    (e.popThere s uniform tests ops k).MemInv := by
  unfold Env.popThere
  extract_lets mine s1
  refine Res.MemInv.ite h (Res.MemInv.ite (State.MemInv.popTrap h.updSlot fun _ h1 => ?_) ?_)
  · exact Res.MemInv.ite (hk _ _ h1) (Res.MemInv.ite (hk _ _ h1) h1.popSend)
  · exact Res.MemInv.ite h.trap (Res.MemInv.ite (Res.MemInv.ite (hk _ _ h) h.popSend)
      (Res.MemInv.ite h.popSend (Res.MemInv.ite h.popSend h.popSend)))

theorem State.MemInv.population {e : Env} {s : State} {uniform tests ops} {k : List (Nat × Nat) → State → Res}
    (h : s.MemInv) (hk : ∀ x1 s, s.MemInv → (k x1 s).MemInv) :
    (e.population s uniform tests ops k).MemInv := by
  unfold Env.population
  split
  · exact h.trap
  · split
    exacts [h.popTests (fun _ h1 => h1.popHere (fun _ _ h2 => hk _ _ h2)), h.popThere (fun _ _ h1 => hk _ _ h1)]

theorem outMemInv_execPlwadd {x} {s : State} (h : s.MemInv) : OutMemInv (execPlwadd x s) := by
  unfold execPlwadd
  refine h.issue (fun _ _ h1 => h1.memUsing (fun _ h2 => ?_))
  split
  · exact h2.recordLanes.memDone
  · split
    · exact h2.population (fun _ _ h1 => h1.recordLanes.memDone)
    · split
      · exact h2.trap
      · split
        · exact h2.popTests (fun _ h1 => h1.popHere (fun _ _ h2 => h1.holdRoom (fun _ h3 => (h3.foldl (fun _ _ h4 =>
            h4.holdAway)).recordLanes.memDone)))
        · exact h2.popThere (fun _ _ h1 => h1.holdRoom (fun _ h2 => (h2.foldl (fun _ _ h3 =>
            h3.holdAway)).recordLanes.memDone))

theorem State.MemInv.popRead {e : Env} {s : State} {x size n} {kind : Nat → FabKind} {got : State → Nat → Nat → Nat}
    (h : s.MemInv) :
    (e.popRead s x size n kind got).MemInv := by
  unfold Env.popRead
  refine h.usingOperands (fun _ => h.flagged (fun _ h2 => ?_))
  split
  · split
    exacts [h2.fromLog.envDeliver, h2.population (fun _ _ h1 => h1.logged.envDeliver)]
  · split
    · dsimp only
      split
      exacts [h2.envDeliver, h2.fromLog.envDeliver]
    · exact h2.population (fun _ _ h1 => (h1.ite h1.logged).envDeliver)

theorem outMemInv_execPlwrd {x} {s : State} (h : s.MemInv) : OutMemInv (execPlwrd x s) := by
  unfold execPlwrd
  refine h.issue (fun _ _ h1 => ?_)
  split <;> exact h1.popRead

theorem outMemInv_execPmap {x} {s : State} (h : s.MemInv) : OutMemInv (execPmap x s) :=
  h.issue (fun _ _ h1 => h1.popRead)

theorem outMemInv_execRsmp {x} {s : State} (h : s.MemInv) : OutMemInv (execRsmp x s) := by
  unfold execRsmp
  refine h.issue (fun _ _ h1 => ?_)
  split
  · split
    · exact h1.trap
    · split
      · refine h1.skipList (fun _ _ h1 => memInv_mirrorS h1) (fun _ _ h1 => ?_)
        split
        exacts [h1, Res.MemInv.andThen (fun _ h1 => h1.release) (h1.population (fun _ _ h1 => h1.orUndo h1.putS))]
      · refine h1.popTests (fun _ h1 => h1.skipList (fun _ _ h2 => memInv_mirrorS h2) (fun _ _ h2 => ?_))
        split
        exacts [h2, Res.MemInv.andThen (fun _ h1 => h1.release) (h2.population (fun _ _ h1 => h1.orUndo h1.putS))]
  · exact memInv_passOn h1

theorem outMemInv_execRngx {x} {s : State} (h : s.MemInv) : OutMemInv (execRngx x s) := by
  unfold execRngx
  refine h.issue (fun _ _ h1 => h1.usingOperands (fun _ => h1.flagged (fun _ h3 => ?_)))
  split
  · repeat' split
    exacts [h3.envDeliver, h3.envDeliver, h3.trap, h3.popTests (fun _ h1 => h1.envDeliver)]
  · repeat' split
    exacts [h3.envDeliver, h3.envDeliver, h3.trap, h3.popTests (fun _ h1 => h1.envDeliver)]

/-! #### Sampling -/

theorem outMemInv_execDrawc {x} {s : State} (h : s.MemInv) : OutMemInv (execDrawc x s) := by
  unfold execDrawc
  refine h.issue fun e s h1 => ?_
  extract_lets u m a first second c n odd fits out bad info put
  refine h1.usingOperands fun fl => h1.flagged fun s h2 => ?_
  have hput (vs : List (Nat × Nat)) (t : State) (h3 : t.MemInv) : (put vs t).MemInv :=
    State.MemInv.envDeliver (h3.ite h3.updRegs)
  split
  · exact h2.trap
  · split
    · exact h2
    · split
      · split
        · exact hput _ _ h2
        · exact hput _ _ h2.fromLog
      · split
        · exact h2
        · extract_lets word draw vs
          exact hput _ _ (h2.ite h2.logged)

/-! #### Fetching -/

theorem State.MemInv.fetchCharge {s : State} {e : Env} {va} (h : s.MemInv) : (s.fetchCharge e va).MemInv :=
  h.ite h.charge

theorem State.MemInv.fetchWords {s : State} {e : Env} {va n l} (h : s.MemInv) : (s.fetchWords e va n l).MemInv := by
  induction n generalizing s e va l with
  | zero =>
    unfold State.fetchWords
    exact h
  | succ n ih =>
    unfold State.fetchWords
    split
    · repeat' split
      exacts [h.xlate.of_eq ‹_›, ih (h.xlate.of_eq ‹_›).fetchCharge]
    · exact h.xlate.of_eq ‹_›
    · exact (h.xlate.of_eq ‹_›).parkRes
    · exact (h.xlate.of_eq ‹_›).parkRes
    · exact h.xlate.of_eq ‹_›

theorem State.MemInv.fetchInstr {s : State} {e : Env} {va pre} (h : s.MemInv) : (s.fetchInstr e va pre).1.MemInv := by
  unfold State.fetchInstr
  repeat' split
  exacts [h.fetchWords.of_stop ‹_›, (h.fetchWords.of_words ‹_›).fetchWords]

theorem State.MemInv.fetchPrefixed {s : State} {e : Env} (h : s.MemInv) : (s.fetchPrefixed e).1.MemInv := by
  unfold State.fetchPrefixed
  split
  · exact h.fetchInstr
  · exact State.MemInv.trap (e := e) (code := .illop) h

theorem State.MemInv.runs {s : State} {u} (h : s.MemInv) : (s.runs u).MemInv := h.modGroup.fields

theorem State.MemInv.fetchUnit {s : State} {gid slot} (h : s.MemInv) : (s.fetchUnit gid slot).MemInv := by
  unfold State.fetchUnit
  split
  · exact h
  · dsimp only
    split
    · exact h
    · split
      · exact h.trap.settle
      · split
        · exact (h.fetchInstr.of_stop_fst ‹_›).settle
        · have h1 := h.fetchInstr.of_words_fst ‹_›
          split
          · split
            · exact h1.trap.settle
            · split
              · exact (h1.fetchPrefixed.of_stop_fst ‹_›).settle
              · exact (h1.fetchPrefixed.of_words_fst ‹_›).trap.settle
          · split
            · exact (h1.fetchPrefixed.of_stop_fst ‹_›).settle
            · exact (h1.fetchPrefixed.of_words_fst ‹_›).runs
          · exact h1.runs

/-! #### Schedulers and waits -/

theorem State.MemInv.wake {s : State} {gid} {f : Wait → Bool} (h : s.MemInv) : (s.wake gid f).MemInv := h.modGroup

theorem State.MemInv.wakeAll {s : State} {f : Wait → Bool} (h : s.MemInv) : (s.wakeAll f).MemInv :=
  h.foldl (fun _ _ h1 => h1.wake)

theorem State.MemInv.swapGroups {s : State} {core part out into} (h : s.MemInv) :
    (s.swapGroups core part out into).MemInv :=
  h.modPart.modGroup.modGroup

theorem State.MemInv.swapPart {s : State} {core part} (h : s.MemInv) : (s.swapPart core part).MemInv := by
  unfold State.swapPart
  dsimp only
  repeat' split
  exacts [h.modPart, h, h, h.modPart, h.swapGroups, h]

theorem State.MemInv.clockPart {s : State} {core part} (h : s.MemInv) : (s.clockPart core part).MemInv :=
  (h.foldl (fun _ _ h1 => h1.modGroup)).foldl (fun _ _ h1 => h1.modGroup)

theorem State.MemInv.swapAll {s : State} (h : s.MemInv) : (s.swapAll).MemInv :=
  h.foldl (fun _ _ h1 => h1.foldl (fun _ _ h2 => h2.swapPart.clockPart))

theorem State.MemInv.noteIssue {s : State} {gid slot} (h : s.MemInv) : (s.noteIssue gid slot).MemInv := by
  unfold State.noteIssue
  repeat' split
  exacts [h, h, h.modPart.modGroup]

theorem State.MemInv.replayEnter {s : State} {e : Env} {i} (h : s.MemInv) : (s.replayEnter e i).MemInv := by
  unfold State.replayEnter
  repeat' split
  exacts [h.modPart, h, h]

/-! #### Matrix operations, carried out -/

theorem State.MemInv.sendEng {s : State} {a op part node va kind} (h : s.MemInv) :
    (s.sendEng a op part node va kind).MemInv :=
  h.fields.sendTo

theorem State.MemInv.awayPiece {s : State} {a op part node va reps kind} (h : s.MemInv) :
    (s.awayPiece a op part node va reps kind).MemInv := by
  unfold State.awayPiece
  repeat' split
  exacts [h, h, h, h, h.charge.sendEng, h.charge.sendEng]

theorem State.MemInv.devPiece {s : State} {a op part va n reps fresh out unit} (h : s.MemInv) :
    (s.devPiece a op part va n reps fresh out unit).MemInv := by
  unfold State.devPiece
  split
  · split
    · exact (h.translate.of_eq ‹_›).charge
    · exact (h.translate.of_eq ‹_›).charge.addStore
  · exact h.translate.of_eq ‹_›
  · exact (h.translate.of_eq ‹_›).fault
  · exact h.translate.of_eq ‹_›
  · split
    · exact (h.translate.of_eq ‹_›).awayPiece
    · exact (h.translate.of_eq ‹_›).awayPiece
    · exact (h.translate.of_eq ‹_›).fields.modTeam

theorem State.MemInv.tilePiece {s : State} {a op dev store va bs} (h : s.MemInv) :
    (s.tilePiece a op dev store va bs).MemInv := by
  unfold State.tilePiece
  repeat' split
  exacts [h, h.devPiece, h.devPiece, h.addStore, h, h, h.devPiece, h.devPiece, h.addStore, h]

theorem State.MemInv.afterEarlier {s : State} {a id} {u} (h : s.MemInv) (he : s.afterEarlier a id = some u) :
    u.MemInv := by
  unfold State.afterEarlier at he
  repeat' split at he
  all_goals cases he
  · exact h.performAt
  · exact h

theorem State.MemInv.matDone {s : State} {gid op err} (h : s.MemInv) : (s.matDone gid op err).MemInv := h.modGroup.wake

theorem State.MemInv.tileRun {s : State} {gid id n} (h : s.MemInv) : (s.tileRun gid id n).MemInv := by
  induction n generalizing s with
  | zero => exact h
  | succ n ih =>
    unfold State.tileRun
    split
    · exact h
    · split
      · exact h
      · extract_lets tile go
        have hgo (dev store : Bool) (b : BitVec 64) (pitch : Nat) (entry : Option Nat) :
            (go dev store b pitch entry).MemInv := by
          unfold go
          extract_lets s1 va
          refine h.ite (State.MemInv.ite (State.MemInv.matDone ?_) ?_)
          · unfold s1
            cases entry with
            | none => exact h
            | some i => exact h.modGroup
          · split
            · exact ih (h.tilePiece.of_done ‹_›).modGroup
            · exact (h.tilePiece.of_park ‹_›).modGroup
            · exact h.tilePiece.of_wait ‹_›
            · exact (h.tilePiece.of_err ‹_›).matDone
        clear_value go
        split
        · exact hgo ..
        · exact hgo ..
        · exact h

theorem State.MemInv.tileMove {s : State} {gid id fuel} (h : s.MemInv) : (s.tileMove gid id fuel).MemInv := by
  unfold State.tileMove
  repeat' split
  exacts [h, h, (h.afterEarlier ‹_›).tileRun]

theorem State.MemInv.tileDone {s : State} {gid op t} (h : s.MemInv) : (s.tileDone gid op t).MemInv := h.modGroup.matDone

theorem outMemInv_execMatrixCompletion {gid idx units} {s : State} (h : s.MemInv) :
    OutMemInv (execMatrixCompletion gid idx units s) := by
  unfold execMatrixCompletion
  refine State.MemInv.next ?_
  split
  · exact h
  · split
    · exact h
    · split
      · exact h
      · split
        · exact h.tileDone
        · exact h.tileDone
        · exact h.tileDone
        · exact h.tileDone
        · exact h.modGroup.tileDone
        · exact h.tileDone
        · split
          exacts [h.matDone, h.tileMove]
        · exact h.tileMove

/-! #### Engine operations, carried out -/

theorem Piece.MemInv.atVa {x : Piece} {va : Nat} (h : x.MemInv) : (x.at va).MemInv := by
  cases x <;> exact h

theorem Got.MemInv.andThen {x : Got} {k : List Byte → State → Got} (h : x.MemInv)
    (hk : ∀ x1 s, s.MemInv → (k x1 s).MemInv) :
    (x.andThen k).MemInv := by
  cases x with
  | val bs t => exact hk _ _ h
  | park w t => exact h
  | wait t => exact h
  | err c va t => exact h

theorem State.MemInv.fabPiece {s : State} {a op part va n reps fresh} (h : s.MemInv) :
    (s.fabPiece a op part va n reps fresh).MemInv := by
  unfold State.fabPiece
  repeat' split
  exacts [h, h.devPiece, h.awayPiece]

theorem State.MemInv.unitPiece {s : State} {a op part va reps fresh ps} (h : s.MemInv) :
    (s.unitPiece a op part va reps fresh ps).MemInv := by
  unfold State.unitPiece
  split
  · exact (h.translate.of_eq ‹_›).charge.foldl (fun _ _ h1 => h1.addStore)
  · exact h.translate.of_eq ‹_›
  · exact (h.translate.of_eq ‹_›).fault
  · exact h.translate.of_eq ‹_›
  · exact (h.translate.of_eq ‹_›).awayPiece

theorem State.MemInv.typedRead {s : State} {a op part va i n reps counted} (h : s.MemInv) :
    (s.typedRead a op part va i n reps counted).MemInv := by
  unfold State.typedRead
  split
  · dsimp only
    repeat' split
    exacts [h.translate.of_eq ‹_›, (h.translate.of_eq ‹_›).charge, h.translate.of_eq ‹_›]
  · exact h.translate.of_eq ‹_›
  · exact (h.translate.of_eq ‹_›).fault
  · exact h.translate.of_eq ‹_›
  · exact (h.translate.of_eq ‹_›).awayPiece

theorem State.MemInv.typedWrite {s : State} {a op part va i n reps fresh l} (h : s.MemInv) :
    (s.typedWrite a op part va i n reps fresh l).MemInv := by
  unfold State.typedWrite
  split
  · dsimp only
    repeat' split
    exacts [h.translate.of_eq ‹_›, (h.translate.of_eq ‹_›).charge.addStore]
  · exact h.translate.of_eq ‹_›
  · exact (h.translate.of_eq ‹_›).fault
  · exact h.translate.of_eq ‹_›
  · exact (h.translate.of_eq ‹_›).awayPiece

theorem State.MemInv.recordElem {s : State} {a op part rs i counted} (h : s.MemInv) :
    (s.recordElem a op part rs i counted).MemInv := by
  unfold State.recordElem
  extract_lets r z va v n loc fresh
  split
  · exact h
  · split
    · refine Piece.MemInv.atVa ?_
      repeat' split
      · exact h
      · exact h.typedRead
      · exact h.awayPiece
      · exact h.typedRead
    · refine Piece.MemInv.atVa ?_
      split
      · exact h.fabPiece
      · exact h.devPiece

theorem State.MemInv.readElem {s : State} {a op n} (h : s.MemInv) : (s.readElem a op n).MemInv := by
  unfold State.readElem
  extract_lets r len
  split
  extract_lets rs half
  split
  · exact h.recordElem
  · split
    refine h.recordElem.andThen fun _ _ h1 => h1.recordElem.andThen fun _ _ h2 => ?_
    extract_lets fva fresh
    split
    · exact h2
    · exact h2.devPiece.atVa.andThen fun _ _ h3 => h3

theorem State.MemInv.readUnit {s : State} {a op l l'} {k : List (Nat × List Byte) → State → Got} (h : s.MemInv)
    (hk : ∀ x1 s, s.MemInv → (k x1 s).MemInv) :
    (s.readUnit a op l l' k).MemInv := by
  induction l generalizing s a op l' k with
  | nil =>
    unfold State.readUnit
    exact hk _ _ h
  | cons a l ih =>
    unfold State.readUnit
    exact h.readElem.andThen (fun _ _ h1 => ih h1 (fun _ _ h2 => hk _ _ h2))

theorem State.MemInv.writeUnit {s : State} {a op ps} (h : s.MemInv) : (s.writeUnit a op ps).MemInv := by
  unfold State.writeUnit
  dsimp only
  split
  · exact h.foldl fun _ _ h1 => h1.addStore
  · split
    · exact h
    · refine Piece.MemInv.atVa ?_
      repeat' split
      exacts [h, h.unitPiece, h.awayPiece, h.unitPiece]

theorem State.MemInv.unitReady {s : State} {a op va} (h : s.MemInv) : (s.unitReady a op va).MemInv := by
  unfold State.unitReady
  repeat' split
  exacts [h, (h.translate.of_eq ‹_›).fault, h.translate.of_eq ‹_›, h.translate.of_eq ‹_›]

theorem State.MemInv.copyUnit {s : State} {a op} (h : s.MemInv) : (s.copyUnit a op).MemInv :=
  h.unitReady.andThen (fun _ _ h1 => h1.readUnit (fun _ _ h2 => h2.writeUnit.andThen (fun _ _ h3 => h3)))

theorem State.MemInv.denseElem {s : State} {a op n} (h : s.MemInv) : (s.denseElem a op n).MemInv := by
  unfold State.denseElem
  dsimp only
  split
  · exact h
  · split
    · exact h
    · refine h.devPiece.atVa.andThen fun _ _ h1 => ?_
      split
      · exact h1
      · exact h1.devPiece.atVa.andThen fun _ _ h2 => h2

theorem State.MemInv.scatFormat {s : State} {a op va} {k : Format → Option Nat → State → Got} (h : s.MemInv)
    (hk : ∀ x1 x2 s, s.MemInv → (k x1 x2 s).MemInv) :
    (s.scatFormat a op va k).MemInv := by
  unfold State.scatFormat
  dsimp only
  split
  · exact hk _ _ _ h
  · split
    · exact hk _ _ _ (h.translate.of_eq ‹_›)
    · exact h.translate.of_eq ‹_›
    · exact (h.translate.of_eq ‹_›).fault
    · exact h.translate.of_eq ‹_›
    · split
      · exact hk _ _ _ (h.translate.of_eq ‹_›)
      · exact (h.translate.of_eq ‹_›).awayPiece.atVa.andThen fun _ _ h1 => hk _ _ _ h1.modGroup

theorem State.MemInv.scatTyped {s : State} {a op l fresh} (h : s.MemInv) : (s.scatTyped a op l fresh).MemInv := by
  induction l generalizing s fresh with
  | nil => exact h
  | cons p rest ih => exact h.typedWrite.atVa.andThen fun _ _ h1 => ih h1

theorem State.MemInv.scatUnit {s : State} {a op} (h : s.MemInv) : (s.scatUnit a op).MemInv := by
  unfold State.scatUnit
  extract_lets r
  split
  extract_lets va
  split
  · exact h
  · refine h.scatFormat fun f node s0 h0 => ?_
    extract_lets ns read
    split
    · exact h0
    · have hread : read.2.MemInv := by
        refine List.foldlRecOn (motive := fun acc : _ × Got => acc.2.MemInv) _ _ h0 fun acc h1 n _ => ?_
        obtain ⟨x, g⟩ := acc
        split
        · rename_i s1 hx
          cases hx
          have h1 : s1.MemInv := h1
          split
          · exact h1.denseElem.of_val ‹_›
          · exact h1.denseElem
        · exact h1
      clear_value read
      obtain ⟨_ | vals, g⟩ := read
      · exact hread
      · cases g with
        | val bs s1 =>
          replace hread : s1.MemInv := hread
          refine Got.MemInv.andThen ?_ fun _ _ h2 => h2
          split
          · exact hread.unitPiece.atVa
          · exact State.MemInv.scatTyped hread
          · split
            · exact hread
            · exact hread.awayPiece.atVa
        | park w t => exact hread
        | wait t => exact hread
        | err c va t => exact hread

theorem State.MemInv.contribute {s : State} {a op fn ty} (h : s.MemInv) : (s.contribute a op fn ty).MemInv :=
  h.charge.fields.foldl (fun _ _ h1 => h1.sendTo)

theorem State.MemInv.collTaken {s : State} {a op} (h : s.MemInv) : (s.collTaken a op).MemInv := h.fields

theorem State.MemInv.collStatus {s : State} {a op code} (h : s.MemInv) : (s.collStatus a op code).MemInv :=
  h.devPiece.atVa

theorem State.MemInv.engDone {s : State} {gid cls id err} (h : s.MemInv) : (s.engDone gid cls id err).MemInv :=
  h.modGroup.wakeAll

theorem Got.MemInv.engGot {s : State} {a cls op} {got : Got} {k : List Byte → State → State} (h : got.MemInv)
    (hk : ∀ x1 s, s.MemInv → (k x1 s).MemInv) :
    (s.engGot a cls op got k).MemInv := by
  unfold State.engGot
  split
  · exact hk _ _ h
  · exact h.setVf.setVf.modGroup
  · exact h.setVf.setVf
  · refine State.MemInv.engDone ?_
    split
    exacts [h.setVf.withdraw.collTaken, h.setVf]

theorem State.MemInv.collStep {s : State} {a op fn ty} (h : s.MemInv) : (s.collStep a op fn ty).MemInv := by
  unfold State.collStep
  extract_lets z e upd got finish ins bytes va n data bs fresh
  have hu (t : State) (f) (h1 : t.MemInv) : (upd t f).MemInv := h1.modGroup
  have hf (code : Nat) : (finish code).MemInv := h.collStatus.engGot fun _ _ h1 => h1.collTaken.engDone
  split
  · exact h
  · split
    · exact h
    · split
      · refine h.readElem.engGot fun _ _ h1 => ?_
        extract_lets d1 s2
        split
        · exact (hu _ _ h1).contribute
        · exact hu _ _ h1
      · repeat' split
        · exact hf _
        · exact h
        · exact hf _
        · exact hf _
        · exact Got.MemInv.engGot (got := .err .access va s) h fun _ _ h1 => h1
        · exact h
        · exact h.charge.devPiece.atVa.engGot fun _ _ h1 => hu _ _ h1

theorem State.MemInv.engRun {s : State} {gid cls id n} (h : s.MemInv) : (s.engRun gid cls id n).MemInv := by
  induction n generalizing s gid cls id with
  | zero =>
    unfold State.engRun
    exact h
  | succ n ih =>
    unfold State.engRun
    split
    · exact h
    · split
      · exact h
      · split
        · repeat' split
          exacts [h, h, h, h, h.collStep]
        · split
          · repeat' split
            exacts [h.engDone, h.engDone, h.engDone, h.engDone, h.collStep]
          · split
            · repeat' split
              exacts [h, h, h, h, h.collStep]
            · split
              · exact h.copyUnit.engGot (fun _ _ h1 => ih h1.charge.modGroup)
              · exact h.copyUnit.engGot (fun _ _ h1 => ih h1.charge.modGroup)
              · exact h.copyUnit.engGot (fun _ _ h1 => ih h1.charge.modGroup)
              · exact h.scatUnit.engGot (fun _ _ h1 => ih h1.charge.modGroup)
              · exact h.collStep

theorem State.MemInv.engMove {s : State} {gid cls id fuel} (h : s.MemInv) : (s.engMove gid cls id fuel).MemInv := by
  unfold State.engMove
  repeat' split
  exacts [h, h, (h.afterEarlier ‹_›).engRun]

theorem outMemInv_execEngineCompletion {gid cls idx units} {s : State} (h : s.MemInv) :
    OutMemInv (execEngineCompletion gid cls idx units s) := by
  unfold execEngineCompletion
  refine State.MemInv.next ?_
  repeat' split
  exacts [h, h, h, h.engMove]

/-! #### What begins -/

theorem State.MemInv.admitGroup {s : State} {core part gid slots} (h : s.MemInv) :
    (s.admitGroup core part gid slots).MemInv :=
  h.modPart

/-! #### Replies delivered -/

theorem State.MemInv.modAnswer {s : State} {r rep} (h : s.MemInv) : (s.modAnswer r rep).MemInv := h.fields

theorem State.MemInv.written {s : State} {o home} (h : s.MemInv) : (s.written o home).MemInv := by
  unfold State.written
  split
  · exact h
  · split
    · dsimp only
      repeat' split
      exacts [h.modGroup.tellEnded.gridTry, h.modGroup.tellEnded, h.modGroup.tellEnded, h.modGroup.tellEnded]
    · dsimp only
      repeat' split
      exacts [h.tellEnded.gridTry, h.tellEnded, h.tellEnded, h.tellEnded]

theorem State.MemInv.deliver {s : State} {id rep} (h : s.MemInv) : (s.deliver id rep).MemInv := by
  unfold State.deliver
  split
  · exact h
  · split
    · split
      · exact h.fields.written.modAnswer
      · split
        · exact h.fields.written.tell.ite h.fields.written
        · split
          · exact h.fields.written.addHint.modGroup
          · exact (h.fields.written.addHint.modGroup.ite h.fields.written.addHint).wake.ite
              (h.fields.written.addHint.modGroup.ite h.fields.written.addHint).wake.wake
    · split
      · exact h.fields.written.modAnswer
      · split
        · exact h.fields.written.tell.ite h.fields.written
        · split
          · exact h.fields.written.modGroup
          · exact (h.fields.written.modGroup.ite h.fields.written).wake.ite (h.fields.written.modGroup.ite
              h.fields.written).wake.wake

theorem State.MemInv.answer {s : State} {r rep} (h : s.MemInv) : (s.answer r rep).MemInv := h.ite (h.deliver.ite h.post)

/-! #### Events: completions -/

theorem outMemInv_execLoadCompletion {gid id lanes} {s : State} (h : s.MemInv) :
    OutMemInv (execLoadCompletion gid id lanes s) := by
  unfold execLoadCompletion
  refine State.MemInv.next ?_
  repeat' split
  exacts [h, h, h.setGroup.wake]

theorem memInv_outState {s : State} {x : Host.Outcome State Fault Refusal} (h : s.MemInv) (hx : OutMemInv x) :
    (outState s x).MemInv := by
  unfold outState
  split
  exacts [hx, h]

theorem State.MemInv.runScratch {s : State} {x} (h : s.MemInv) : (s.runScratch x).MemInv := by
  unfold State.runScratch
  repeat' split
  exacts [memInv_outState h (outMemInv_execLds h), memInv_outState h (outMemInv_execSts h), h]

theorem outMemInv_execFullEmptyWake {gid slot} {s : State} (h : s.MemInv) :
    OutMemInv (execFullEmptyWake gid slot s) := by
  unfold execFullEmptyWake
  refine State.MemInv.next ?_
  split
  · exact h
  · split
    · exact h
    · split
      · exact (h.fetchUnit.of_over ‹_›).fields
      · dsimp only
        split
        · exact (memInv_outState (h.fetchUnit.of_run ‹_›) (outMemInv_execMpx (h.fetchUnit.of_run ‹_›))).runScratch
        · exact (memInv_outState (h.fetchUnit.of_run ‹_›) (outMemInv_execMpx (h.fetchUnit.of_run ‹_›)))
      · exact (h.fetchUnit.of_run ‹_›).runScratch

theorem outMemInv_execAcqrGrant {core part} {s : State} (h : s.MemInv) : OutMemInv (execAcqrGrant core part s) := by
  unfold execAcqrGrant
  refine State.MemInv.next ?_
  repeat' split
  exacts [h, h.modPart.wake, h.modPart.wake, h.modPart.wake, h.grantFull.modPart.wake, h]

theorem State.MemInv.grantKey {s : State} {cid k q} (h : s.MemInv) : (s.grantKey cid k q).MemInv := by
  unfold State.grantKey
  split
  · exact h
  · split
    · repeat' split
      exacts [(h.rebind ‹_›).tellBinds.answer, h.answer, h]
    · exact h.modCtx.answer
    · exact h.modCtx.modGroup.wake

theorem outMemInv_execKeyGrant {cid k} {s : State} (h : s.MemInv) : OutMemInv (execKeyGrant cid k s) := by
  unfold execKeyGrant
  refine State.MemInv.next ?_
  repeat' split
  exacts [h, h, h.modCtx.grantKey, h]

theorem State.MemInv.queueAudit {s : State} {a} (h : s.MemInv) : (s.queueAudit a).MemInv := by
  unfold State.queueAudit
  repeat' split
  all_goals exact h

theorem State.MemInv.endReplay {s : State} {gid g job} (h : s.MemInv) : (s.endReplay gid g job).MemInv :=
  (h.ite h.vacate).fields

theorem State.MemInv.sweep {s : State} (h : s.MemInv) : (s.sweep).MemInv := h.ite h.fields

theorem outMemInv_execGroupRetire {gid} {s : State} (h : s.MemInv) : OutMemInv (execGroupRetire gid s) := by
  unfold execGroupRetire
  refine State.MemInv.next ?_
  repeat' split
  exacts [h, h.endReplay, h, h, h.queueAudit.dropKeys.vacate.dropDetector.modGroup.teamTry.sweep]

theorem State.MemInv.eraseSignal {s : State} {i} (h : s.MemInv) : (s.eraseSignal i).MemInv := h.fields

theorem State.MemInv.sendSignal {s : State} {g vf node} (h : s.MemInv) : (s.sendSignal g vf node).MemInv :=
  h.fields.sendFor

theorem outMemInv_execCompletionSignal {i} {s : State} (h : s.MemInv) : OutMemInv (execCompletionSignal i s) := by
  unfold execCompletionSignal
  refine State.MemInv.next ?_
  split
  · exact h
  · split
    · exact h
    · split
      · exact h.eraseSignal.tell
      · split
        · exact h.eraseSignal.tell
        · split
          · split
            · exact h.ite (h.translateAt.of_eq ‹_›).eraseSignal.charge.addCounter
            · exact (h.translateAt.of_eq ‹_›).eraseSignal.sendSignal
            · exact (h.translateAt.of_eq ‹_›).fault
            · exact h
            · exact (h.translateAt.of_eq ‹_›).eraseSignal.tell

theorem outMemInv_execStorePerformed {id scope} {s : State} (h : s.MemInv) :
    OutMemInv (execStorePerformed id scope s) := by
  unfold execStorePerformed
  refine State.MemInv.next ?_
  split
  · exact h
  · split
    · exact h.performAt.wake
    · dsimp only
      split
      exacts [h.performAt.wake, h.performAt.wake.foldl (fun _ _ h1 => h1.wake)]

/-! #### Events: the fabric -/

theorem State.MemInv.fabAtomic {s : State} {pa op ty x e} (h : s.MemInv) : (s.fabAtomic pa op ty x e).2.2.MemInv :=
  h.settleBytes

theorem State.MemInv.fabAccess {s : State} {pa leaf x} (h : s.MemInv) : (s.fabAccess pa leaf x).2.MemInv := by
  unfold State.fabAccess
  split
  · exact h
  · exact h.modWrite
  · repeat' split
    exacts [(h.fabAtomic.of_eq2 ‹_›).modWrite, h.fabAtomic.of_eq2 ‹_›]
  · exact h.addCounter
  · exact h
  · exact h.modWrite
  · exact h
  · exact h.modWrite
  · exact h.foldl (fun _ _ h1 => h1.modWrite)
  · exact h

theorem State.MemInv.fabPerform {s : State} {c r pa leaf} {out u} (h : s.MemInv)
    (he : s.fabPerform c r pa leaf = some (out, u)) :
    u.MemInv := by
  unfold State.fabPerform at he
  extract_lets n check span write racer s0 at he
  have h0 : s0.MemInv := by
    unfold s0
    cases racer with
    | none => exact h
    | some x => exact h.heard
  clear_value s0 racer
  split at he
  · exact h0.of_some_snd he
  · split at he
    · exact h0.of_some_snd he
    · split at he
      · exact h0.of_some_snd he
      · split at he
        · cases he
        · refine State.MemInv.of_eq (State.MemInv.charge ?_).fabAccess (Option.some.inj he)
          cases racer with
          | none => exact h0
          | some x => exact h0.watch

theorem State.MemInv.fabKey {s : State} {cid c r req who base len} (h : s.MemInv) :
    (s.fabKey cid c r req who base len).MemInv := by
  unfold State.fabKey
  split
  · exact h.modCtx
  · dsimp only
    repeat' split
    exacts [h, h, (h.rebind ‹_›).tellBinds, h.modCtx]
  · dsimp only
    repeat' split
    exacts [h, h.modCtx, h.modCtx]

theorem State.MemInv.fabPopulation {s : State} {cid rid k} (h : s.MemInv) : (s.fabPopulation cid rid k).MemInv := by
  unfold State.fabPopulation
  repeat' split
  exacts [h, h, h, h.popDo.of_eq ‹_›, h, h.popDo.of_eq ‹_›]

theorem State.MemInv.ingress {s : State} {r} (h : s.MemInv) : (s.ingress r).MemInv := by
  unfold State.ingress
  split
  · exact h
  · split
    · exact h
    · split
      · exact h
      · exact h.fabPopulation
      · exact h.fabPopulation
      · exact h.fabPopulation
      · exact h.fabPopulation
      · exact h.fabPopulation
      · exact h.fabPopulation
      · exact h.fabPopulation
      · split
        exacts [h.heard, h]
      · exact h.knowBinds
      · split
        · exact h
        · exact h.translateAt.of_eq ‹_›
        · split
          · exact (h.translateAt.of_eq ‹_›).fabKey
          · split
            · exact h.translateAt.of_eq ‹_›
            · split
              · repeat' split
                exacts [(h.translateAt.of_eq ‹_›).fabPerform ‹_›, h.translateAt.of_eq ‹_›]
              · exact (h.translateAt.of_eq ‹_›).fault
              · exact h.translateAt.of_eq ‹_›
              · exact h.translateAt.of_eq ‹_›

theorem State.MemInv.takeIn {s : State} {r} (h : s.MemInv) : (s.takeIn r).MemInv := by
  unfold State.takeIn
  split
  · exact (h.ingress.of_answer ‹_›).answer
  · exact (h.ingress.of_hold ‹_›).fields
  · exact h.ingress.of_silent ‹_›
  · exact (h.ingress.of_forward ‹_›).tell.answer.ite (h.ingress.of_forward ‹_›).sendFor
  · exact (h.ingress.of_notHome ‹_›).ite ((h.ingress.of_notHome ‹_›).answer.ite (h.ingress.of_notHome ‹_›).post)

theorem State.MemInv.retryHeld {s : State} (h : s.MemInv) : (s.retryHeld).MemInv :=
  h.fields.foldl (fun _ _ h1 => h1.takeIn)

theorem State.MemInv.notHome {s : State} {id} (h : s.MemInv) : (s.notHome id).MemInv := by
  unfold State.notHome
  split
  · exact h
  · extract_lets s0 dest
    have h0 : s0.MemInv := h.dropHint
    split
    · exact h0.deliver
    · clear_value dest
      cases dest with
      | none => exact h0.deliver
      | some n =>
        dsimp only
        split
        · exact State.MemInv.takeIn h0.fields
        · exact State.MemInv.sendFor h0.fields

theorem State.MemInv.arrived {s : State} {x} (h : s.MemInv) : (s.arrived x).MemInv := by
  unfold State.arrived
  repeat' split
  exacts [h.takeIn, h, h.deliver, h, h.notHome]

theorem State.MemInv.comes {s : State} {x} (h : s.MemInv) : (s.comes x).MemInv := h.fields.ite h.arrived

theorem outMemInv_execFabricIngress {r} {s : State} (h : s.MemInv) : OutMemInv (execFabricIngress r s) :=
  h.fields.takeIn.ite h.comes

theorem outMemInv_execFabricReply {id rep} {s : State} (h : s.MemInv) : OutMemInv (execFabricReply id rep s) := h.comes

theorem outMemInv_execNotHome {id} {s : State} (h : s.MemInv) : OutMemInv (execNotHome id s) := h.comes

/-! #### Events: host launches -/

theorem State.MemInv.modAway {s : State} {cid node va len kind} (h : s.MemInv) :
    (s.modAway cid node va len kind).MemInv := by
  unfold State.modAway
  split
  · exact trivial
  · exact trivial
  · exact h
  · dsimp only
    split
    exacts [h, h.charge.fields.sendOut]

theorem State.MemInv.modForget {s : State} {cid vas} (h : s.MemInv) : (s.modForget cid vas).MemInv := h.fields

theorem State.MemInv.modRead {s : State} {cid c va n} (h : s.MemInv) : (s.modRead cid c va n).2.MemInv := by
  unfold State.modRead
  split
  · exact h
  · split
    · exact (h.walkAt.of_eq ‹_›).charge
    · exact (h.walkAt.of_eq ‹_›).fault
    · exact h.walkAt.of_eq ‹_›
    · exact h.walkAt.of_eq ‹_›
    · repeat' split
      exacts [h.walkAt.of_eq ‹_›, (h.walkAt.of_eq ‹_›).modAway.of_wait ‹_›, h.walkAt.of_eq ‹_›]

theorem State.MemInv.readLaunch {s : State} {cid c lrec} (h : s.MemInv) : (s.readLaunch cid c lrec).2.MemInv := by
  unfold State.readLaunch
  split
  · exact h
  · split
    · exact h.modRead.of_eq ‹_›
    · exact h.modRead.of_eq ‹_›
    · exact (h.modRead.of_eq ‹_›).modForget
    · have h1 := h.modRead.of_eq ‹_›
      split
      · exact h1.modForget
      · split
        · exact h1.modRead.of_eq ‹_›
        · exact h1.modRead.of_eq ‹_›
        · exact (h1.modRead.of_eq ‹_›).modForget
        · exact (h1.modRead.of_eq ‹_›).modForget

theorem State.MemInv.hlStatus {s : State} {cmd status} (h : s.MemInv) : (s.hlStatus cmd status).MemInv := h.modWriteNum

theorem State.MemInv.tryLaunch {s : State} {vf x} (h : s.MemInv) : (s.tryLaunch vf x).2.MemInv := by
  unfold State.tryLaunch
  split
  · exact h.hlStatus
  · split
    · exact h.hlStatus
    · split
      · exact h
      · dsimp only
        split
        · exact (h.readLaunch.of_eq ‹_›).hlStatus
        · exact (h.readLaunch.of_eq ‹_›).hlStatus
        · exact h.readLaunch.of_eq ‹_›
        · exact (h.readLaunch.of_eq ‹_›).setVf
        · exact (h.readLaunch.of_eq ‹_›).launch.ite (h.readLaunch.of_eq ‹_›).launch.hlStatus

theorem State.MemInv.hostLaunches {s : State} {vf n} (h : s.MemInv) : (s.hostLaunches vf n).MemInv := by
  induction n generalizing s vf with
  | zero =>
    unfold State.hostLaunches
    exact h
  | succ n ih =>
    unfold State.hostLaunches
    repeat' split
    exacts [h, h.tryLaunch.of_eq ‹_›, ih (h.tryLaunch.of_eq ‹_›).setVf]

theorem State.MemInv.retryLaunches {s : State} (h : s.MemInv) : (s.retryLaunches).MemInv :=
  h.foldl (fun _ _ h1 => h1.ite h1.hostLaunches)

theorem outMemInv_execHlaunch {vf cmd} {s : State} (h : s.MemInv) : OutMemInv (execHlaunch vf cmd s) :=
  h.ite (h.discard.ite h.setVf.hostLaunches)

/-! #### Events: pages -/

theorem State.MemInv.resolve {s : State} {cid page} (h : s.MemInv) : (s.resolve cid page).MemInv := by
  unfold State.resolve
  dsimp only
  split
  exacts [h.wakeAll.fields.retryHeld, h.wakeAll.fields.retryHeld.hostLaunches]

theorem State.MemInv.failSlot {s : State} {gid slot cid page code tier} (h : s.MemInv) :
    (s.failSlot gid slot cid page code tier).MemInv := by
  unfold State.failSlot
  repeat' split
  exacts [h, h, h, h.modGroup.takeTrap, h.modGroup.takeTrap]

theorem State.MemInv.failUnits {s : State} {gid cid page code tier} (h : s.MemInv) :
    (s.failUnits gid cid page code tier).MemInv := by
  unfold State.failUnits
  split
  · exact h
  · refine (State.MemInv.foldl ?_ (fun _ _ h1 => h1.foldl (fun _ _ h2 => ?_))).foldl (fun _ _ h1 => ?_)
    · exact h.modGroup.ite h
    · split
      exacts [Got.MemInv.engGot (got := .err _ _ _) h2 (fun _ _ h1 => h1), h2]
    · split
      exacts [h1.matDone, h1]

theorem State.MemInv.failPage {s : State} {cid page code tier} (h : s.MemInv) :
    (s.failPage cid page code tier).MemInv := by
  unfold State.failPage
  extract_lets s1 mine out0 out s2 hit gone s3
  have h1 : s1.MemInv := h.foldl fun _ _ h1 => h1.failUnits.failSlot.failSlot
  have h2 : s2.MemInv := State.MemInv.foldl h1.fields fun _ _ h2 => h2.answer
  have h3 : s3.MemInv := State.MemInv.foldl h2.fields fun _ _ h3 => h3.tell
  split
  · exact State.MemInv.foldl h1.fields fun _ _ h2 => h2.answer
  · split
    · exact h3
    · exact h3.hostLaunches

theorem State.MemInv.notAllocated {s : State} {c w x} (h : s.MemInv) : (s.notAllocated c w x).MemInv := by
  unfold State.notAllocated
  repeat' split
  exacts [h.failPage, h, h.fault, h]

theorem outMemInv_execGrowAllocate {cid page} {s : State} (h : s.MemInv) : OutMemInv (execGrowAllocate cid page s) := by
  unfold execGrowAllocate
  refine State.MemInv.next ?_
  split
  · split
    · split
      · refine State.MemInv.resolve ?_
        repeat' split
        exacts [(h.allocate.of_eq ‹_›).modWriteNum.kvCount, (h.allocate.of_eq ‹_›).modWriteNum]
      · exact (h.allocate.of_eq ‹_›).notAllocated
    · exact h.resolve.ite h
  · exact h

theorem outMemInv_execCowCopy {cid page} {s : State} (h : s.MemInv) : OutMemInv (execCowCopy cid page s) := by
  unfold execCowCopy
  refine State.MemInv.next ?_
  split
  · split
    · split
      · exact h.resolve.ite h
      · split
        · exact h.modWriteNum.tlbDrop.resolve
        · split
          · exact h
          · split
            · exact (h.allocate.of_eq ‹_›).copyFrame.charge.releaseEntry.modWriteNum.tlbDrop.resolve
            · exact (h.allocate.of_eq ‹_›).notAllocated
    · exact h
  · exact h

theorem State.MemInv.frameBack {s : State} {r} (h : s.MemInv) : (s.frameBack r).MemInv := by
  unfold State.frameBack
  repeat' split
  exacts [h.freeFrame.freePool, h.freeFrame, h.freePool, h, h.freePool, h]

theorem State.MemInv.notMapped {s : State} {c m x} (h : s.MemInv) : (s.notMapped c m x).2.MemInv := by
  unfold State.notMapped
  repeat' split
  exacts [h.failPage, h, h, h.fault, h, h, h]

theorem State.MemInv.hostMap {s : State} {m} (h : s.MemInv) : (s.hostMap m).2.MemInv := by
  unfold State.hostMap
  split
  · exact h
  · split
    · dsimp only
      split
      · repeat' split
        exacts [h, (h.allocatePool.of_eq ‹_›).modWriteNum, (h.allocatePool.of_eq ‹_›).notMapped]
      · repeat' split
        exacts [h, (h.allocatePool.of_eq ‹_›).modWriteNum, (h.allocatePool.of_eq ‹_›).notMapped]
      · repeat' split
        exacts [h, (h.allocatePool.of_eq ‹_›).modWriteNum, (h.allocatePool.of_eq ‹_›).notMapped]
    · split
      · exact h.ite_snd (h.allocate.of_eq ‹_›).modWriteNum.fields.kvRecount
      · exact h.ite_snd (h.allocate.of_eq ‹_›).notMapped

theorem State.MemInv.mapOrWait {s : State} {m} (h : s.MemInv) : (s.mapOrWait m).MemInv := by
  unfold State.mapOrWait
  repeat' split
  exacts [(h.hostMap.of_eq ‹_›).fields, h.hostMap.of_eq ‹_›]

theorem State.MemInv.mapsRun {s : State} (h : s.MemInv) : (s.mapsRun).MemInv := by
  unfold State.mapsRun
  split
  · exact h
  · refine h.fields.foldl (fun _ _ h1 => ?_)
    repeat' split
    exacts [h1, h1.hostMap.of_eq ‹_›]

theorem outMemInv_execPageReply {vf reply} {s : State} (h : s.MemInv) : OutMemInv (execPageReply vf reply s) := by
  unfold execPageReply
  refine State.MemInv.next ?_
  split
  · exact h
  · split
    · exact h
    · split
      · exact h
      · exact h.ite (h.fields.postRequests.frameBack.ite (h.fields.postRequests.kvRecount.resolve.ite
          h.fields.postRequests.failPage))

/-! #### Events: tables and invalidations -/

theorem State.MemInv.setMoves {s : State} {cid page m} (h : s.MemInv) : (s.setMoves cid page m).MemInv := h.fields

theorem State.MemInv.moveHeld {s : State} {f page n dest} (h : s.MemInv) : (s.moveHeld f page n dest).MemInv :=
  h.fields.foldl (fun _ _ h1 => h1.modTeam)

theorem State.MemInv.refuseMove {s : State} {vf} (h : s.MemInv) : (s.refuseMove vf).MemInv := h.setVf

theorem State.MemInv.devCharge {s : State} {i n} (h : s.MemInv) : (s.devCharge i n).MemInv := by
  unfold State.devCharge
  split <;> exact h

theorem State.MemInv.noteMove {s : State} {cid page} (h : s.MemInv) : (s.noteMove cid page).MemInv := h.setMoves

theorem State.MemInv.moveOut {s : State} {c cid first dest pa e level} (h : s.MemInv) :
    (s.moveOut c cid first dest pa e level).MemInv := by
  unfold State.moveOut
  dsimp only
  split
  · exact h.performAt.moveHeld.tlbDrop.modWriteNum.tell.releaseLeaf.devCharge.noteMove.kvCount
  · exact h.performAt.moveHeld.tlbDrop.modWriteNum.tell.releaseLeaf.devCharge.noteMove

theorem State.MemInv.moveIn {s : State} {c cid first pa n e data} (h : s.MemInv) :
    (s.moveIn c cid first pa n e data).MemInv := by
  unfold State.moveIn
  split
  · exact (h.allocateRun ‹_›).modWrite.modWriteNum.leavePool.devCharge.noteMove.kvRecount.ite (h.allocateRun
      ‹_›).modWrite.modWriteNum.leavePool.devCharge.noteMove
  · exact h

theorem outMemInv_execPageMigrate {vf cid page x} {s : State} (h : s.MemInv) :
    OutMemInv (execPageMigrate vf cid page x s) := by
  unfold execPageMigrate
  refine State.MemInv.next ?_
  split
  · exact h
  · split
    · exact h.ite (h.refuseMove.ite (h.modWriteNum.setMoves.tlbDrop.refuseMove.ite (h.ite h.moveOut)))
    · exact h.moveIn.ite h
    · exact h

theorem outMemInv_execRootExpiry {cid page} {s : State} (h : s.MemInv) : OutMemInv (execRootExpiry cid page s) := by
  unfold execRootExpiry
  refine State.MemInv.next ?_
  split
  · split
    · exact h
    · dsimp only
      split
      exacts [h.setMoves.modWriteNum.tlbDrop, h.setMoves]
  · exact h

theorem State.MemInv.invEffect {s : State} {c} (h : s.MemInv) : (s.invEffect c).MemInv := h.performAt.tlbDrop

theorem State.MemInv.hintsDrop {s : State} {c} (h : s.MemInv) : (s.hintsDrop c).MemInv := h.fields

theorem State.MemInv.invStep {s : State} {q rest} (h : s.MemInv) : (s.invStep q rest).2.MemInv := by
  unfold State.invStep
  extract_lets ended
  have hended (t : State) (n : Nat) (h1 : t.MemInv) : (ended t n).2.MemInv := State.MemInv.complete h1.fields
  split
  · exact hended _ _ h
  · split
    · exact hended _ _ h
    · exact hended _ _ h.hintsDrop
    · split
      rename_i waits t heq
      have h1 : t.MemInv := by
        refine State.MemInv.of_eq ?_ heq
        split
        · exact h
        · exact h.invEffect
      split
      · exact h1.fields
      · exact hended _ _ h1.performAt

theorem State.MemInv.invRun {s : State} {n} (h : s.MemInv) : (s.invRun n).MemInv := by
  induction n generalizing s with
  | zero =>
    unfold State.invRun
    exact h
  | succ n ih =>
    unfold State.invRun
    repeat' split
    exacts [h, ih (h.invStep.of_eq ‹_›), h.invStep.of_eq ‹_›]

theorem State.MemInv.invalidation {s : State} {vf c} (h : s.MemInv) : (s.invalidation vf c).MemInv :=
  h.ite (h.discard.ite h.fields.invRun)

theorem outMemInv_execInvalidate {vf c} {s : State} (h : s.MemInv) : OutMemInv (execInvalidate vf c s) :=
  h.ite h.invalidation

theorem outMemInv_execSync {vf c} {s : State} (h : s.MemInv) : OutMemInv (execSync vf c s) := h.ite h.invalidation

theorem outMemInv_execFlushRouteHints {vf c} {s : State} (h : s.MemInv) : OutMemInv (execFlushRouteHints vf c s) :=
  h.ite h.invalidation

/-! #### Events: the dispatcher -/

theorem State.MemInv.placeGroups {s : State} {gr c t tid first reqId} {pair : Nat → Option (Nat × Bool)} {g n}
    (h : s.MemInv) :
    (s.placeGroups gr c t tid first reqId pair g n).MemInv := by
  induction n generalizing s gr c t tid first reqId pair g with
  | zero =>
    unfold State.placeGroups
    exact h
  | succ n ih =>
    unfold State.placeGroups
    exact ih h.setGroup.admitGroup

theorem State.MemInv.placeTeam {s : State} {grid gr c core tid twin} (h : s.MemInv) :
    (s.placeTeam grid gr c core tid twin).MemInv :=
  h.setCore.setTeam.placeGroups.openScratch.ite h.setCore.setTeam.placeGroups

theorem State.MemInv.refill {s : State} {cid prio} (h : s.MemInv) : (s.refill cid prio).MemInv :=
  h.foldl (fun _ _ h1 => h1.enqueueGrid)

theorem State.MemInv.dispatchGrid {s : State} {cid c level grid} {u} (h : s.MemInv)
    (he : s.dispatchGrid cid c level grid = some u) :
    u.MemInv := by
  unfold State.dispatchGrid at he
  split at he
  · cases he
  · split at he
    · cases he
    · split at he
      · cases he
      · extract_lets tid n s0 s1 s2 s3 at he
        have h1 : s1.MemInv := by
          unfold s1
          split
          · exact State.MemInv.placeTeam h.fields
          · exact State.MemInv.placeTeam (State.MemInv.placeTeam h.fields)
        refine State.MemInv.of_some ?_ he
        exact h1.modGrid.ite h1.modGrid.modCtx.refill

theorem State.MemInv.replaceTeam {s : State} {tid t gr core} (h : s.MemInv) : (s.replaceTeam tid t gr core).MemInv := by
  unfold State.replaceTeam
  split
  · refine h.setCore.setTeam.foldl (fun _ _ h1 => ?_)
    repeat' split
    exacts [h1.setGroup.admitGroup, h1.setGroup, h1]
  · refine (h.setCore.setTeam.foldl (fun _ _ h1 => ?_)).charge
    repeat' split
    exacts [h1.setGroup.admitGroup, h1.setGroup, h1]

theorem State.MemInv.endRestores {s : State} {cid l} (h : s.MemInv) : (s.endRestores cid l).MemInv := by
  induction l generalizing s cid with
  | nil =>
    unfold State.endRestores
    exact h
  | cons a l ih =>
    unfold State.endRestores
    exact h.ite (ih h.modCtx.complete)

theorem State.MemInv.endRestore {s : State} {cid} (h : s.MemInv) : (s.endRestore cid).MemInv := by
  unfold State.endRestore
  split
  exacts [h, h.endRestores]

theorem State.MemInv.dispatchSaved {s : State} {cid c tid t gr} {u} (h : s.MemInv)
    (he : s.dispatchSaved cid c tid t gr = some u) :
    u.MemInv := by
  obtain ⟨n, -, rfl⟩ := Option.map_eq_some_iff.1 he
  exact h.replaceTeam.endRestore

theorem State.MemInv.dispatchCtx {s : State} {cid level} {u} (h : s.MemInv) (he : s.dispatchCtx cid level = some u) :
    u.MemInv := by
  unfold State.dispatchCtx at he
  split at he
  · cases he
  · split at he
    · cases he
    · split at he
      · exact h.dispatchSaved he
      · split at he
        · cases he
        · exact h.dispatchGrid he

theorem State.MemInv.dispatchFirst {s : State} {level l} {u} (h : s.MemInv) (he : s.dispatchFirst level l = some u) :
    u.MemInv := by
  induction l with
  | nil => cases he
  | cons cid rest ih =>
    unfold State.dispatchFirst at he
    split at he
    · cases he
      exact (h.dispatchCtx ‹_›).fields
    · exact ih he

theorem State.MemInv.dispatchLevels {s : State} {n} (h : s.MemInv) : (s.dispatchLevels n).MemInv := by
  induction n generalizing s with
  | zero =>
    unfold State.dispatchLevels
    exact h
  | succ n ih =>
    unfold State.dispatchLevels
    repeat' split
    exacts [h.dispatchFirst ‹_›, ih h]

theorem outMemInv_execDispatchTeam {s : State} (h : s.MemInv) : OutMemInv (execDispatchTeam s) := h.dispatchLevels

theorem outMemInv_execPendingDisplace {core part gid} {s : State} (h : s.MemInv) :
    OutMemInv (execPendingDisplace core part gid s) := by
  unfold execPendingDisplace
  refine State.MemInv.next ?_
  repeat' split
  exacts [h.swapGroups, h, h]

/-! #### Events: contexts -/

theorem State.MemInv.command {s : State} {vf cmd} {run : Ctx → State → State} (h : s.MemInv)
    (hrun : ∀ x1 s, s.MemInv → (run x1 s).MemInv) :
    (s.command vf cmd run).MemInv := by
  unfold State.command
  repeat' split
  exacts [h, h.discard, hrun _ _ h, h.complete, h.complete]

theorem State.MemInv.setCst {s : State} {cid cst} (h : s.MemInv) : (s.setCst cid cst).MemInv := by
  unfold State.setCst
  split
  exacts [h, h.setCtx.modWriteNum]

theorem State.MemInv.resumeSteps {s : State} {vf cid} (h : s.MemInv) : (s.resumeSteps vf cid).MemInv :=
  h.foldl (fun _ _ h1 => h1.modStream)

theorem State.MemInv.renewCtx {s : State} {cid} (h : s.MemInv) : (s.renewCtx cid).MemInv := h.fields

theorem State.MemInv.start {s : State} {vf cmd} (h : s.MemInv) : (s.start vf cmd).MemInv := by
  unfold State.start
  split
  · exact h
  · split
    · exact h.discard
    · split
      · exact h.complete
      · split
        · dsimp only
          repeat' split
          exacts [h.complete, h.complete, h.renewCtx.resumeSteps.setCtx.setCst.complete]
        · repeat' split
          exacts [h.complete, h.complete, h.renewCtx.resumeSteps.setCtx.setCst.complete]

theorem State.MemInv.dropRunner {s : State} {gid} (h : s.MemInv) : (s.dropRunner gid).MemInv := by
  unfold State.dropRunner
  split
  exacts [h, h.vacate]

theorem State.MemInv.settleGroup {s : State} {gid} (h : s.MemInv) : (s.settleGroup gid).MemInv := by
  unfold State.settleGroup
  split
  · exact h
  · refine (h.foldl (fun _ _ h1 => memInv_outState h1 (outMemInv_execLoadCompletion h1))).foldl (fun _ _ h1 => ?_)
    split
    exacts [memInv_outState h1 (outMemInv_execMatrixCompletion h1), h1]

theorem State.MemInv.saveGroup {s : State} {cid gid} (h : s.MemInv) : (s.saveGroup cid gid).MemInv :=
  h.performAt.modCtx.withdrawKeys.vacate.modGroup

theorem State.MemInv.finishGroup {s : State} {gid} (h : s.MemInv) : (s.finishGroup gid).MemInv :=
  memInv_outState h (outMemInv_execGroupRetire h.performAt)

theorem State.MemInv.writeSave {s : State} {cid c va n} (h : s.MemInv) : (s.writeSave cid c va n).MemInv := by
  unfold State.writeSave
  refine h.fields.foldl (fun _ _ h1 => ?_)
  dsimp only
  split
  exacts [h1.modWrite, h1]

theorem State.MemInv.settleTeam {s : State} {tid} (h : s.MemInv) : (s.settleTeam tid).MemInv := by
  unfold State.settleTeam
  split
  · exact h
  · refine h.foldl (fun _ _ h1 => ?_)
    repeat' split
    exacts [h1.finishGroup, h1.settleGroup, h1, h1]

theorem State.MemInv.saveTeam {s : State} {cid c tid t k back} (h : s.MemInv) :
    (s.saveTeam cid c tid t k back).MemInv :=
  ((h.foldl (fun _ _ h1 => h1.saveGroup)).freeScratch.modTeam.foldl (fun _ _ h1 => h1.modGroup)).writeSave.charge

theorem State.MemInv.saveOne {s : State} {j tid} (h : s.MemInv) : (s.saveOne j tid).2.MemInv := by
  unfold State.saveOne
  dsimp only
  repeat' split
  exacts [h.settleTeam, h.settleTeam, h.settleTeam, h.settleTeam.saveTeam, h.settleTeam]

theorem State.MemInv.endSave {s : State} {j} (h : s.MemInv) : (s.endSave j).MemInv := by
  unfold State.endSave
  repeat' split
  exacts [h.setCst.complete, h.setCst, h.complete, h]

theorem State.MemInv.runSave {s : State} {j} (h : s.MemInv) : (s.runSave j).MemInv := by
  unfold State.runSave
  split
  · split
    · refine ((h.foldl_snd (fun _ _ h1 => ?_)).of_eq ‹_›).endSave
      split <;> exact h1.saveOne.of_eq ‹_›
    · refine ((h.foldl_snd (fun _ _ h1 => ?_)).of_eq ‹_›).fields
      split <;> exact h1.saveOne.of_eq ‹_›

theorem State.MemInv.savesRun {s : State} (h : s.MemInv) : (s.savesRun).MemInv :=
  h.ite (h.fields.foldl (fun _ _ h1 => h1.runSave))

theorem State.MemInv.stopTeams {s : State} {tids} (h : s.MemInv) : (s.stopTeams tids).MemInv := by
  unfold State.stopTeams
  refine h.foldl (fun _ _ h1 => ?_)
  split
  exacts [h1.foldl (fun _ _ h1 => h1.modGroup), h1]

theorem State.MemInv.beginSave {s : State} {j cores} (h : s.MemInv) : (s.beginSave j cores).MemInv :=
  h.stopTeams.runSave

theorem State.MemInv.preemptOn {s : State} {j cores} (h : s.MemInv) : (s.preemptOn j cores).MemInv := h.modCtx.beginSave

theorem State.MemInv.killGrids {s : State} {cid gs} (h : s.MemInv) : (s.killGrids cid gs).MemInv :=
  ((h.foldl (fun _ _ h1 => h1.dropKeys.stopGroup.dropDetector)).foldl (fun _ _ h1 => h1.freeScratch)).fields.modCtx

theorem State.MemInv.restoreReq {s : State} {rid} (h : s.MemInv) : (s.restoreReq rid).MemInv := h.abandonRound.setReq

theorem State.MemInv.abortSteps {s : State} {vf cid} (h : s.MemInv) : (s.abortSteps vf cid).MemInv :=
  h.foldl (fun _ _ h1 => h1.ite (h1.killGrids.foldl (fun _ _ h2 => h2.restoreReq)).fields.modStream)

theorem State.MemInv.preempt {s : State} {vf cmd} (h : s.MemInv) : (s.preempt vf cmd).MemInv :=
  h.command (fun _ _ h1 => ((h1.foldl (fun _ _ h2 => h2.dropRunner)).abortSteps.ite (h1.foldl (fun _ _ h2 =>
    h2.dropRunner))).preemptOn)

theorem State.MemInv.rereadCcb {s : State} {vf cmd c} (h : s.MemInv) : (s.rereadCcb vf cmd c).MemInv := by
  unfold State.rereadCcb
  dsimp only
  split
  exacts [h, h.modCtx]

theorem State.MemInv.restore {s : State} {vf cmd} (h : s.MemInv) : (s.restore vf cmd).MemInv :=
  h.command (fun _ _ h1 => (h1.rereadCcb.setCst.resumeSteps.modCtx.foldl (fun _ _ h2 => h2.modTeam)).endRestore)

theorem State.MemInv.terminateCmd {s : State} {vf cmd} (h : s.MemInv) : (s.terminateCmd vf cmd).MemInv :=
  h.command (fun _ _ h1 => h1.terminateCtx.complete)

theorem State.MemInv.runCommand {s : State} {vf cmd} (h : s.MemInv) : (s.runCommand vf cmd).MemInv := by
  unfold State.runCommand
  repeat' split
  exacts [h.preempt, h.restore, h.terminateCmd, h.start]

theorem State.MemInv.takeCommand {s : State} {vf cmd} (h : s.MemInv) : (s.takeCommand vf cmd).MemInv :=
  h.ite (h.fields.ite h.runCommand)

theorem State.MemInv.commandsRun {s : State} (h : s.MemInv) : (s.commandsRun).MemInv :=
  h.ite (h.fields.foldl (fun _ _ h1 => h1.takeCommand))

theorem outMemInv_execPreempt {vf cmd} {s : State} (h : s.MemInv) : OutMemInv (execPreempt vf cmd s) :=
  h.ite h.takeCommand

theorem outMemInv_execRestore {vf cmd} {s : State} (h : s.MemInv) : OutMemInv (execRestore vf cmd s) :=
  h.ite h.takeCommand

theorem outMemInv_execTerminate {vf cmd} {s : State} (h : s.MemInv) : OutMemInv (execTerminate vf cmd s) :=
  h.ite h.takeCommand

theorem outMemInv_execStart {vf cmd} {s : State} (h : s.MemInv) : OutMemInv (execStart vf cmd s) := h.ite h.takeCommand

theorem State.MemInv.blankRecords {s : State} {vf rid n} (h : s.MemInv) : (s.blankRecords vf rid n).MemInv := by
  induction n generalizing s vf rid with
  | zero =>
    unfold State.blankRecords
    exact h
  | succ n ih =>
    unfold State.blankRecords
    exact ih h.setReq

theorem State.MemInv.scrubVf {s : State} {vf} (h : s.MemInv) : (s.scrubVf vf).MemInv :=
  ((h.foldl (fun _ _ h1 => h1.setFrame)).foldl (fun _ _ h1 => h1.freePool)).fields

theorem State.MemInv.scrubRun {s : State} {l} (h : s.MemInv) : (s.scrubRun l).MemInv := by
  induction l generalizing s with
  | nil =>
    unfold State.scrubRun
    exact h
  | cons a l ih =>
    unfold State.scrubRun
    exact h.fields.ite (ih h.zeroFrame.devCharge.setFrame.setVf)

theorem State.MemInv.resetPoint {s : State} {cids} (h : s.MemInv) : (s.resetPoint cids).MemInv :=
  h.fields.foldl (fun _ _ h1 => h1.post)

theorem State.MemInv.resetCtxsOf {s : State} {cids} (h : s.MemInv) : (s.resetCtxsOf cids).MemInv :=
  (h.foldl (fun _ _ h1 => h1.terminateCtx)).fields

theorem outMemInv_execVfReset {vf} {s : State} (h : s.MemInv) : OutMemInv (execVfReset vf s) := by
  unfold execVfReset
  extract_lets cids s1 v s2 s3
  have h1 : s1.MemInv := h.resetPoint.resetCtxsOf
  have h3 : s3.MemInv := h1.blankRecords.setVf.scrubVf
  exact h.ite h3.scrubRun.fields

/-! #### Events: steps of the request scheduler -/

theorem outMemInv_execSubmission {vf value} {s : State} (h : s.MemInv) : OutMemInv (execSubmission vf value s) :=
  h.ite (h.discard.ite h.setReq.setVf)

theorem outMemInv_execRecordWindowWrite {src rid off bs} {s : State} (h : s.MemInv) :
    OutMemInv (execRecordWindowWrite src rid off bs s) :=
  h.ite (h.setReq.discard.ite h.setReq)

theorem State.MemInv.rejectRecord {s : State} {rid off} (h : s.MemInv) : (s.rejectRecord rid off).MemInv := by
  unfold State.rejectRecord
  dsimp only
  split
  exacts [h.setReq.addSignal, h.setReq.tell]

theorem State.MemInv.snapshotReq {s : State} {rid} (h : s.MemInv) : (s.snapshotReq rid).MemInv := h.ite h.setReq

theorem State.MemInv.evict {s : State} {rid} (h : s.MemInv) : (s.evict rid).MemInv := by
  unfold State.evict
  dsimp only
  split
  exacts [h.setReq, h.setReq.releaseKvFrom]

theorem State.MemInv.evictAll {s : State} {vf k ktpp out n} (h : s.MemInv) :
    (s.evictAll vf k ktpp out n).2.2.MemInv := by
  induction n generalizing s vf k ktpp out with
  | zero =>
    unfold State.evictAll
    exact h
  | succ n ih =>
    unfold State.evictAll
    repeat' split
    exacts [h, h, ih h.evict]

theorem State.MemInv.evictBeyond {s : State} {vf k} (h : s.MemInv) : (s.evictBeyond vf k).2.MemInv :=
  h.foldl (fun _ _ h1 => h1.evict)

theorem State.MemInv.initPopulation {s : State} {rid} (h : s.MemInv) : (s.initPopulation rid).MemInv := by
  unfold State.initPopulation
  dsimp only
  split
  · exact h.popFault
  · refine h.charge.blockWrite.foldl (fun _ _ h1 => ?_)
    split
    exacts [h1.popFault, h1.charge.blockWrite]

theorem State.MemInv.enter {s : State} {c rid slot} (h : s.MemInv) : (s.enter c rid slot).MemInv :=
  (h.setReq.ite h.setReq.kvMap).setReq.initPopulation

theorem State.MemInv.admitAll {s : State} {vf k c took l} (h : s.MemInv) : (s.admitAll vf k c took l).2.MemInv := by
  induction l generalizing s vf k c took with
  | nil =>
    unfold State.admitAll
    exact h
  | cons a l ih =>
    unfold State.admitAll
    dsimp only
    split
    · exact ih (h.ite h.charge).rejectRecord
    · exact h.ite h.charge
    · repeat' split
      exacts [h, ih h.rejectRecord, ih h.enter, h.charge, ih h.charge.rejectRecord, ih h.charge.enter]

theorem State.MemInv.tablePages {s : State} {cid c page n l} (h : s.MemInv) :
    (s.tablePages cid c page n l).2.MemInv := by
  induction n generalizing s cid c page l with
  | zero =>
    unfold State.tablePages
    exact h
  | succ n ih =>
    unfold State.tablePages
    split
    · exact ih (h.walkAt.of_eq ‹_›)
    · exact ih (h.walkAt.of_eq ‹_›)
    · exact (h.walkAt.of_eq ‹_›).fault
    · exact h.walkAt.of_eq ‹_›
    · exact h.walkAt.of_eq ‹_›

theorem State.MemInv.tableAway {s : State} {cid va bs l} (h : s.MemInv) : (s.tableAway cid va bs l).2.2.2.MemInv := by
  induction l generalizing s cid va bs with
  | nil =>
    unfold State.tableAway
    exact h
  | cons a l ih =>
    unfold State.tableAway
    split
    · exact ih h
    · dsimp only
      repeat' split
      exacts [ih h, ih (h.modAway.of_wait ‹_›), ih h]

theorem State.MemInv.writePages {s : State} {vf off bs l} (h : s.MemInv) : (s.writePages vf off bs l).MemInv := by
  induction l generalizing s vf off bs with
  | nil =>
    unfold State.writePages
    exact h
  | cons a l ih =>
    unfold State.writePages
    split
    exacts [ih h.charge.modWrite, ih h]

theorem State.MemInv.writeTable {s : State} {vf k cid c} (h : s.MemInv) : (s.writeTable vf k cid c).MemInv := by
  unfold State.writeTable
  dsimp only
  split
  · exact h.modStream
  · split
    · exact h
    · split
      · exact (h.tablePages.of_eq ‹_›).modStream
      · exact h.tablePages.of_eq ‹_›
      · exact (h.tablePages.of_eq ‹_›).modStream
      · exact (h.tablePages.of_eq ‹_›).tableAway.ite ((h.tablePages.of_eq ‹_›).tableAway.modForget.modStream.ite
          (h.tablePages.of_eq ‹_›).tableAway.modForget.writePages.modStream)

theorem State.MemInv.joinStep {s : State} {rid} (h : s.MemInv) : (s.joinStep rid).MemInv := h.setReq

theorem outMemInv_execStepStart {vf k} {s : State} (h : s.MemInv) : OutMemInv (execStepStart vf k s) := by
  unfold execStepStart
  extract_lets x ktpp s0 s1
  have h0 : s0.MemInv := h.heldAgain
  have h1 : s1.MemInv := h0.foldl fun _ _ h1 => h1.snapshotReq
  refine State.MemInv.next ?_
  split
  · exact h
  · split
    · exact h.writeTable
    · split
      · exact h
      · split
        · exact h0
        · split
          rename_i out s2 he2
          have h2 : s2.MemInv := h1.evictBeyond.of_eq he2
          split
          rename_i out3 short s3 he3
          have h3 : s3.MemInv := h2.evictAll.of_eq2 he3
          extract_lets order
          split
          rename_i took s4 he4
          have h4 : s4.MemInv := h3.admitAll.of_eq he4
          extract_lets rids s5
          have h5 : s5.MemInv := h4.foldl fun _ _ h => h.joinStep
          split
          exact h5.modStream.writeTable
    · exact h

theorem State.MemInv.failStep {s : State} {vf k idx reason} (h : s.MemInv) : (s.failStep vf k idx reason).MemInv :=
  h.modStream

theorem State.MemInv.launchStep {s : State} {vf k cid c next} (h : s.MemInv) :
    (s.launchStep vf k cid c next).MemInv := by
  unfold State.launchStep
  dsimp only
  split
  · exact h.failStep
  · split
    · exact h
    · split
      · exact (h.readLaunch.of_eq ‹_›).failStep
      · exact (h.readLaunch.of_eq ‹_›).failStep
      · exact h.readLaunch.of_eq ‹_›
      · exact (h.readLaunch.of_eq ‹_›).modStream
      · split
        · exact (h.readLaunch.of_eq ‹_›).failStep
        · split
          · exact (h.readLaunch.of_eq ‹_›).failStep
          · split
            · exact ((h.readLaunch.of_eq ‹_›).launch.of_eq2 ‹_›).modStream
            · exact h.readLaunch.of_eq ‹_›
            · exact ((h.readLaunch.of_eq ‹_›).launch.of_eq2 ‹_›).failStep

theorem outMemInv_execStepGridLaunch {vf k} {s : State} (h : s.MemInv) : OutMemInv (execStepGridLaunch vf k s) := by
  unfold execStepGridLaunch
  refine State.MemInv.next ?_
  repeat' split
  exacts [h, h.launchStep, h, h.launchStep, h]

theorem outMemInv_execCrozierCommit {vf k} {s : State} (h : s.MemInv) : OutMemInv (execCrozierCommit vf k s) := by
  unfold execCrozierCommit
  refine State.MemInv.next ?_
  repeat' split
  exacts [h, h.commitStep, h, h.commitStep, (h.foldl (fun _ _ h1 => h1.setFault)).commitStep.modStream.tell, h]

/-! #### Events: sporangia -/

theorem State.MemInv.sharePage {s : State} {rid cid c hd i j p old} (h : s.MemInv) :
    (s.sharePage rid cid c hd i j p old).2.MemInv := by
  unfold State.sharePage
  dsimp only
  split
  · exact h.charge.tell
  · split
    · refine State.MemInv.kvCount ?_
      split
      · exact h.charge.tlbDrop.setFrame.modWriteNum.tlbDrop.modWriteNum
      · split
        exacts [h.charge.tlbDrop.setFrame.modWriteNum, h.charge.tlbDrop.modWriteNum]
    · refine State.MemInv.kvCount ?_
      split
      · exact h.charge.tlbDrop.setFrame.modWriteNum.tlbDrop.modWriteNum
      · split
        exacts [h.charge.tlbDrop.setFrame.modWriteNum, h.charge.tlbDrop.modWriteNum]

theorem State.MemInv.sharePages {s : State} {rid cid c hd i j p old n} (h : s.MemInv) :
    (s.sharePages rid cid c hd i j p old n).2.MemInv := by
  induction n generalizing s rid cid c hd i j p old with
  | zero =>
    unfold State.sharePages
    exact h
  | succ n ih =>
    unfold State.sharePages
    split
    exact ih (h.sharePage.of_eq ‹_›)

theorem State.MemInv.remap {s : State} {rid cid c hd pages parents} (h : s.MemInv) :
    (s.remap rid cid c hd pages parents).MemInv :=
  ((h.foldl_snd (fun _ _ h1 => h1.sharePages)).foldl (fun _ _ h1 => h1.releaseEntry)).foldl (fun _ _ h1 => h1.foldl (fun
    _ _ h2 => h2.releaseKv))

theorem State.MemInv.popEntries {s : State} {rid i n} (h : s.MemInv) : (s.popEntries rid i n).2.MemInv := by
  induction n generalizing s rid i with
  | zero =>
    unfold State.popEntries
    exact h
  | succ n ih =>
    unfold State.popEntries
    repeat' split
    exacts [h.charge, (ih (h.blockNum.of_eq ‹_›)).of_eq ‹_›]

theorem State.MemInv.resampleFails {s : State} {rid} (h : s.MemInv) : (s.resampleFails rid).MemInv := by
  unfold State.resampleFails
  dsimp only
  split
  exacts [h.popFault.setReq, h.popFault.setReq.blockNum.blockWrite]

theorem outMemInv_execSporangiumComplete {rid} {s : State} (h : s.MemInv) :
    OutMemInv (execSporangiumComplete rid s) := by
  unfold execSporangiumComplete
  refine State.MemInv.next ?_
  split
  · exact h
  · split
    · exact h
    · split
      · exact h
      · exact h.charge.resampleFails.wakeAll
      · split
        · exact (h.popEntries.of_eq ‹_›).resampleFails.wakeAll
        · exact ((h.popEntries.of_eq ‹_›).remap.foldl (fun _ _ h1 =>
            h1.blockWrite)).charge.charge.settleBytes.blockWrite.setReq.addSignal.wakeAll

theorem State.MemInv.stopTimer {s : State} {rid} (h : s.MemInv) : (s.stopTimer rid).MemInv := h.setReq

theorem outMemInv_execDeadlineExpiry {rid} {s : State} (h : s.MemInv) : OutMemInv (execDeadlineExpiry rid s) := by
  unfold execDeadlineExpiry
  refine State.MemInv.next ?_
  repeat' split
  exacts [h, h, (h.blockNum.of_eq ‹_›).stopTimer, (h.blockNum.of_eq ‹_›).blockWrite.setReq, h.stopTimer]

/-! #### Events: audits -/

theorem outMemInv_execAuditReexecution {i core corrupt} {s : State} (h : s.MemInv) :
    OutMemInv (execAuditReexecution i core corrupt s) := by
  unfold execAuditReexecution
  refine State.MemInv.next ?_
  split
  · exact h
  · exact h.ite h.fields.setGrid.setTeam.setGroup.admitGroup.devCharge

theorem State.MemInv.verdictPoints {s : State} {j verdict} (h : s.MemInv) : (s.verdictPoints j verdict).MemInv := by
  unfold State.verdictPoints
  repeat' split
  exacts [h.addPoints, h.addPoints, h.addPoints.addPoints.addPoints]

theorem State.MemInv.verdictFault {s : State} {j verdict} (h : s.MemInv) : (s.verdictFault j verdict).MemInv := by
  unfold State.verdictFault
  repeat' split
  exacts [h, h.setFault, h]

theorem outMemInv_execAuditVerdict {i} {s : State} (h : s.MemInv) : OutMemInv (execAuditVerdict i s) := by
  unfold execAuditVerdict
  refine State.MemInv.next ?_
  repeat' split
  exacts [h, h, h.fields.heldAgain, h, h.fields.verdictPoints.verdictFault.tell.heldAgain]

theorem outMemInv_execReplayCheck {core part mismatch n} {s : State} (h : s.MemInv) :
    OutMemInv (execReplayCheck core part mismatch n s) :=
  h.ite h.modPart.addPoints

theorem outMemInv_execScoreDecay {core} {s : State} (h : s.MemInv) : OutMemInv (execScoreDecay core s) :=
  h.ite h.setCore

theorem State.MemInv.switchSpare {s : State} {core part n} (h : s.MemInv) : (s.switchSpare core part n).MemInv :=
  h.modPart.foldl (fun _ _ h1 => h1.modGroup)

theorem outMemInv_execLaneDiagnosisEnd {core failing} {s : State} (h : s.MemInv) :
    OutMemInv (execLaneDiagnosisEnd core failing s) := by
  unfold execLaneDiagnosisEnd
  refine State.MemInv.next ?_
  split
  · exact h
  · split
    · exact h.fields.devCharge
    · dsimp only
      exact (h.foldl (fun _ _ h1 => h1.switchSpare)).setScore.setCore.takeFree.devCharge

theorem outMemInv_execCoreReturnToService {core} {s : State} (h : s.MemInv) :
    OutMemInv (execCoreReturnToService core s) :=
  h.setCore

theorem State.MemInv.uncorrectable {s : State} {gid} (h : s.MemInv) : (s.uncorrectable gid).MemInv := by
  unfold State.uncorrectable
  repeat' split
  exacts [h, h.stopGroup, h.endGroup.sweep, h.endGroup.tell.sweep]

theorem outMemInv_execUncorrectableError {gid} {s : State} (h : s.MemInv) :
    OutMemInv (execUncorrectableError gid s) := by
  unfold execUncorrectableError
  refine State.MemInv.next ?_
  repeat' split
  exacts [h, h.uncorrectable, h.uncorrectable, h, h]

theorem outMemInv_execLaneSpareSwitch {gid bad} {s : State} (h : s.MemInv) :
    OutMemInv (execLaneSpareSwitch gid bad s) := by
  unfold execLaneSpareSwitch
  refine State.MemInv.next ?_
  repeat' split
  exacts [h, h, h.uncorrectable, h.setGroup]

theorem outMemInv_execBarrierWatchdogExpiry {tid n} {s : State} (h : s.MemInv) :
    OutMemInv (execBarrierWatchdogExpiry tid n s) := by
  unfold execBarrierWatchdogExpiry
  refine State.MemInv.next ?_
  repeat' split
  exacts [h, h, h.terminateCtx, h]

/-! #### Events: the module -/

theorem outMemInv_execBudgetPeriodStart {s : State} (h : s.MemInv) : OutMemInv (execBudgetPeriodStart s) :=
  h.ite h.fields.wakeAll

theorem outMemInv_execPowerStepDown {avg} {s : State} (h : s.MemInv) : OutMemInv (execPowerStepDown avg s) :=
  h.fields.ite h

theorem outMemInv_execPowerStepUp {avg} {s : State} (h : s.MemInv) : OutMemInv (execPowerStepUp avg s) := h.fields.ite h

theorem outMemInv_execModuleReset {r} {s : State} : OutMemInv (execModuleReset r s) := by
  unfold execModuleReset
  extract_lets s0
  have h0 : s0.MemInv := State.memInv_reset
  exact State.MemInv.ite h0 h0

theorem outMemInv_execHbmRegionFill {s : State} (h : s.MemInv) : OutMemInv (execHbmRegionFill s) := by
  unfold execHbmRegionFill
  extract_lets n
  have h1 : State.MemInv { s with mem := s.mem.filter fun c => c.1 / 2 ^ 30 ≠ n } := State.memInv_region n h
  exact h.ite (h1.fields.ite h1.fields)

theorem State.MemInv.refuseGrant {s : State} {vf code} (h : s.MemInv) : (s.refuseGrant vf code).MemInv := h.setVf

theorem State.MemInv.grantCores {s : State} {vf m} (h : s.MemInv) : (s.grantCores vf m).MemInv :=
  h.setVf.foldl (fun _ _ h1 => (h1.foldl (fun _ _ h2 => h2.dropRunner)).beginSave)

theorem State.MemInv.grantRecords {s : State} {vf value} (h : s.MemInv) : (s.grantRecords vf value).MemInv :=
  h.refuseGrant.ite (h.foldl (fun _ _ h1 => h1.setReq)).setVf

theorem State.MemInv.reclaimAbove {s : State} {vf old} (h : s.MemInv) : (s.reclaimAbove vf old).MemInv := h.tell.ite h

theorem outMemInv_execVfGrantWrite {vf off value} {s : State} (h : s.MemInv) :
    OutMemInv (execVfGrantWrite vf off value s) := by
  unfold execVfGrantWrite
  refine State.MemInv.next ?_
  split
  · exact h
  · split
    · exact h.grantCores
    · exact h.grantCores
    · exact h.grantCores
    · exact h.grantCores
    · exact h.grantRecords
    · exact h.setVf.ite h.refuseGrant
    · exact h.refuseGrant.ite (h.setVf.ite h.refuseGrant)
    · exact h.refuseGrant.ite (h.setVf.ite h.refuseGrant)
    · exact h.setVf.ite h.refuseGrant
    · exact h.setVf.ite h.refuseGrant
    · exact h.setVf.ite h.refuseGrant
    · exact h.setVf.reclaimAbove.ite h.refuseGrant
    · exact h.setVf.ite h.refuseGrant
    · exact h.setVf
    · exact h.setVf
    · exact h

theorem outMemInv_execStreamDescriptorWrite {vf k d} {s : State} (h : s.MemInv) :
    OutMemInv (execStreamDescriptorWrite vf k d s) :=
  h.ite h.modStream

theorem State.MemInv.modPort {s : State} {i} {f : Port → Port} (h : s.MemInv) : (s.modPort i f).MemInv := h.fields

theorem outMemInv_execPortGenWrite {i value} {s : State} (h : s.MemInv) : OutMemInv (execPortGenWrite i value s) :=
  h.modPort.ite h

theorem State.MemInv.flushPort {s : State} {i} (h : s.MemInv) : (s.flushPort i).MemInv := h.fields

theorem State.MemInv.takePort {s : State} {i} (h : s.MemInv) : (s.takePort i).MemInv :=
  h.fields.foldl (fun _ _ h1 => h1.arrived)

theorem outMemInv_execPortRetrainDone {i up} {s : State} (h : s.MemInv) : OutMemInv (execPortRetrainDone i up s) :=
  (h.modPort.flushPort.takePort.ite h.modPort).ite h

theorem State.MemInv.attested {s : State} {err} (h : s.MemInv) : (s.attested err).MemInv := h.fields

theorem outMemInv_execAreq {value} {s : State} (h : s.MemInv) : OutMemInv (execAreq value s) := by
  unfold execAreq
  refine State.MemInv.next ?_
  repeat' split
  exacts [h, h.attested, (h.takeFree.of_eq ‹_›).addStore]

theorem State.MemInv.attestEnd {s : State} (h : s.MemInv) : (s.attestEnd).MemInv := by
  unfold State.attestEnd
  repeat' split
  exacts [h, h, h.attested]

theorem State.MemInv.writeVfctl {s : State} {vf value} (h : s.MemInv) : (s.writeVfctl vf value).MemInv :=
  h.ite ((memInv_outState h.setVf (outMemInv_execVfReset h.setVf)).ite h.setVf)

theorem State.MemInv.writeVf {s : State} {vf off value} (h : s.MemInv) : (s.writeVf vf off value).MemInv := by
  unfold State.writeVf
  split
  · exact h.writeVfctl
  · exact h.setVf
  · exact h.setVf
  · exact h.setVf
  · exact h.setVf
  · exact h.setVf
  · exact h.setVf.ite h
  · exact h.setVf.postRequests
  · exact h.setVf.ite h
  · exact h.setVf
  · exact h

theorem State.MemInv.addPool {s : State} {value} (h : s.MemInv) : (s.addPool value).MemInv := h.fields

theorem outMemInv_execRegisterWrite {x value} {s : State} (h : s.MemInv) : OutMemInv (execRegisterWrite x value s) := by
  unfold execRegisterWrite
  refine State.MemInv.next ?_
  repeat' split
  exacts [h, h.mapOrWait, h, h, h.addPool, h, h, h.writeVf, h, h]

/-! #### Scalar arithmetic -/

theorem outMemInv_scalarOp {d} {f : Env → BitVec 64} {s : State} (h : s.MemInv) : OutMemInv (scalarOp d f s) :=
  h.issue (fun _ _ h1 => h1.putS)

theorem outMemInv_execSadd {d a b} {s : State} (h : s.MemInv) : OutMemInv (execSadd d a b s) := outMemInv_scalarOp h

theorem outMemInv_execSsub {d a b} {s : State} (h : s.MemInv) : OutMemInv (execSsub d a b s) := outMemInv_scalarOp h

theorem outMemInv_execSmul {d a b} {s : State} (h : s.MemInv) : OutMemInv (execSmul d a b s) := outMemInv_scalarOp h

theorem outMemInv_execSmulhi {d a b} {s : State} (h : s.MemInv) : OutMemInv (execSmulhi d a b s) := outMemInv_scalarOp h

theorem outMemInv_execSand {d a b} {s : State} (h : s.MemInv) : OutMemInv (execSand d a b s) := outMemInv_scalarOp h

theorem outMemInv_execSor {d a b} {s : State} (h : s.MemInv) : OutMemInv (execSor d a b s) := outMemInv_scalarOp h

theorem outMemInv_execSxor {d a b} {s : State} (h : s.MemInv) : OutMemInv (execSxor d a b s) := outMemInv_scalarOp h

theorem outMemInv_execSshl {d a b} {s : State} (h : s.MemInv) : OutMemInv (execSshl d a b s) := outMemInv_scalarOp h

theorem outMemInv_execSshr {d a b} {s : State} (h : s.MemInv) : OutMemInv (execSshr d a b s) := outMemInv_scalarOp h

theorem outMemInv_execSsar {d a b} {s : State} (h : s.MemInv) : OutMemInv (execSsar d a b s) := outMemInv_scalarOp h

theorem outMemInv_execSsel {d a b} {s : State} (h : s.MemInv) : OutMemInv (execSsel d a b s) := outMemInv_scalarOp h

theorem outMemInv_execSmov {d a} {s : State} (h : s.MemInv) : OutMemInv (execSmov d a s) := outMemInv_scalarOp h

theorem outMemInv_execSli {d imm} {s : State} (h : s.MemInv) : OutMemInv (execSli d imm s) := outMemInv_scalarOp h

theorem outMemInv_execSliLit {d lit} {s : State} (h : s.MemInv) : OutMemInv (execSliLit d lit s) := outMemInv_scalarOp h

theorem outMemInv_execSaddi {d a imm} {s : State} (h : s.MemInv) : OutMemInv (execSaddi d a imm s) :=
  outMemInv_scalarOp h

theorem outMemInv_execSaddiLit {d a lit} {s : State} (h : s.MemInv) : OutMemInv (execSaddiLit d a lit s) :=
  outMemInv_scalarOp h

theorem outMemInv_execScmp {d a b cond} {s : State} (h : s.MemInv) : OutMemInv (execScmp d a b cond s) :=
  outMemInv_scalarOp h

theorem outMemInv_execSbfe {d a b isSigned} {s : State} (h : s.MemInv) : OutMemInv (execSbfe d a b isSigned s) :=
  outMemInv_scalarOp h

theorem outMemInv_execSffs {d a hi} {s : State} (h : s.MemInv) : OutMemInv (execSffs d a hi s) := outMemInv_scalarOp h

theorem outMemInv_execSpopc {d a} {s : State} (h : s.MemInv) : OutMemInv (execSpopc d a s) := outMemInv_scalarOp h

theorem outMemInv_execSdiv {d a b mode} {s : State} (h : s.MemInv) : OutMemInv (execSdiv d a b mode s) :=
  h.issue (fun _ _ h1 => h1.flagged (fun _ h2 => h2.putS))

theorem outMemInv_execSmin {d a b unsigned} {s : State} (h : s.MemInv) : OutMemInv (execSmin d a b unsigned s) :=
  outMemInv_scalarOp h

theorem outMemInv_execSmax {d a b unsigned} {s : State} (h : s.MemInv) : OutMemInv (execSmax d a b unsigned s) :=
  outMemInv_scalarOp h

/-! #### Operations across lanes -/

theorem outMemInv_execShfl {x} {s : State} (h : s.MemInv) : OutMemInv (execShfl x s) :=
  h.issue (fun _ _ h1 => h1.elementwise)

theorem State.MemInv.spread {e : Env} {s : State} {x u fl v} (h : s.MemInv) : (e.spread s x u fl v).MemInv := h.finish

theorem outMemInv_execBallot {x} {s : State} (h : s.MemInv) : OutMemInv (execBallot x s) :=
  h.issue (fun _ _ h1 => h1.usingOperands (fun _ => h1.spread))

theorem outMemInv_execVote {x} {s : State} (h : s.MemInv) : OutMemInv (execVote x s) :=
  h.issue (fun _ _ h1 => h1.usingOperands (fun _ => h1.spread))

theorem outMemInv_execMatchLanes {x} {s : State} (h : s.MemInv) : OutMemInv (execMatchLanes x s) :=
  h.issue (fun _ _ h1 => h1.elementwise)

theorem outMemInv_execRedux {x} {s : State} (h : s.MemInv) : OutMemInv (execRedux x s) :=
  h.issue (fun _ _ h1 => h1.usingOperands (fun _ => h1.spread))

theorem outMemInv_execScan {x} {s : State} (h : s.MemInv) : OutMemInv (execScan x s) :=
  h.issue (fun _ _ h1 => h1.elementwise)

theorem outMemInv_execPrmb {x} {s : State} (h : s.MemInv) : OutMemInv (execPrmb x s) :=
  h.issue (fun _ _ h1 => h1.elementwise)

theorem outMemInv_execXpose {x} {s : State} (h : s.MemInv) : OutMemInv (execXpose x s) :=
  h.issue (fun _ _ h1 => h1.usingOperands (fun _ => h1.finish))

/-! #### Vector control -/

theorem outMemInv_execPlog {x} {s : State} (h : s.MemInv) : OutMemInv (execPlog x s) :=
  h.issue (fun _ _ h1 => h1.finish)

theorem outMemInv_execPmov {x} {s : State} (h : s.MemInv) : OutMemInv (execPmov x s) := by
  unfold execPmov
  refine h.issue (fun _ _ h1 => h1.usingOperands (fun _ => ?_))
  repeat' split
  exacts [h1.flagged (fun _ h1 => h1.envDeliver), h1.finish, h1.finish, h1.finish]

theorem outMemInv_execVget {x} {s : State} (h : s.MemInv) : OutMemInv (execVget x s) :=
  h.issue (fun _ _ h1 => h1.usingOperands (fun _ => h1.finish))

theorem outMemInv_execVput {x} {s : State} (h : s.MemInv) : OutMemInv (execVput x s) :=
  h.issue (fun _ _ h1 => h1.usingOperands (fun _ => h1.flagged (fun _ h3 => h3.envDeliver)))

theorem outMemInv_execBrv {pn pi off} {s : State} (h : s.MemInv) : OutMemInv (execBrv pn pi off s) := by
  unfold execBrv
  refine h.issue (fun _ _ h1 => ?_)
  split
  · dsimp only
    repeat' split
    exacts [h1.updSlot, h1.trap, h1.updSlot, h1.upd.updSlot]
  · split
    · dsimp only
      repeat' split
      exacts [h1.updSlot, h1.trap, h1.updSlot, h1.trap]
    · dsimp only
      split
      · exact h1.updSlot
      · split
        · exact h1.trap
        · split
          · exact h1.updSlot
          · exact h1.orUndo (h1.writeEntry (fun _ h1 => h1.upd.updSlot.ite h1.upd.updSlot))

/-! #### Vector float operations -/

theorem outMemInv_floatOp {x n} {f : Fmt → Nat → Nat → Nat → Nat × Bool} {s : State} (h : s.MemInv) :
    OutMemInv (floatOp x n f s) :=
  h.issue (fun _ _ h1 => h1.elementwise)

theorem outMemInv_execFadd {x} {s : State} (h : s.MemInv) : OutMemInv (execFadd x s) := outMemInv_floatOp h

theorem outMemInv_execFsub {x} {s : State} (h : s.MemInv) : OutMemInv (execFsub x s) := outMemInv_floatOp h

theorem outMemInv_execFmul {x} {s : State} (h : s.MemInv) : OutMemInv (execFmul x s) := outMemInv_floatOp h

theorem outMemInv_execFma {x} {s : State} (h : s.MemInv) : OutMemInv (execFma x s) := outMemInv_floatOp h

theorem outMemInv_execFmin {x} {s : State} (h : s.MemInv) : OutMemInv (execFmin x s) := outMemInv_floatOp h

theorem outMemInv_execFmax {x} {s : State} (h : s.MemInv) : OutMemInv (execFmax x s) := outMemInv_floatOp h

theorem outMemInv_execFcmp {x} {s : State} (h : s.MemInv) : OutMemInv (execFcmp x s) := outMemInv_floatOp h

theorem outMemInv_execFabs {x} {s : State} (h : s.MemInv) : OutMemInv (execFabs x s) := outMemInv_floatOp h

theorem outMemInv_execFneg {x} {s : State} (h : s.MemInv) : OutMemInv (execFneg x s) := outMemInv_floatOp h

theorem outMemInv_execFrcp {x} {s : State} (h : s.MemInv) : OutMemInv (execFrcp x s) := outMemInv_floatOp h

theorem outMemInv_execFrcpz {x} {s : State} (h : s.MemInv) : OutMemInv (execFrcpz x s) := outMemInv_floatOp h

theorem outMemInv_execFrsq {x} {s : State} (h : s.MemInv) : OutMemInv (execFrsq x s) := outMemInv_floatOp h

theorem outMemInv_execFsqrt {x} {s : State} (h : s.MemInv) : OutMemInv (execFsqrt x s) := outMemInv_floatOp h

theorem outMemInv_execFexp2 {x} {s : State} (h : s.MemInv) : OutMemInv (execFexp2 x s) := outMemInv_floatOp h

theorem outMemInv_execFexp {x} {s : State} (h : s.MemInv) : OutMemInv (execFexp x s) := outMemInv_floatOp h

theorem outMemInv_execFlog2 {x} {s : State} (h : s.MemInv) : OutMemInv (execFlog2 x s) := outMemInv_floatOp h

theorem outMemInv_execFsin {x} {s : State} (h : s.MemInv) : OutMemInv (execFsin x s) := outMemInv_floatOp h

theorem outMemInv_execFcos {x} {s : State} (h : s.MemInv) : OutMemInv (execFcos x s) := outMemInv_floatOp h

theorem outMemInv_execFclass {x} {s : State} (h : s.MemInv) : OutMemInv (execFclass x s) := outMemInv_floatOp h

theorem outMemInv_execCvt {x} {s : State} (h : s.MemInv) : OutMemInv (execCvt x s) :=
  h.issue (fun _ _ h1 => h1.elementwise)

theorem outMemInv_execPack {x} {s : State} (h : s.MemInv) : OutMemInv (execPack x s) :=
  h.issue (fun _ _ h1 => h1.elementwise)

theorem outMemInv_execUnpk {x} {s : State} (h : s.MemInv) : OutMemInv (execUnpk x s) :=
  h.issue (fun _ _ h1 => h1.elementwise)

/-! #### Vector integer operations -/

theorem outMemInv_vectorOp {x n} {f : Nat → Nat → Nat → Nat} {s : State} (h : s.MemInv) :
    OutMemInv (vectorOp x n f s) :=
  h.issue (fun _ _ h1 => h1.elementwise)

theorem outMemInv_execIadd {x} {s : State} (h : s.MemInv) : OutMemInv (execIadd x s) := outMemInv_vectorOp h

theorem outMemInv_execIsub {x} {s : State} (h : s.MemInv) : OutMemInv (execIsub x s) := outMemInv_vectorOp h

theorem outMemInv_execImul {x} {s : State} (h : s.MemInv) : OutMemInv (execImul x s) := outMemInv_vectorOp h

theorem outMemInv_execImulhi {x} {s : State} (h : s.MemInv) : OutMemInv (execImulhi x s) := outMemInv_vectorOp h

theorem outMemInv_execImad {x} {s : State} (h : s.MemInv) : OutMemInv (execImad x s) := outMemInv_vectorOp h

theorem outMemInv_execIdiv {x} {s : State} (h : s.MemInv) : OutMemInv (execIdiv x s) :=
  h.issue (fun _ _ h1 => h1.elementwise)

theorem outMemInv_execIrem {x} {s : State} (h : s.MemInv) : OutMemInv (execIrem x s) :=
  h.issue (fun _ _ h1 => h1.elementwise)

theorem outMemInv_execIneg {x} {s : State} (h : s.MemInv) : OutMemInv (execIneg x s) := outMemInv_vectorOp h

theorem outMemInv_execIabs {x} {s : State} (h : s.MemInv) : OutMemInv (execIabs x s) := outMemInv_vectorOp h

theorem outMemInv_execImin {x} {s : State} (h : s.MemInv) : OutMemInv (execImin x s) := outMemInv_vectorOp h

theorem outMemInv_execImax {x} {s : State} (h : s.MemInv) : OutMemInv (execImax x s) := outMemInv_vectorOp h

theorem outMemInv_execIcmp {x} {s : State} (h : s.MemInv) : OutMemInv (execIcmp x s) := outMemInv_vectorOp h

theorem outMemInv_execShl {x} {s : State} (h : s.MemInv) : OutMemInv (execShl x s) := outMemInv_vectorOp h

theorem outMemInv_execShr {x} {s : State} (h : s.MemInv) : OutMemInv (execShr x s) := outMemInv_vectorOp h

theorem outMemInv_execSar {x} {s : State} (h : s.MemInv) : OutMemInv (execSar x s) := outMemInv_vectorOp h

theorem outMemInv_execRotl {x} {s : State} (h : s.MemInv) : OutMemInv (execRotl x s) := outMemInv_vectorOp h

theorem outMemInv_execAnd {x} {s : State} (h : s.MemInv) : OutMemInv (execAnd x s) := outMemInv_vectorOp h

theorem outMemInv_execOr {x} {s : State} (h : s.MemInv) : OutMemInv (execOr x s) := outMemInv_vectorOp h

theorem outMemInv_execXor {x} {s : State} (h : s.MemInv) : OutMemInv (execXor x s) := outMemInv_vectorOp h

theorem outMemInv_execNot {x} {s : State} (h : s.MemInv) : OutMemInv (execNot x s) := outMemInv_vectorOp h

theorem outMemInv_execAndn {x} {s : State} (h : s.MemInv) : OutMemInv (execAndn x s) := outMemInv_vectorOp h

theorem outMemInv_execPopc {x} {s : State} (h : s.MemInv) : OutMemInv (execPopc x s) := outMemInv_vectorOp h

theorem outMemInv_execClz {x} {s : State} (h : s.MemInv) : OutMemInv (execClz x s) := outMemInv_vectorOp h

theorem outMemInv_execBrev {x} {s : State} (h : s.MemInv) : OutMemInv (execBrev x s) := outMemInv_vectorOp h

theorem outMemInv_execBfe {x} {s : State} (h : s.MemInv) : OutMemInv (execBfe x s) := outMemInv_vectorOp h

theorem outMemInv_execBfi {x} {s : State} (h : s.MemInv) : OutMemInv (execBfi x s) := outMemInv_vectorOp h

theorem outMemInv_execSel {x} {s : State} (h : s.MemInv) : OutMemInv (execSel x s) :=
  h.issue (fun _ _ h1 => h1.elementwise)

theorem outMemInv_execMov {x} {s : State} (h : s.MemInv) : OutMemInv (execMov x s) :=
  h.issue (fun _ _ h1 => h1.elementwise)

theorem outMemInv_execMovi {x} {s : State} (h : s.MemInv) : OutMemInv (execMovi x s) :=
  h.issue (fun _ _ h1 => h1.elementwise)

/-! #### Every instruction -/

theorem outMemInv_exec {i} {s : State} (h : s.MemInv) : OutMemInv (exec i s) := by
  unfold exec
  split
  exacts [outMemInv_execNop h, outMemInv_execBr h, outMemInv_execBrc h, outMemInv_execCall h, outMemInv_execRet h,
    outMemInv_execBrx h, outMemInv_execExit h, outMemInv_execJoin h, outMemInv_execBar h, outMemInv_execBarArrive h,
    outMemInv_execFence h, outMemInv_execAcq h, outMemInv_execRel h, outMemInv_execBind h, outMemInv_execUnbind h,
    outMemInv_execWaitc h, outMemInv_execMbatch h, outMemInv_execMwait h, outMemInv_execSusp h, outMemInv_execEvsig h,
    outMemInv_execAcqr h, outMemInv_execRela h, outMemInv_execSetb h, outMemInv_execLaunch h, outMemInv_execTrap h,
    outMemInv_execEret h, outMemInv_execEretSkip h, outMemInv_execRdsr h, outMemInv_execWrsr h, outMemInv_execBkpt h,
    outMemInv_execMpx h, outMemInv_execSeal h, outMemInv_execSealRel h, outMemInv_execStepcmt h, outMemInv_execQmov h,
    outMemInv_execSadd h, outMemInv_execSsub h, outMemInv_execSmul h, outMemInv_execSmulhi h, outMemInv_execSand h,
    outMemInv_execSor h, outMemInv_execSxor h, outMemInv_execSshl h, outMemInv_execSshr h, outMemInv_execSsar h,
    outMemInv_execSmov h, outMemInv_execSli h, outMemInv_execSliLit h, outMemInv_execScmp h, outMemInv_execSbfe h,
    outMemInv_execSffs h, outMemInv_execSpopc h, outMemInv_execSsel h, outMemInv_execSdiv h, outMemInv_execSmin h,
    outMemInv_execSmax h, outMemInv_execSaddi h, outMemInv_execSaddiLit h, outMemInv_execSldu h,
    outMemInv_execSlduLit h, outMemInv_execSstu h, outMemInv_execSstuLit h, outMemInv_execIadd h, outMemInv_execIsub h,
    outMemInv_execImul h, outMemInv_execImulhi h, outMemInv_execImad h, outMemInv_execIdiv h, outMemInv_execIrem h,
    outMemInv_execIneg h, outMemInv_execIabs h, outMemInv_execImin h, outMemInv_execImax h, outMemInv_execIcmp h,
    outMemInv_execShl h, outMemInv_execShr h, outMemInv_execSar h, outMemInv_execRotl h, outMemInv_execAnd h,
    outMemInv_execOr h, outMemInv_execXor h, outMemInv_execNot h, outMemInv_execAndn h, outMemInv_execPopc h,
    outMemInv_execClz h, outMemInv_execBrev h, outMemInv_execBfe h, outMemInv_execBfi h, outMemInv_execSel h,
    outMemInv_execMov h, outMemInv_execMovi h, outMemInv_execFadd h, outMemInv_execFsub h, outMemInv_execFmul h,
    outMemInv_execFma h, outMemInv_execFmin h, outMemInv_execFmax h, outMemInv_execFcmp h, outMemInv_execFabs h,
    outMemInv_execFneg h, outMemInv_execFrcp h, outMemInv_execFrcpz h, outMemInv_execFrsq h, outMemInv_execFsqrt h,
    outMemInv_execFexp2 h, outMemInv_execFexp h, outMemInv_execFlog2 h, outMemInv_execFsin h, outMemInv_execFcos h,
    outMemInv_execFclass h, outMemInv_execCvt h, outMemInv_execPack h, outMemInv_execUnpk h, outMemInv_execShfl h,
    outMemInv_execBallot h, outMemInv_execVote h, outMemInv_execMatchLanes h, outMemInv_execRedux h,
    outMemInv_execScan h, outMemInv_execPrmb h, outMemInv_execXpose h, outMemInv_execBrv h, outMemInv_execPlog h,
    outMemInv_execPmov h, outMemInv_execVget h, outMemInv_execVput h, outMemInv_execLds h, outMemInv_execSts h,
    outMemInv_execAts h, outMemInv_execLdg h, outMemInv_execStg h, outMemInv_execAtg h, outMemInv_execPfg h,
    outMemInv_execGset h, outMemInv_execLdf h, outMemInv_execStf h, outMemInv_execAtf h, outMemInv_execLdk h,
    outMemInv_execReqld h, outMemInv_execReqst h, outMemInv_execCpy h, outMemInv_execGath h, outMemInv_execScat h,
    outMemInv_execColl h, outMemInv_execCpyf h, outMemInv_execCntrd h, outMemInv_execMma h, outMemInv_execMmas h,
    outMemInv_execMqk h, outMemInv_execMsmx h, outMemInv_execMzero h, outMemInv_execMldt h, outMemInv_execMstt h,
    outMemInv_execTmask h, outMemInv_execPlwadd h, outMemInv_execPlwrd h, outMemInv_execRsmp h, outMemInv_execPmap h,
    outMemInv_execRngx h, outMemInv_execDrawc h, outMemInv_execSpecv h, outMemInv_execSigrd h,
    outMemInv_execLoadCompletion h, outMemInv_execFullEmptyWake h, outMemInv_execEngineCompletion h,
    outMemInv_execMatrixCompletion h, outMemInv_execAcqrGrant h, outMemInv_execKeyGrant h, outMemInv_execSuspResume h,
    outMemInv_execGroupRetire h, outMemInv_execCompletionSignal h, outMemInv_execDispatchTeam h,
    outMemInv_execPendingDisplace h, outMemInv_execGrowAllocate h, outMemInv_execCowCopy h, outMemInv_execPageReply h,
    outMemInv_execFabricIngress h, outMemInv_execNotHome h, outMemInv_execPageMigrate h, outMemInv_execRootExpiry h,
    outMemInv_execInvalidate h, outMemInv_execSync h, outMemInv_execFlushRouteHints h, outMemInv_execStart h,
    outMemInv_execPreempt h, outMemInv_execRestore h, outMemInv_execTerminate h, outMemInv_execHlaunch h,
    outMemInv_execSubmission h, outMemInv_execRecordWindowWrite h, outMemInv_execStepStart h,
    outMemInv_execStepGridLaunch h, outMemInv_execCrozierCommit h, outMemInv_execSporangiumComplete h,
    outMemInv_execDeadlineExpiry h, outMemInv_execAuditReexecution h, outMemInv_execAuditVerdict h,
    outMemInv_execReplayCheck h, outMemInv_execScoreDecay h, outMemInv_execLaneDiagnosisEnd h,
    outMemInv_execCoreReturnToService h, outMemInv_execLaneSpareSwitch h, outMemInv_execUncorrectableError h,
    outMemInv_execBarrierWatchdogExpiry h, outMemInv_execBudgetPeriodStart h, outMemInv_execPowerStepDown h,
    outMemInv_execPowerStepUp h, outMemInv_execModuleReset, outMemInv_execHbmRegionFill h, outMemInv_execVfReset h,
    outMemInv_execVfGrantWrite h, outMemInv_execStreamDescriptorWrite h, outMemInv_execPortGenWrite h,
    outMemInv_execPortRetrainDone h, outMemInv_execAreq h, outMemInv_execRegisterWrite h,
    outMemInv_execStorePerformed h, outMemInv_execFabricReply h]

/-! #### An issue -/

theorem State.MemInv.nextMove {s : State} (h : s.MemInv) : (s.nextMove).2.MemInv := by
  unfold State.nextMove
  repeat' split
  all_goals exact h

theorem State.MemInv.deferredRun {s : State} (h : s.MemInv) : (s.deferredRun).MemInv := (h.ite h.flushEgress).lookAgain

theorem State.MemInv.units {s : State} (h : s.MemInv) : (s.units).MemInv :=
  h.scrubRun.invRun.retryLaunches.attestEnd.mapsRun.savesRun.commandsRun.deferredRun

theorem State.MemInv.after {s : State} (h : s.MemInv) : (s.after).MemInv := h.fields.units.sweep.swapAll

theorem outMemInv_mapNext {f : State → State} {x : Host.Outcome State Fault Refusal}
    (h : ∀ s, s.MemInv → (f s).MemInv) (hx : OutMemInv x) :
    OutMemInv (mapNext f x) := by
  unfold mapNext
  repeat' split
  exacts [h _ hx, hx, hx]

theorem outMemInv_runPrefixed {p} {s : State} (h : s.MemInv) : OutMemInv (runPrefixed p s) := by
  unfold runPrefixed
  split
  · split
    · repeat' split
      exacts [outMemInv_exec ((outMemInv_exec h).of_next ‹_›), (outMemInv_exec h).of_next ‹_›]
    · exact (outMemInv_exec h).of_next ‹_›
  · exact outMemInv_exec h

theorem outMemInv_runUnit {i} {s : State} (h : s.MemInv) : OutMemInv (runUnit i s) := by
  unfold runUnit
  split
  exacts [outMemInv_runPrefixed h, outMemInv_exec h]

theorem State.MemInv.outOfTurn {s : State} {gid slot} (h : s.MemInv) : (s.outOfTurn gid slot).MemInv := h.modGroup.after

theorem State.MemInv.resumes {s : State} {gid slot} (h : s.MemInv) : (s.resumes gid slot).MemInv := h.modGroup.after

theorem State.MemInv.runFor {s : State} {e : Env} {i} (h : s.MemInv) : OutMemInv (s.runFor e i) := by
  unfold State.runFor
  split
  exacts [h.takeTrap, outMemInv_runUnit h]

theorem State.MemInv.issueReady {s : State} {gid slot} (h : s.MemInv) : OutMemInv (s.issueReady gid slot) := by
  unfold State.issueReady
  split
  · exact (h.noteIssue.fetchUnit.of_over ‹_›).after
  · split
    · exact (h.noteIssue.fetchUnit.of_run ‹_›).after
    · split
      · split
        · dsimp only
          split <;> exact h.outOfTurn
        · dsimp only
          repeat' split
          exacts [h.outOfTurn, ((h.noteIssue.fetchUnit.of_run ‹_›).runFor.of_next ‹_›).replayEnter.after]
      · dsimp only
        repeat' split
        exacts [h.outOfTurn, (h.noteIssue.fetchUnit.of_run ‹_›).runFor]

theorem State.MemInv.tryWaiting {s : State} {gid slot pc} (h : s.MemInv) : OutMemInv (s.tryWaiting gid slot pc) := by
  unfold State.tryWaiting
  split
  · exact (h.fetchUnit.of_over ‹_›).after.ite h.resumes
  · split
    · exact (h.fetchUnit.of_run ‹_›).after
    · split
      · exact h.after
      · repeat' split
        exacts [((h.fetchUnit.of_run ‹_›).runFor.of_next ‹_›).after, h.resumes, (h.fetchUnit.of_run ‹_›).runFor]

theorem State.MemInv.issueFrom {s : State} {gid slot} (h : s.MemInv) : OutMemInv (s.issueFrom gid slot) := by
  unfold State.issueFrom
  repeat' split
  exacts [h.after, h.after, h.tryWaiting, h.after, h.issueReady]

theorem State.MemInv.make {s : State} {x} (h : s.MemInv) : OutMemInv (s.make x) := by
  unfold State.make
  split
  · exact h.issueFrom
  · exact h.modGroup.after
  · exact h.modGroup.after
  · split
    exacts [outMemInv_mapNext (fun _ h1 => h1.after) (outMemInv_exec h), h.after]
  · exact h.fields.after

theorem State.MemInv.stepOnce {s : State} (h : s.MemInv) : OutMemInv (s.stepOnce) := by
  unfold State.stepOnce
  refine State.MemInv.make ?_
  repeat' split
  all_goals exact h

/-! #### A step -/

theorem outMemInv_step {s : State} (h : s.MemInv) : OutMemInv (step s) := h.stepOnce

/-- Settles O58: whatever a step makes, it makes by operations of which each keeps memory in form. -/
theorem stepKeepsMemory : Obligations.StepKeepsMemory := by
  unfold Obligations.StepKeepsMemory
  intro s t h hs
  exact (outMemInv_step h).of_next hs

end Sys2Proof.Machine
end

section
namespace Sys2Proof.Machine

set_option Elab.async false

/-! ### What a fetch reads, and the moves that issue nothing (O20) -/

/-! #### The words of an instruction -/

/-- No budget bounds an unmetered VF, so nothing is taken from one (R65). -/
theorem State.Unmetered.charge {s : State} {vf : Nat} (h : s.Unmetered vf) (cls n : Nat) : s.charge vf cls n = s := by
  unfold State.charge
  simp only [h cls]

theorem State.Unmetered.fetchCharge {s : State} {e : Env} (h : s.Unmetered e.c.vf) (va : Nat) : s.fetchCharge e va = s := by
  unfold State.fetchCharge
  split
  · rfl
  · exact h.charge 0 64

/-- The word that lies at a physical address, as the module sees it at device scope (R100). -/
def State.wordAt (s : State) (pa : Nat) : Word := BitVec.ofNat 32 (s.num .module none pa 4)

/-- A word whose page is mapped for execution is read, and the rest of the words after it. -/
theorem State.fetchWords_succ {s : State} {e : Env} {va pa n : Nat} {leaf : BitVec 64} (ws : List Word)
    (hm : s.Unmetered e.c.vf) (hb : e.hbm = true) (hx : s.xlate e va 3 = (.ok pa leaf, s)) :
    s.fetchWords e va (n + 1) ws = s.fetchWords e (va + 4) n (ws ++ [s.wordAt pa]) := by
  simp only [State.fetchWords, hx, hb, hm.fetchCharge, State.wordAt, Bool.not_true, Bool.false_and, Bool.false_eq_true, if_false]

/-- Words that follow one another on pages mapped for execution are read in their order. -/
theorem State.fetchWords_mapped {s : State} {e : Env} {pa : Nat} {leaf : BitVec 64} (hm : s.Unmetered e.c.vf) (hb : e.hbm = true)
    (n va i : Nat) (ws : List Word) (hx : ∀ k, i ≤ k → k < i + n → s.xlate e (va + 4 * k) 3 = (.ok (pa + 4 * k) leaf, s)) :
    s.fetchWords e (va + 4 * i) n ws = .words (ws ++ (List.range' i n).map fun k => s.wordAt (pa + 4 * k)) s := by
  induction n generalizing i ws with
  | zero => simp [State.fetchWords]
  | succ n ih =>
    have hnext : va + 4 * i + 4 = va + 4 * (i + 1) := by omega
    rw [State.fetchWords_succ ws hm hb (hx i (by omega) (by omega)), hnext,
      ih (i + 1) _ fun k h1 h2 => hx k (by omega) (by omega)]
    simp [List.range'_succ]

theorem wordLen_eq_extractLsb' (w : Word) : wordLen w = (w.extractLsb' 30 2).toNat := by
  simp [wordLen, bits, Nat.shiftRight_eq_div_pow]

/-- The words of an instruction by the LEN field of its first word (R82). -/
theorem lenWords_wordLen (w : Word) : lenWords (wordLen w) = match w.extractLsb' 30 2 with
    | 0 => 1
    | 3 => 5
    | _ => 3 := by
  rw [wordLen_eq_extractLsb']
  generalize w.extractLsb' 30 2 = len
  revert len
  decide

theorem lenWords_pos (n : Nat) : 0 < lenWords n := by
  unfold lenWords
  split <;> decide

theorem lenWords_le (n : Nat) : lenWords n ≤ 5 := by
  unfold lenWords
  split <;> decide

/-- An instruction whose words all lie on pages mapped for execution is fetched whole, by the LEN of its first word (R82, R100). -/
theorem State.fetchInstr_mapped {s : State} {e : Env} {va pa : Nat} {leaf : BitVec 64} (hm : s.Unmetered e.c.vf) (hb : e.hbm = true)
    (hx : ∀ k, k < 5 → s.xlate e (va + 4 * k) 3 = (.ok (pa + 4 * k) leaf, s)) :
    s.fetchInstr e va 0 =
      (.words ((List.range (lenWords (wordLen (s.wordAt pa)))).map fun k => s.wordAt (pa + 4 * k)) s,
        4 * lenWords (wordLen (s.wordAt pa))) := by
  have hfirst : s.fetchWords { e with len := 0 + 4 } va 1 [] = .words [s.wordAt pa] s :=
    State.fetchWords_mapped (e := { e with len := 0 + 4 }) hm hb 1 va 0 [] fun k _ _ => hx k (by omega)
  obtain ⟨m, hlen⟩ : ∃ m, lenWords (wordLen (s.wordAt pa)) = m + 1 := Nat.exists_eq_add_one.mpr (lenWords_pos _)
  have hle := lenWords_le (wordLen (s.wordAt pa))
  have hrest := State.fetchWords_mapped (e := { e with len := 0 + 4 * (m + 1) }) (leaf := leaf) hm hb m va 1 [s.wordAt pa]
    fun k _ _ => hx k (by omega)
  unfold State.fetchInstr
  simp only [hfirst, List.headD_cons, hlen, Nat.add_sub_cancel]
  rw [show va + 4 = va + 4 * 1 from rfl, hrest]
  simp [List.range_eq_range', List.range'_succ]

/-! #### The move that a step makes -/

/-- What is due goes before the schedule (log 114). -/
theorem step_of_due {s : State} {i : Instr} {l : List Instr} (h : s.due = i :: l) :
    step s = (s.clocked s.sched).make (.event i) := by
  unfold step State.stepOnce State.nextMove
  simp only [h]
  rfl

/-- With nothing due a step makes the next move of the schedule, one cycle having passed (logs 21, 25). -/
theorem step_of_sched {s : State} {m : Move} {rest : List Move} (hd : s.due = []) (hs : s.sched = m :: rest) :
    step s = (s.clocked rest).make m := by
  unfold step State.stepOnce State.nextMove
  simp only [hd, hs]
  rfl

theorem State.make_event {s : State} {i : Instr} (h : encode i = []) : s.make (.event i) = mapNext State.after (exec i s) :=
  if_pos (decide_eq_true h)

/-- A slot that may not act, that waits for an event alone, or that its partition does not select issues nothing (R62, R63). -/
theorem State.issueFrom_idle {s : State} {gid : Nat} {slot : Bool} {g : Group} (hg : s.group? gid = some g)
    (h : g.mayAct slot = false ∨ (g.slot slot).wait.rests = true ∨ ((g.slot slot).wait = .ready ∧ s.selects gid slot = false)) :
    s.issueFrom gid slot = .next s.after := by
  unfold State.issueFrom
  rw [hg]
  rcases h with h | h | ⟨hw, hs⟩
  · simp [h]
  · simp [h]
  · simp [hw, hs]

/-- Settles O20: the fetch by the LEN of the first word, the moves by what `step` makes of each. -/
theorem fetchesAndOtherMoves : Obligations.FetchesAndOtherMoves := by
  unfold Obligations.FetchesAndOtherMoves
  refine ⟨fun s e pa leaf hm hb hx => ?_, fun s i l hd he => ?_, fun s rest hd => ⟨fun i hs he => ?_, fun n hs => ?_,
    fun gid id hs => ?_, fun gid slot n hs => ?_, fun gid slot g hs hg h => ?_⟩⟩
  · rw [State.fetchInstr_mapped hm hb hx, lenWords_wordLen]
    rfl
  · rw [step_of_due hd, State.make_event he]
  · rw [step_of_sched hd hs, State.make_event he]
  · rw [step_of_sched hd hs]
    rfl
  · rw [step_of_sched hd hs]
    rfl
  · rw [step_of_sched hd hs]
    rfl
  · rw [step_of_sched hd hs]
    exact State.issueFrom_idle hg h

end Sys2Proof.Machine
end
section
namespace Sys2Proof.Machine

set_option Elab.async false

/-! ### Context commands (O50) -/

/-! #### Maps -/

theorem Map.get?_map {α β : Type} {f : Nat × α → Nat × β} (hf : ∀ p, (f p).1 = p.1) (m : Map α) (i : Nat) :
    Map.get? (m.map f) i = (Map.get? m i).map fun x => (f (i, x)).2 := by
  induction m with
  | nil => rfl
  | cons p m ih =>
    obtain ⟨k, x⟩ := p
    rw [List.map_cons, show f (k, x) = (k, (f (k, x)).2) from Prod.ext (hf _) rfl]
    by_cases h : k = i
    · simp [Map.get?, h]
    · simp [Map.get?, h, ih]

theorem Map.mem_of_get? {α : Type} {m : Map α} {i : Nat} {x : α} (h : Map.get? m i = some x) : (i, x) ∈ m := by
  induction m with
  | nil => cases h
  | cons p m ih =>
    by_cases hp : p.1 = i
    · subst hp
      simp only [Map.get?, if_true, Option.some.injEq] at h
      subst h
      exact List.mem_cons_self
    · simp only [Map.get?, hp, if_false] at h
      exact List.mem_cons_of_mem _ (ih h)

theorem Map.get?_eq_none {α : Type} {m : Map α} {i : Nat} (h : ∀ p ∈ m, p.1 ≠ i) : Map.get? m i = none := by
  cases hx : Map.get? m i with
  | none => rfl
  | some x => exact absurd rfl (h _ (Map.mem_of_get? hx))

/-! #### What stores leave unchanged

A store issued or performed changes memory, the pending stores, the scratchpad bytes of teams, and the number of the next store;
every other field of the state after it is read off that. -/

/-- A team without what stores, and the freeing of its scratchpad, change of it. -/
def Team.still (t : Team) : Team := { t with sp := [], full := [], spans := [] }

/-- A state after another where only stores were issued or performed in between. -/
structure State.Stored (s t : State) : Prop where
  only : ∃ m ps tm n, t = { s with mem := m, pend := ps, teams := tm, nextId := n }
  still : ∀ tid, (t.team? tid).map Team.still = (s.team? tid).map Team.still

namespace State.Stored

variable {s t u : State}

theorem refl (s : State) : s.Stored s := ⟨⟨_, _, _, _, rfl⟩, fun _ => rfl⟩

theorem trans (h : s.Stored t) (h' : t.Stored u) : s.Stored u := by
  obtain ⟨⟨m, ps, tm, n, rfl⟩, hs⟩ := h
  obtain ⟨⟨m', ps', tm', n', rfl⟩, hs'⟩ := h'
  exact ⟨⟨m', ps', tm', n', rfl⟩, fun tid => (hs' tid).trans (hs tid)⟩

/-- Memory, pending stores and the next number changed. -/
theorem fields (h : s.Stored t) (m : List Host.Cell) (ps : List PStore) (n : Nat) :
    s.Stored { t with mem := m, pend := ps, nextId := n } :=
  h.trans ⟨⟨m, ps, t.teams, n, rfl⟩, fun _ => rfl⟩

theorem modTeam (h : s.Stored t) (i : Nat) (f : Team → Team) (hf : ∀ x, (f x).still = x.still) : s.Stored (t.modTeam i f) := by
  refine h.trans ?_
  unfold State.modTeam
  split
  · rename_i x hx
    refine ⟨⟨t.mem, t.pend, Map.set t.teams i (f x), t.nextId, rfl⟩, fun tid => ?_⟩
    by_cases hi : tid = i
    · subst hi
      simp [hx, hf]
    · rw [State.team?_setTeam_ne _ _ _ _ hi]
  · exact refl t

theorem foldl {α : Type} {f : State → α → State} (h : s.Stored t) (hf : ∀ u a, s.Stored u → s.Stored (f u a)) (l : List α) :
    s.Stored (l.foldl f t) :=
  List.foldlRecOn (motive := fun u => s.Stored u) _ _ h fun u hu a _ => hf u a hu

theorem commit (h : s.Stored t) (p : PStore) : s.Stored (t.commit p) := by
  unfold State.commit
  split
  · exact h.fields _ _ _
  · exact h.modTeam _ _ fun _ => rfl

theorem drainFrom (h : s.Stored t) (ps kept : List PStore) : s.Stored (t.drainFrom ps kept) := by
  induction ps generalizing t kept with
  | nil => exact h.fields _ _ _
  | cons p ps ih =>
    unfold State.drainFrom
    split
    · exact ih (h.commit p) _
    · exact ih h _

theorem drain (h : s.Stored t) : s.Stored t.drain := h.drainFrom _ _

theorem still_fill (x : Team) (a n : Nat) : (x.fill a n).still = x.still := by
  unfold Team.fill
  split <;> rfl

theorem fillOf (h : s.Stored t) (f : PStore → Bool) (ps : List PStore) : s.Stored (t.fillOf f ps) := by
  induction ps generalizing t with
  | nil => exact h
  | cons p ps ih =>
    unfold State.fillOf
    refine ih ?_
    split
    · split
      · exact h.modTeam _ _ fun x => still_fill x _ _
      · exact h
    · exact h

theorem performAt (h : s.Stored t) (x : Scope) (f : PStore → Bool) : s.Stored (t.performAt x f) := by
  unfold State.performAt
  refine (fields ?_ _ _ _).drain
  split
  · exact h.fillOf _ _
  · exact h

theorem settleBytes (h : s.Stored t) (sp : Option Nat) (a n : Nat) (x : Scope) : s.Stored (t.settleBytes sp a n x) :=
  h.performAt _ _

theorem modWrite (h : s.Stored t) (a : Nat) (bs : List Byte) : s.Stored (t.modWrite a bs) := by
  unfold State.modWrite State.addStore
  split
  · exact h
  · exact (h.fields _ _ _).drain

theorem modWriteNum (h : s.Stored t) (a n x : Nat) : s.Stored (t.modWriteNum a n x) := h.modWrite _ _

theorem complete (h : s.Stored t) (a : BitVec 64) (n : Nat) : s.Stored (t.complete a n) :=
  (h.settleBytes _ _ _ _).modWriteNum _ _ _

variable (h : s.Stored t)
include h

theorem ctxs : t.ctxs = s.ctxs := by
  obtain ⟨⟨_, _, _, _, rfl⟩, _⟩ := h
  rfl

theorem groups : t.groups = s.groups := by
  obtain ⟨⟨_, _, _, _, rfl⟩, _⟩ := h
  rfl

theorem grids : t.grids = s.grids := by
  obtain ⟨⟨_, _, _, _, rfl⟩, _⟩ := h
  rfl

theorem vfs : t.vfs = s.vfs := by
  obtain ⟨⟨_, _, _, _, rfl⟩, _⟩ := h
  rfl

theorem cores : t.cores = s.cores := by
  obtain ⟨⟨_, _, _, _, rfl⟩, _⟩ := h
  rfl

theorem fabOut : t.fabOut = s.fabOut := by
  obtain ⟨⟨_, _, _, _, rfl⟩, _⟩ := h
  rfl

theorem ctx? (n : Nat) : t.ctx? n = s.ctx? n := congrArg (Map.get? · n) h.ctxs

theorem group? (n : Nat) : t.group? n = s.group? n := congrArg (Map.get? · n) h.groups

theorem grid? (n : Nat) : t.grid? n = s.grid? n := congrArg (Map.get? · n) h.grids

theorem vf (n : Nat) : t.vf n = s.vf n := by
  unfold State.vf
  rw [h.vfs]

/-- A team is there as it was, but for its scratchpad. -/
theorem team?_of {tid : Nat} {x : Team} (hx : s.team? tid = some x) : ∃ y, t.team? tid = some y ∧ y.still = x.still := by
  have := h.still tid
  rw [hx] at this
  exact Option.map_eq_some_iff.mp this

end State.Stored

/-! #### What the end of a context leaves unchanged -/

/-- What the end of a context, and the reading of a launch, leave: the record range and the host launches of every VF, the scores of
cores, and the writes that are on their way to other modules. -/
structure State.Kept (a s : State) : Prop where
  recFirst : ∀ v, (s.vf v).recFirst = (a.vf v).recFirst
  recCount : ∀ v, (s.vf v).recCount = (a.vf v).recCount
  launches : ∀ v, (s.vf v).launches = (a.vf v).launches
  score : ∀ n, (s.core n).score = (a.core n).score
  writes : ∀ o ∈ a.fabOut, o.writes = true → o ∈ s.fabOut

namespace State.Kept

variable {a s t : State}

theorem refl (s : State) : s.Kept s := ⟨fun _ => rfl, fun _ => rfl, fun _ => rfl, fun _ => rfl, fun _ h _ => h⟩

theorem trans (h : a.Kept s) (h' : s.Kept t) : a.Kept t :=
  ⟨fun v => (h'.recFirst v).trans (h.recFirst v), fun v => (h'.recCount v).trans (h.recCount v),
    fun v => (h'.launches v).trans (h.launches v), fun n => (h'.score n).trans (h.score n),
    fun o ho hw => h'.writes o (h.writes o ho hw) hw⟩

/-- No field of those was written. -/
theorem fields (h : a.Kept s) (hv : t.vfs = s.vfs := by rfl) (hc : t.cores = s.cores := by rfl) (hf : t.fabOut = s.fabOut := by rfl) :
    a.Kept t := by
  have hvf (v : Nat) : t.vf v = s.vf v := by unfold State.vf; rw [hv]
  have hcore (n : Nat) : t.core n = s.core n := by unfold State.core; rw [hc]
  refine ⟨fun v => ?_, fun v => ?_, fun v => ?_, fun n => ?_, fun o ho hw => ?_⟩
  · rw [hvf, h.recFirst]
  · rw [hvf, h.recCount]
  · rw [hvf, h.launches]
  · rw [hcore, h.score]
  · exact hf ▸ h.writes o ho hw

theorem stored (h : a.Kept s) (hs : s.Stored t) : a.Kept t := h.fields hs.vfs hs.cores hs.fabOut

theorem foldl {α : Type} {f : State → α → State} (h : a.Kept s) (hf : ∀ u x, a.Kept u → a.Kept (f u x)) (l : List α) :
    a.Kept (l.foldl f s) :=
  List.foldlRecOn (motive := fun u => a.Kept u) _ _ h fun u hu x _ => hf u x hu

theorem setVf (h : a.Kept s) (v : Nat) (x : Vf) (hf : x.recFirst = (s.vf v).recFirst := by rfl)
    (hn : x.recCount = (s.vf v).recCount := by rfl) (hl : x.launches = (s.vf v).launches := by rfl) : a.Kept (s.setVf v x) := by
  have hvf (w : Nat) : (s.setVf v x).vf w = if w = v then x else s.vf w := by
    split
    · next hw => rw [hw, State.vf_setVf]
    · next hw => exact State.vf_setVf_ne s v w x hw
  refine ⟨fun w => ?_, fun w => ?_, fun w => ?_, h.score, h.writes⟩
  · rw [hvf, ← h.recFirst]
    split
    · next hw => rw [hw, hf]
    · rfl
  · rw [hvf, ← h.recCount]
    split
    · next hw => rw [hw, hn]
    · rfl
  · rw [hvf, ← h.launches]
    split
    · next hw => rw [hw, hl]
    · rfl

theorem setCore (h : a.Kept s) (n : Nat) (x : Core) (hx : x.score = (s.core n).score := by rfl) : a.Kept (s.setCore n x) := by
  refine ⟨h.recFirst, h.recCount, h.launches, fun m => ?_, h.writes⟩
  by_cases hm : m = n
  · rw [hm, State.core_setCore, hx, h.score]
  · rw [State.core_setCore_ne _ _ _ _ hm, h.score]

theorem setTeam (h : a.Kept s) (n : Nat) (x : Team) : a.Kept (s.setTeam n x) := h.fields

/-- Operations that are no writes are forgotten. -/
theorem filterFab (h : a.Kept s) (f : FabOut → Bool) (hf : ∀ o, o.writes = true → f o = true) :
    a.Kept { s with fabOut := s.fabOut.filter f } :=
  ⟨h.recFirst, h.recCount, h.launches, h.score, fun o ho hw => List.mem_filter.mpr ⟨h.writes o ho hw, hf o hw⟩⟩

theorem modGroup (h : a.Kept s) (n : Nat) (f : Group → Group) : a.Kept (s.modGroup n f) := by
  unfold State.modGroup
  split
  · exact h.fields
  · exact h

theorem modTeam (h : a.Kept s) (n : Nat) (f : Team → Team) : a.Kept (s.modTeam n f) := by
  unfold State.modTeam
  split
  · exact h.fields
  · exact h

theorem modCtx (h : a.Kept s) (n : Nat) (f : Ctx → Ctx) : a.Kept (s.modCtx n f) := by
  unfold State.modCtx
  split
  · exact h.fields
  · exact h

theorem charge (h : a.Kept s) (v c n : Nat) : a.Kept (s.charge v c n) := by
  unfold State.charge
  extract_lets x
  split
  · exact h
  · exact h.setVf _ _

theorem post (h : a.Kept s) (n : Nat) (m : HostMsg) : a.Kept (s.post n m) := by
  unfold State.post
  extract_lets p
  split
  · exact h.fields
  · exact h.fields

theorem sendFor (h : a.Kept s) (v n : Nat) (r : FabReq) : a.Kept (s.sendFor v n r) := by
  unfold State.sendFor
  split
  · exact h.fields
  · exact (h.charge _ _ _).post _ _

theorem killSteps (h : a.Kept s) (cid : Nat) : a.Kept (s.killSteps cid) := by
  have hvf (v : Nat) : ∃ l, (s.killSteps cid).vf v = { s.vf v with streams := l } := by
    unfold State.vf State.killSteps
    rw [Map.get?_map]
    · cases Map.get? s.vfs v with
      | none => exact ⟨_, rfl⟩
      | some x => exact ⟨_, rfl⟩
    · exact fun _ => rfl
  refine ⟨fun v => ?_, fun v => ?_, fun v => ?_, h.score, h.writes⟩
  · obtain ⟨l, hl⟩ := hvf v
    rw [hl, ← h.recFirst]
  · obtain ⟨l, hl⟩ := hvf v
    rw [hl, ← h.recCount]
  · obtain ⟨l, hl⟩ := hvf v
    rw [hl, ← h.launches]

theorem tellRelease (h : a.Kept s) (cid : Nat) (c : Ctx) (gid : Nat) (abandon : Bool) (k : KeyId) :
    a.Kept (s.tellRelease cid c gid abandon k) := by
  unfold State.tellRelease
  split
  · exact h
  · split
    · exact h
    · split
      · exact h
      · exact h.sendFor _ _ _

theorem dropKeys (h : a.Kept s) (cid gid : Nat) (abandon : Bool) : a.Kept (s.dropKeys cid gid abandon) := by
  unfold State.dropKeys
  split
  · exact ((h.foldl (fun _ _ h1 => h1.tellRelease _ _ _ _ _) _).modCtx _ _).modGroup _ _
  · exact h

theorem tellRacers (h : a.Kept s) (gid : Nat) (retired : Bool) : a.Kept (s.tellRacers gid retired) := by
  unfold State.tellRacers
  split
  · exact h
  · split
    · exact h
    · split
      · exact h
      · exact h.foldl (fun _ _ h1 => h1.sendFor _ _ _) _

theorem withdraw (h : a.Kept s) (cid : Nat) (op : EngOp) : a.Kept (s.withdraw cid op) :=
  foldl h.fields (fun _ _ h1 => h1.sendFor _ _ _) _

theorem withdrawAll (h : a.Kept s) (g : Group) : a.Kept (s.withdrawAll g) := by
  refine h.foldl (fun u op h1 => ?_) _
  split
  · exact h1
  · split
    · exact h1
    · split
      · exact h1
      · exact h1.withdraw _ _

theorem withdrawKeys (h : a.Kept s) (gid : Nat) : a.Kept (s.withdrawKeys gid) := by
  refine foldl (h.filterFab _ fun o ho => ?_) (fun _ _ h1 => h1.sendFor _ _ _) _
  dsimp only
  split
  · next hk => simp [FabOut.writes, hk] at ho
  · simp

theorem freeConts (h : a.Kept s) (gid : Nat) : a.Kept (s.freeConts gid) := by
  unfold State.freeConts
  split
  · exact h
  · split
    · exact h
    · split
      · exact h
      · exact h.modCtx _ _

theorem vacate (h : a.Kept s) (gid : Nat) : a.Kept (s.vacate gid) := by
  unfold State.vacate
  split
  · exact h
  · split
    · exact h
    · split
      · exact h
      · split
        · exact h
        · exact h.setCore _ _

theorem stopGroup (h : a.Kept s) (gid : Nat) (life : Life) : a.Kept (s.stopGroup gid life) := by
  unfold State.stopGroup
  split
  · exact h
  · extract_lets s0 s1 s2
    have h0 : a.Kept s0 := (((h.withdrawAll _).withdrawKeys _).freeConts _).vacate _
    have h1 : a.Kept { s0 with fabOut := s0.fabOut.filter fun o => o.gid ≠ gid || o.writes } :=
      h0.filterFab _ fun o ho => by simp [ho]
    have hs1 : a.Kept s1 := stored h1.fields (Stored.refl _).drain
    exact (hs1.modTeam _ _).modGroup _ _

theorem freeScratch (h : a.Kept s) (tid : Nat) : a.Kept (s.freeScratch tid) := by
  unfold State.freeScratch
  split
  · exact h
  · split
    · exact h
    · split
      · exact h
      · exact (h.setCore _ _).setTeam _ _

end State.Kept

namespace State.Kept

variable {a s t : State}

/-- The state of a pair that an operation answered. -/
theorem of_eq {α : Type} {p : α × State} {x : α} (h : a.Kept p.2) (e : p = (x, t)) : a.Kept t := by
  subst e
  exact h

theorem postRequests (h : a.Kept s) (l out : List PageReq) : a.Kept (s.postRequests l out) := by
  induction l generalizing s out with
  | nil => exact h.fields
  | cons r l ih =>
    unfold State.postRequests
    extract_lets v x s1
    split
    · exact ih h _
    · have hs : s.Stored (s.modWriteNum x 32 (pageRequestBits s.node r)) := (Stored.refl s).modWriteNum _ _ _
      refine ih ((h.stored hs).setVf _ _ ?_ ?_ ?_) _ <;> rw [hs.vf]

theorem fault (h : a.Kept s) (w : PageWant) (host mal : Bool) : a.Kept (s.fault w host mal) := by
  unfold State.fault
  split
  · exact h
  · extract_lets known r s1
    split
    · exact h
    · exact postRequests h.fields _ _

theorem modAway {cid node va len : Nat} {kind : FabKind} (h : a.Kept s) (e : s.modAway cid node va len kind = .wait t) : a.Kept t := by
  unfold State.modAway at e
  split at e
  · cases e
  · cases e
  · cases e
    exact h
  · extract_lets vf s1 req o at e
    split at e
    · cases e
      exact h
    · cases e
      have h1 : a.Kept s1 := h.charge _ _ _
      refine State.Kept.post ?_ _ _
      exact ⟨h1.recFirst, h1.recCount, h1.launches, h1.score, fun o ho hw => List.mem_append_left _ (h1.writes o ho hw)⟩

theorem modRead (h : a.Kept s) (cid : Nat) (c : Ctx) (va n : Nat) : a.Kept (s.modRead cid c va n).2 := by
  have hw : a.Kept (s.walkAt cid c va 0).2 := h.charge _ _ _
  unfold State.modRead
  split
  · exact h
  · split
    · exact (hw.of_eq ‹_›).charge _ _ _
    · exact (hw.of_eq ‹_›).fault _ _ _
    · exact hw.of_eq ‹_›
    · exact hw.of_eq ‹_›
    · have h1 := hw.of_eq ‹_›
      split
      · exact h1
      · exact h1.modAway ‹_›
      · exact h1

theorem modForget (h : a.Kept s) (cid : Nat) (vas : List Nat) : a.Kept (s.modForget cid vas) := h.fields

theorem readLaunch (h : a.Kept s) (cid : Nat) (c : Ctx) (lrec : Nat) : a.Kept (s.readLaunch cid c lrec).2 := by
  have h0 := h.modRead cid c lrec 128
  unfold State.readLaunch
  split
  · exact h
  · split
    · exact h0.of_eq ‹_›
    · exact h0.of_eq ‹_›
    · exact (h0.of_eq ‹_›).modForget _ _
    · next r s1 he =>
      have h1 : a.Kept s1 := h0.of_eq he
      have h2 := h1.modRead cid c (lrKhdr r) 64
      split
      · exact h1.modForget _ _
      · split
        · exact h2.of_eq ‹_›
        · exact h2.of_eq ‹_›
        · exact (h2.of_eq ‹_›).modForget _ _
        · exact (h2.of_eq ‹_›).modForget _ _

theorem enqueueGrid (h : a.Kept s) (gid : Nat) : a.Kept (s.enqueueGrid gid) := by
  unfold State.enqueueGrid
  split
  · exact h
  · split
    · exact h
    · split
      · exact h
      · extract_lets q s1
        have h1 : a.Kept s1 := h.fields
        split
        · exact h
        · split
          · exact h1.stored ((Stored.refl _).modWriteNum _ _ _)
          · exact h1

theorem launch (h : a.Kept s) (c : Ctx) (f : LaunchFrom) (r k : Nat) : a.Kept (s.launch c f r k).2.2 := by
  unfold State.launch
  extract_lets unmet s1 n id g
  have h1 : a.Kept s1 := h.charge _ _ _
  split
  · exact h
  · split
    · exact h
    · split
      · exact h
      · split
        · exact h1
        · exact enqueueGrid h1.fields _

end State.Kept

/-! #### The end of a context (R262) -/

theorem State.foldl_tell {α : Type} (f : α → HostMsg) (l : List α) (s : State) :
    l.foldl (fun s x => s.tell (f x)) s = { s with host := s.host ++ l.map f } := by
  induction l generalizing s with
  | nil => simp
  | cons x l ih =>
    rw [List.foldl_cons, ih]
    simp [State.tell]

/-- Whether no write that the host's event of a terminated context waits for is unanswered (R274). -/
def State.answered (s : State) (ids : List Nat) : Bool := !ids.any fun id => s.fabOut.any fun o => o.id = id

theorem State.tellEnded_eq (s : State) : s.tellEnded =
    { s with
      ending := s.ending.filter fun x => !s.answered x.2
      host := s.host ++ (s.ending.filter fun x => s.answered x.2).map fun x => HostMsg.terminated x.1 } := by
  unfold State.tellEnded
  exact State.foldl_tell (fun x : Nat × List Nat => HostMsg.terminated x.1) _ _

/-- The writes of a context's groups that other modules have not answered (R274). -/
def State.sentBy (s : State) (cid : Nat) : List Nat :=
  (s.fabOut.filter fun o => o.writes && (s.groupsOf cid).contains o.gid).map (·.id)

/-- A terminated context: nothing of it goes on, and its generation is the next one (R256, R262). -/
def Ctx.terminated (c : Ctx) : Ctx :=
  { c with
    cst := 3, cgen := c.cgen + 1, binds := [], farBinds := [], keys := [], contUsed := [], dets := [], far := []
    fifos := List.replicate 8 [], restores := [] }

/-- The end of a context: its groups, teams and grids are gone (`m`), it is terminated, its records are written (`t`), and the host
is told once the writes that it sent are answered. -/
theorem State.terminateCtx_eq {s : State} {cid : Nat} {c : Ctx} (i : TermInfo) (hc : s.ctx? cid = some c) (hcst : c.cst ≠ 3) :
    ∃ m t : State, s.Kept m ∧ (∀ n ∈ s.groupsOf cid, m.group? n = none) ∧ (∀ n gr, m.grid? n = some gr → gr.ctx ≠ cid) ∧
      (m.setCtx cid c.terminated).Stored t ∧
      s.terminateCtx cid i = { t with ending := t.ending ++ [(cid, s.sentBy cid)] }.tellEnded := by
  unfold State.terminateCtx
  split
  · next he => rw [he] at hc; cases hc
  next c' he =>
  obtain rfl : c' = c := Option.some.inj (he.symm.trans hc)
  rw [if_neg hcst]
  extract_lets gids sent s0 s1 tids s2 s3 s4 s5 s6 s7 old s8 s9
  have h0 : s.Kept s0 := ((State.Kept.refl s).killSteps _).foldl (fun _ _ h => (h.dropKeys _ _ _).tellRacers _ _) _
  have h1 : s.Kept s1 := h0.foldl (fun _ _ h => h.stopGroup _ _) _
  have h2 : s.Kept s2 := h1.foldl (fun _ _ h => h.freeScratch _) _
  have h3 : s.Kept s3 := h2.stored ((State.Stored.refl _).performAt _ _)
  have h9 : s5.Stored s9 :=
    ((((State.Stored.refl s5).modWrite _ _).modWriteNum _ _ _).modWriteNum _ _ _).foldl (fun _ _ h => h.complete _ _) _
  refine ⟨s4, s9, h3.fields, fun n hn => ?_, fun n gr hg => ?_, h9, rfl⟩
  · refine Map.get?_eq_none fun p hp hpn => ?_
    have := (List.mem_filter.mp hp).2
    rw [hpn] at this
    simp [gids, hn] at this
  · simpa using (List.mem_filter.mp (Map.mem_of_get? hg)).2

theorem State.Kept.terminateCtx {a s : State} (h : a.Kept s) (cid : Nat) (i : TermInfo) : a.Kept (s.terminateCtx cid i) := by
  cases hc : s.ctx? cid with
  | none => simpa [State.terminateCtx, hc] using h
  | some c =>
    by_cases hcst : c.cst = 3
    · simpa [State.terminateCtx, hc, hcst] using h
    · obtain ⟨m, t, hm, -, -, ht, he⟩ := State.terminateCtx_eq i hc hcst
      rw [he, State.tellEnded_eq]
      exact State.Kept.fields ((State.Kept.trans h hm).fields.stored ht)

theorem State.mem_groupsOf {s : State} {cid n : Nat} {g : Group} (hg : s.group? n = some g) (hc : s.ctxOf g = some cid) :
    n ∈ s.groupsOf cid :=
  List.mem_map.mpr ⟨(n, g), List.mem_filter.mpr ⟨Map.mem_of_get? hg, by simpa using hc⟩, rfl⟩

/-! #### Commands (R263) -/

theorem State.takeCommand_of_waits {s : State} {vf : Nat} {cmd : BitVec 256} (hr : s.dev.ready = true)
    (hw : s.commandsWait vf = true) : s.takeCommand vf cmd = { s with cmdq := s.cmdq ++ [(vf, cmd)] } := by
  simp [State.takeCommand, hr, hw]

theorem State.takeCommand_of_free {s : State} {vf : Nat} {cmd : BitVec 256} (hr : s.dev.ready = true)
    (hw : s.commandsWait vf = false) : s.takeCommand vf cmd = s.runCommand vf cmd := by
  simp [State.takeCommand, hr, hw]

theorem exec_preempt {s : State} {vf : Nat} {cmd : BitVec 256} (h : ccOp cmd = 0x10) :
    exec (.preempt vf cmd) s = .next (s.takeCommand vf cmd) := by
  simp [exec, execPreempt, h]

theorem exec_restore {s : State} {vf : Nat} {cmd : BitVec 256} (h : ccOp cmd = 0x11) :
    exec (.restore vf cmd) s = .next (s.takeCommand vf cmd) := by
  simp [exec, execRestore, h]

theorem exec_terminate {s : State} {vf : Nat} {cmd : BitVec 256} (h : ccOp cmd = 0x12) :
    exec (.terminate vf cmd) s = .next (s.takeCommand vf cmd) := by
  simp [exec, execTerminate, h]

theorem exec_start {s : State} {vf : Nat} {cmd : BitVec 256} (h0 : ccOp cmd ≠ 0x10) (h1 : ccOp cmd ≠ 0x11) (h2 : ccOp cmd ≠ 0x12) :
    exec (.start vf cmd) s = .next (s.takeCommand vf cmd) := by
  simp [exec, execStart, h0, h1, h2]

/-- A legal command on a context of the VF that runs or is pre-empted. -/
theorem State.command_of_legal {s : State} {vf : Nat} {cmd : BitVec 256} {c : Ctx} (run : Ctx → State → State)
    (hr : s.dev.ready = true) (hw : s.wordOk vf (ccCmpl cmd) = true) (hc : s.ctx? (ccCtx cmd) = some c) (hvf : c.vf = vf)
    (hcst : c.cst = 1 ∨ c.cst = 2) (hok : ccOk cmd = true) : s.command vf cmd run = run c s := by
  simp [State.command, hr, hw, hc, hvf, hcst, hok, Option.filter]

/-! #### Start (R264) -/

theorem bits_toNat {w : Nat} (x : BitVec w) (hi lo : Nat) : bits x.toNat hi lo = (x.extractLsb' lo (hi + 1 - lo)).toNat := by
  simp [bits]

theorem bits_toNat_eq_zero {w : Nat} (x : BitVec w) (hi lo : Nat) : bits x.toNat hi lo = 0 ↔ x.extractLsb' lo (hi + 1 - lo) = 0 := by
  rw [bits_toNat]
  exact ⟨fun h => BitVec.eq_of_toNat_eq (by simpa using h), fun h => by simp [h]⟩

/-- The lowest of the fields below CCBA that a start command has wrong (R264). -/
def lowBad (cmd : BitVec 256) : Option Nat :=
  if ccAbort cmd then some 8 else if ccOne cmd then some 9 else if cmd.extractLsb' 10 6 ≠ 0 then some 10
  else if cmd.extractLsb' 24 8 ≠ 0 then some 24 else none

theorem State.startBad_eq {s : State} {vf : Nat} {cmd : BitVec 256} (h : ccOp cmd = 0x13) :
    s.startBad vf cmd = (lowBad cmd).or
      (if s.ccbaOk vf cmd then (if cmd.extractLsb' 128 64 ≠ 0 then some 128 else none) else some 64) := by
  have h10 := bits_toNat_eq_zero cmd 15 10
  have h24 := bits_toNat_eq_zero cmd 31 24
  have h128 := bits_toNat_eq_zero cmd 191 128
  unfold State.startBad lowBad
  simp only [firstBad, h, ne_eq, h10, h24, h128]
  cases ccAbort cmd <;> cases ccOne cmd <;> cases s.ccbaOk vf cmd <;> simp
  all_goals split_ifs <;> rfl

theorem State.start_of_ccbBad {s : State} {vf : Nat} {cmd : BitVec 256} {off : Nat} (hr : s.dev.ready = true)
    (hw : s.wordOk vf (ccCmpl cmd) = true) (hop : ccOp cmd = 0x13) (ha : s.ccbaOk vf cmd = true)
    (hb : s.ccbBad vf cmd (s.num .module none (ccCcba cmd) 256) = some off) :
    s.start vf cmd = s.complete (ccCmpl cmd) (2 ^ 32 + 2 ^ 16 * (off + 1)) := by
  simp [State.start, hr, hw, hop, ha, hb]

theorem State.start_of_startBad {s : State} {vf : Nat} {cmd : BitVec 256} {off : Nat} (hr : s.dev.ready = true)
    (hw : s.wordOk vf (ccCmpl cmd) = true) (hop : ccOp cmd = 0x13)
    (hb : s.ccbaOk vf cmd = true → s.ccbBad vf cmd (s.num .module none (ccCcba cmd) 256) = none)
    (hs : s.startBad vf cmd = some off) :
    s.start vf cmd = s.complete (ccCmpl cmd) (2 ^ 32 + 2 ^ 16 * (2048 + off + 1)) := by
  by_cases ha : s.ccbaOk vf cmd = true
  · simp [State.start, hr, hw, hop, ha, hb ha, hs]
  · simp [State.start, hr, hw, hop, ha, hs]

theorem State.start_of_legal {s : State} {vf : Nat} {cmd : BitVec 256} (hr : s.dev.ready = true)
    (hw : s.wordOk vf (ccCmpl cmd) = true) (hop : ccOp cmd = 0x13) (ha : s.ccbaOk vf cmd = true)
    (hb : s.ccbBad vf cmd (s.num .module none (ccCcba cmd) 256) = none) (hs : s.startBad vf cmd = none) :
    s.start vf cmd = ((((s.renewCtx (ccCtx cmd)).resumeSteps vf (ccCtx cmd)).setCtx (ccCtx cmd)
      (ctxOfCcb (ccCcba cmd) vf (s.num .module none (ccCcba cmd) 256))).setCst (ccCtx cmd) 1).complete (ccCmpl cmd) 1 := by
  simp [State.start, hr, hw, hop, ha, hb, hs]

/-- Steps that are to run again change the streams of VFs only. -/
theorem State.resumeSteps_only (s : State) (vf cid : Nat) : ∃ v, s.resumeSteps vf cid = { s with vfs := v } := by
  unfold State.resumeSteps
  refine List.foldlRecOn (motive := fun t : State => ∃ v, t = { s with vfs := v }) _ _ ⟨s.vfs, rfl⟩ fun t ht k _ => ?_
  obtain ⟨v, rfl⟩ := ht
  exact ⟨_, rfl⟩

theorem State.resumeSteps_ctxs (s : State) (vf cid : Nat) : (s.resumeSteps vf cid).ctxs = s.ctxs := by
  obtain ⟨v, hv⟩ := s.resumeSteps_only vf cid
  rw [hv]

theorem State.resumeSteps_groups (s : State) (vf cid : Nat) : (s.resumeSteps vf cid).groups = s.groups := by
  obtain ⟨v, hv⟩ := s.resumeSteps_only vf cid
  rw [hv]

theorem State.resumeSteps_grids (s : State) (vf cid : Nat) : (s.resumeSteps vf cid).grids = s.grids := by
  obtain ⟨v, hv⟩ := s.resumeSteps_only vf cid
  rw [hv]

theorem State.resumeSteps_teams (s : State) (vf cid : Nat) : (s.resumeSteps vf cid).teams = s.teams := by
  obtain ⟨v, hv⟩ := s.resumeSteps_only vf cid
  rw [hv]

theorem State.ctx?_resumeSteps (s : State) (vf cid n : Nat) : (s.resumeSteps vf cid).ctx? n = s.ctx? n :=
  congrArg (Map.get? · n) (s.resumeSteps_ctxs vf cid)

/-- CST of a context that exists changed: the context's own, then its CCB. -/
theorem State.stored_setCst {s : State} {cid : Nat} {c : Ctx} (n : Nat) (h : s.ctx? cid = some c) :
    (s.setCtx cid { c with cst := n }).Stored (s.setCst cid n) := by
  simp only [State.setCst, h]
  exact (State.Stored.refl _).modWriteNum _ _ _

/-- What a legal start makes, before CMPL counts: the context that the CCB describes, and no other. -/
theorem State.started {s : State} {vf cid a b : Nat} :
    let t := (((s.renewCtx cid).resumeSteps vf cid).setCtx cid (ctxOfCcb a vf b)).setCst cid 1
    t.ctx? cid = some (ctxOfCcb a vf b) ∧ (∀ n, n ≠ cid → t.ctx? n = s.ctx? n) ∧ t.groups = s.groups := by
  have h := State.stored_setCst (s := ((s.renewCtx cid).resumeSteps vf cid).setCtx cid (ctxOfCcb a vf b)) 1
    (State.ctx?_setCtx _ _ _)
  refine ⟨?_, fun n hn => ?_, ?_⟩
  · rw [h.ctx?, State.ctx?_setCtx]
    rfl
  · rw [h.ctx?, State.ctx?_setCtx_ne _ _ _ _ hn, State.ctx?_setCtx_ne _ _ _ _ hn, State.ctx?_resumeSteps]
    rfl
  · exact h.groups.trans ((s.renewCtx cid).resumeSteps_groups vf cid)

theorem ofNat_bits_low (b : Nat) (n lo hi : Nat) (h : hi + 1 - lo = n) : BitVec.ofNat n (bits b hi lo) = BitVec.ofNat n (b / 2 ^ lo) := by
  subst h
  apply BitVec.eq_of_toNat_eq
  simp [bits, Nat.shiftRight_eq_div_pow]

/-! #### Terminate (R262) -/

theorem State.terminated {s : State} {cid : Nat} {c : Ctx} (i : TermInfo) (hc : s.ctx? cid = some c) (hcst : c.cst ≠ 3) :
    let t := s.terminateCtx cid i
    (s.sentBy cid = [] → HostMsg.terminated cid ∈ t.host) ∧ (s.sentBy cid ≠ [] → (cid, s.sentBy cid) ∈ t.ending) ∧
      t.ctx? cid = some c.terminated ∧ (∀ n gr, t.grid? n = some gr → gr.ctx ≠ cid) ∧
      ∀ n g, s.group? n = some g → s.ctxOf g = some cid → t.group? n = none := by
  obtain ⟨m, t, hm, hgroups, hgrids, ht, he⟩ := State.terminateCtx_eq i hc hcst
  rw [he, State.tellEnded_eq]
  refine ⟨fun hs => ?_, fun hs => ?_, ?_, fun n gr hg => hgrids n gr ?_, fun n g hg hcid => ?_⟩
  · refine List.mem_append_right _ (List.mem_map.mpr ⟨(cid, []), List.mem_filter.mpr ⟨?_, rfl⟩, rfl⟩)
    exact List.mem_append_right _ (by rw [hs]; exact List.mem_cons_self)
  · refine List.mem_filter.mpr ⟨List.mem_append_right _ List.mem_cons_self, ?_⟩
    obtain ⟨o, ho⟩ := List.exists_mem_of_ne_nil _ (fun h => hs (by unfold State.sentBy; rw [h]; rfl) :
      (s.fabOut.filter fun o => o.writes && (s.groupsOf cid).contains o.gid) ≠ [])
    have hmem : o.id ∈ s.sentBy cid := List.mem_map.mpr ⟨o, ho, rfl⟩
    obtain ⟨ho, hw⟩ := List.mem_filter.mp ho
    have hfab : o ∈ t.fabOut := by
      rw [ht.fabOut]
      exact hm.writes o ho (Bool.and_eq_true_iff.mp hw).1
    simp only [State.answered, Bool.not_not, List.any_eq_true, decide_eq_true_eq]
    exact ⟨o.id, hmem, o, hfab, rfl⟩
  · exact (ht.ctx? cid).trans (State.ctx?_setCtx _ _ _)
  · exact (ht.grid? n).symm.trans hg
  · exact (ht.group? n).trans (hgroups n (State.mem_groupsOf hg hcid))

/-! #### Pre-emption (R265) -/

theorem State.preempt_of_legal {s : State} {vf : Nat} {cmd : BitVec 256} {c : Ctx} (hr : s.dev.ready = true)
    (hw : s.wordOk vf (ccCmpl cmd) = true) (hc : s.ctx? (ccCtx cmd) = some c) (hvf : c.vf = vf)
    (hcst : c.cst = 1 ∨ c.cst = 2) (hok : ccOk cmd = true) (ha : ccAbort cmd = false) (hrun : s.runnersOf (ccCtx cmd) = []) :
    s.preempt vf cmd = s.preemptOn
      { vf, cid := ccCtx cmd, cmpl := some (ccCmpl cmd), teams := [], all := !ccOne cmd, back := false } (ccCores cmd) := by
  unfold State.preempt
  rw [State.command_of_legal _ hr hw hc hvf hcst hok]
  simp [hrun, ha]

/-- A save of no team is over at once. -/
theorem State.beginSave_of_none {s : State} {j : SaveJob} {cores : List Nat} (h : s.teamsOn j.cid cores .placed = []) :
    s.beginSave j cores = s.endSave { j with teams := [] } := by
  simp [State.beginSave, h, State.stopTeams, State.runSave]

theorem State.endSave_eq {s : State} {j : SaveJob} {c : Ctx} {a : BitVec 64} (hc : s.ctx? j.cid = some c) (hj : j.cmpl = some a) :
    s.endSave j = (if j.all = true ∧ c.cst = 1 then s.setCst j.cid 2 else s).complete a 1 := by
  simp [State.endSave, hc, hj]

theorem ccCcba_lt (cmd : BitVec 256) : ccCcba cmd < 2 ^ 64 := Nat.mod_lt _ (by decide)

/-! #### Teams that stay -/

section

variable {x y : Team} (h : y.still = x.still)
include h

theorem Team.grid_of_still : y.grid = x.grid := (congrArg Team.grid h : y.still.grid = x.still.grid)

theorem Team.core_of_still : y.core = x.core := (congrArg Team.core h : y.still.core = x.still.core)

theorem Team.groups_of_still : y.groups = x.groups := (congrArg Team.groups h : y.still.groups = x.still.groups)

theorem Team.placing_of_still : y.placing = x.placing := (congrArg Team.placing h : y.still.placing = x.still.placing)

theorem Team.retired_of_still : y.retired = x.retired := (congrArg Team.retired h : y.still.retired = x.still.retired)

end

/-- Every team is there as it was, but for its scratchpad. -/
def State.TeamsKept (s t : State) : Prop := ∀ tid x, s.team? tid = some x → ∃ y, t.team? tid = some y ∧ y.still = x.still

namespace State.TeamsKept

variable {s t u : State}

theorem of_teams (h : t.teams = s.teams) : s.TeamsKept t := fun tid x hx => ⟨x, (congrArg (Map.get? · tid) h).trans hx, rfl⟩

theorem of_stored (h : s.Stored t) : s.TeamsKept t := fun _ _ hx => h.team?_of hx

theorem trans (h : s.TeamsKept t) (h' : t.TeamsKept u) : s.TeamsKept u := fun tid x hx => by
  obtain ⟨y, hy, hyx⟩ := h tid x hx
  obtain ⟨z, hz, hzy⟩ := h' tid y hy
  exact ⟨z, hz, hzy.trans hyx⟩

theorem setTeam {i : Nat} {x y : Team} (hx : s.team? i = some x) (hy : y.still = x.still) : s.TeamsKept (s.setTeam i y) := by
  intro tid z hz
  by_cases hi : tid = i
  · subst hi
    obtain rfl : x = z := Option.some.inj (hx.symm.trans hz)
    exact ⟨y, State.team?_setTeam _ _ _, hy⟩
  · exact ⟨z, (State.team?_setTeam_ne _ _ _ _ hi).trans hz, rfl⟩

theorem freeScratch (s : State) (tid : Nat) : s.TeamsKept (s.freeScratch tid) := by
  unfold State.freeScratch
  split
  · exact of_teams rfl
  · next x hx =>
    split
    · exact of_teams rfl
    · split
      · exact of_teams rfl
      · extract_lets c
        exact setTeam (s := s.setCore _ _) hx rfl

end State.TeamsKept

/-! #### Restore (R266) -/

/-- The CCB read again: the context's own fields are the CCB's where it is legal, and are what they were where it is not
(R256; log 116). -/
theorem State.rereadCcb_spec {s : State} {vf : Nat} {cmd : BitVec 256} {c : Ctx} (hc : s.ctx? (ccCtx cmd) = some c) :
    let b := s.num .module none c.ccb.toNat 256
    ∃ m c', s.rereadCcb vf cmd c = { s with ctxs := m } ∧ (s.rereadCcb vf cmd c).ctx? (ccCtx cmd) = some c' ∧
      c'.stopped = c.stopped ∧ c'.restores = c.restores ∧
      (s.ccbBad vf cmd b true = none →
        c'.tvec = BitVec.ofNat 64 (b / 2 ^ 128) ∧ c'.ptroot = BitVec.ofNat 64 b ∧ c'.privc = b.testBit 364) ∧
      (s.ccbBad vf cmd b true ≠ none → c'.tvec = c.tvec ∧ c'.ptroot = c.ptroot ∧ c'.privc = c.privc) := by
  intro b
  unfold State.rereadCcb
  extract_lets b'
  split
  · next off hb => exact ⟨s.ctxs, c, rfl, hc, rfl, rfl, fun h => absurd (hb.symm.trans h) (by simp), fun _ => ⟨rfl, rfl, rfl⟩⟩
  · next hb =>
    rw [State.modCtx_of _ _ _ _ hc]
    refine ⟨_, _, rfl, State.ctx?_setCtx _ _ _, rfl, rfl, fun _ => ⟨?_, ?_, rfl⟩, fun h => absurd hb h⟩
    · exact ofNat_bits_low b 64 128 191 rfl
    · exact (ofNat_bits_low b 64 0 63 rfl).trans (by simp)

/-- What a restore begins with: the CCB is read again, and the context runs, as do the steps of its streams (R256, R266, R268). -/
def State.recall (s : State) (vf : Nat) (cmd : BitVec 256) (c : Ctx) : State :=
  ((s.rereadCcb vf cmd c).setCst (ccCtx cmd) 1).resumeSteps vf (ccCtx cmd)

/-- A restore up to the teams: the CCB is read again, the context runs, and nothing of its groups, grids and teams is touched. -/
theorem State.recalled {s : State} {vf : Nat} {cmd : BitVec 256} {c : Ctx} (hc : s.ctx? (ccCtx cmd) = some c) :
    let b := s.num .module none c.ccb.toNat 256
    let t := s.recall vf cmd c
    (∃ c', t.ctx? (ccCtx cmd) = some c' ∧ c'.cst = 1 ∧ c'.stopped = c.stopped ∧ c'.restores = c.restores ∧
      (s.ccbBad vf cmd b true = none →
        c'.tvec = BitVec.ofNat 64 (b / 2 ^ 128) ∧ c'.ptroot = BitVec.ofNat 64 b ∧ c'.privc = b.testBit 364) ∧
      (s.ccbBad vf cmd b true ≠ none → c'.tvec = c.tvec ∧ c'.ptroot = c.ptroot ∧ c'.privc = c.privc)) ∧
      t.groups = s.groups ∧ t.grids = s.grids ∧ s.TeamsKept t := by
  intro b t
  obtain ⟨m, c', hm, hc', hstop, hrest, hgood, hbad⟩ := State.rereadCcb_spec (vf := vf) hc
  have hst := State.stored_setCst 1 hc'
  unfold t State.recall
  refine ⟨⟨{ c' with cst := 1 }, ?_, rfl, hstop, hrest, hgood, hbad⟩, ?_, ?_, ?_⟩
  · rw [State.ctx?_resumeSteps, hst.ctx?, State.ctx?_setCtx]
  · rw [State.resumeSteps_groups, hst.groups, State.setCtx_groups, hm]
  · rw [State.resumeSteps_grids, hst.grids, State.setCtx_grids, hm]
  · have hreread : s.TeamsKept ((s.rereadCcb vf cmd c).setCtx (ccCtx cmd) { c' with cst := 1 }) :=
      State.TeamsKept.of_teams (by rw [State.setCtx_teams, hm])
    exact (hreread.trans (State.TeamsKept.of_stored hst)).trans (State.TeamsKept.of_teams (State.resumeSteps_teams _ _ _))

theorem State.mem_teamsOn {s : State} {cid tid : Nat} {cores : List Nat} {p : Placing} {x : Team} {gr : Grid}
    (hx : s.team? tid = some x) (hg : s.grid? x.grid = some gr) (hc : gr.ctx = cid) (hcore : x.core ∈ cores) (hp : x.placing = p)
    (hr : x.retired = false) : (tid, gr) ∈ s.teamsOn cid cores p :=
  List.mem_filterMap.mpr ⟨(tid, x), Map.mem_of_get? hx, by simp [hg, hc, hcore, hp, hr]⟩

/-- Teams of a list wait for the dispatcher, and nothing else of any team changes. -/
theorem State.restoring_spec (tids : List Nat) (s : State) :
    let t := tids.foldl (fun s tid => s.modTeam tid fun t => { t with placing := .restoring }) s
    t.ctxs = s.ctxs ∧ t.groups = s.groups ∧ ∀ tid x, s.team? tid = some x →
      ∃ y, t.team? tid = some y ∧ y.groups = x.groups ∧ (tid ∈ tids ∨ x.placing = .restoring → y.placing = .restoring) := by
  induction tids generalizing s with
  | nil => exact ⟨rfl, rfl, fun tid x hx => ⟨x, hx, rfl, fun h => h.resolve_left List.not_mem_nil⟩⟩
  | cons i tids ih =>
    obtain ⟨hctxs, hgroups, hteam⟩ := ih (s.modTeam i fun t => { t with placing := .restoring })
    refine ⟨hctxs.trans ?_, hgroups.trans ?_, fun tid x hx => ?_⟩
    · unfold State.modTeam
      split <;> rfl
    · unfold State.modTeam
      split <;> rfl
    · have hfirst : ∃ y, (s.modTeam i fun t => { t with placing := .restoring }).team? tid = some y ∧ y.groups = x.groups ∧
          (tid = i ∨ x.placing = .restoring → y.placing = .restoring) := by
        by_cases hi : tid = i
        · subst hi
          rw [State.modTeam_of _ _ _ _ hx]
          exact ⟨_, State.team?_setTeam _ _ _, rfl, fun _ => rfl⟩
        · refine ⟨x, ?_, rfl, fun h => h.resolve_left hi⟩
          unfold State.modTeam
          split
          · rw [State.team?_setTeam_ne _ _ _ _ hi, hx]
          · exact hx
      obtain ⟨y, hy, hyg, hyp⟩ := hfirst
      obtain ⟨z, hz, hzg, hzp⟩ := hteam tid y hy
      refine ⟨z, hz, hzg.trans hyg, fun h => hzp ?_⟩
      rcases h with h | h
      · rcases List.mem_cons.mp h with h | h
        · exact .inr (hyp (.inl h))
        · exact .inl h
      · exact .inr (hyp (.inr h))

theorem State.restore_of_legal {s : State} {vf : Nat} {cmd : BitVec 256} {c : Ctx} (hr : s.dev.ready = true)
    (hw : s.wordOk vf (ccCmpl cmd) = true) (hc : s.ctx? (ccCtx cmd) = some c) (hvf : c.vf = vf)
    (hcst : c.cst = 1 ∨ c.cst = 2) (hok : ccOk cmd = true) :
    ∃ t : State, s.restore vf cmd = t.endRestore (ccCtx cmd) ∧
      (∃ c' tids, t.ctx? (ccCtx cmd) = some c' ∧ c'.cst = 1 ∧ c'.restores = c.restores ++ [(ccCmpl cmd, tids)] ∧
        (∀ n, n ∈ c'.stopped ↔ n ∈ c.stopped ∧ n ∉ ccCores cmd) ∧
        (let b := s.num .module none c.ccb.toNat 256
         (s.ccbBad vf cmd b true = none →
           c'.tvec = BitVec.ofNat 64 (b / 2 ^ 128) ∧ c'.ptroot = BitVec.ofNat 64 b ∧ c'.privc = b.testBit 364) ∧
         (s.ccbBad vf cmd b true ≠ none → c'.tvec = c.tvec ∧ c'.ptroot = c.ptroot ∧ c'.privc = c.privc)) ∧
        ∀ tid x gr, s.team? tid = some x → s.grid? x.grid = some gr → gr.ctx = ccCtx cmd → x.core ∈ ccCores cmd →
          x.placing = .saved → x.retired = false → tid ∈ tids) ∧
      t.groups = s.groups ∧
      ∀ tid x gr, s.team? tid = some x → s.grid? x.grid = some gr → gr.ctx = ccCtx cmd → x.core ∈ ccCores cmd →
        x.placing = .saved → x.retired = false → ∃ y, t.team? tid = some y ∧ y.placing = .restoring ∧ y.groups = x.groups := by
  obtain ⟨⟨c', hc', hcst', hstop, hrest, hgood, hbad⟩, hgroups, hgrids, hteams⟩ := State.recalled (vf := vf) (cmd := cmd) hc
  unfold State.restore
  rw [State.command_of_legal _ hr hw hc hvf hcst hok]
  extract_lets cid cores s1 tids s2
  have hs1 : s1 = s.recall vf cmd c := rfl
  clear_value s1
  rw [← hs1] at hc' hgroups hgrids hteams
  have hs2 : s2 = s1.setCtx cid { c' with
      stopped := c'.stopped.filter fun n => !cores.contains n, restores := c'.restores ++ [(ccCmpl cmd, tids)] } :=
    State.modCtx_of _ _ _ _ hc'
  obtain ⟨hctxs2, hgroups2, hteam⟩ := State.restoring_spec tids s2
  have hmem (tid : Nat) (x : Team) (gr : Grid) (hx : s.team? tid = some x) (hg : s.grid? x.grid = some gr) (hgc : gr.ctx = cid)
      (hcore : x.core ∈ cores) (hp : x.placing = .saved) (hret : x.retired = false) : tid ∈ tids := by
    obtain ⟨y, hy, hyx⟩ := hteams tid x hx
    refine List.mem_map.mpr ⟨(tid, gr), State.mem_teamsOn hy ?_ hgc ?_ ?_ ?_, rfl⟩
    · rw [Team.grid_of_still hyx]
      exact (congrArg (Map.get? · x.grid) hgrids).trans hg
    · rwa [Team.core_of_still hyx]
    · rwa [Team.placing_of_still hyx]
    · rwa [Team.retired_of_still hyx]
  refine ⟨_, rfl, ⟨{ c' with
      stopped := c'.stopped.filter fun n => !cores.contains n, restores := c'.restores ++ [(ccCmpl cmd, tids)] }, tids,
    ?_, hcst', ?_, fun n => ?_, ⟨hgood, hbad⟩, hmem⟩, ?_, fun tid x gr hx hg hgc hcore hp hret => ?_⟩
  · refine (congrArg (Map.get? · cid) hctxs2).trans ?_
    rw [hs2]
    exact State.ctx?_setCtx _ _ _
  · exact congrArg (· ++ [(ccCmpl cmd, tids)]) hrest
  · rw [← hstop]
    simp [cores]
  · exact hgroups2.trans ((congrArg State.groups hs2).trans hgroups)
  · obtain ⟨y, hy, hyx⟩ := hteams tid x hx
    have hy2 : s2.team? tid = some y := by
      rw [hs2]
      exact hy
    obtain ⟨z, hz, hzg, hzp⟩ := hteam tid y hy2
    exact ⟨z, hz, hzp (.inl (hmem tid x gr hx hg hgc hcore hp hret)), hzg.trans (Team.groups_of_still hyx)⟩

/-! #### Teams saved (R265) -/

/-- What a message to another module changes. -/
theorem State.sendFor_only (s : State) (vf node : Nat) (r : FabReq) :
    ∃ v e p h, s.sendFor vf node r = { s with vfs := v, egress := e, portWait := p, host := h } := by
  have hpost (u : State) (m : HostMsg) : ∃ p h, u.post node m = { u with portWait := p, host := h } := by
    unfold State.post
    extract_lets p
    split
    · exact ⟨_, _, rfl⟩
    · exact ⟨_, _, rfl⟩
  have hcharge : ∃ v, s.charge vf 1 128 = { s with vfs := v } := by
    unfold State.charge
    extract_lets v
    split
    · exact ⟨_, rfl⟩
    · exact ⟨_, rfl⟩
  unfold State.sendFor
  split
  · exact ⟨_, _, _, _, rfl⟩
  · obtain ⟨v, hv⟩ := hcharge
    obtain ⟨p, h, hp⟩ := hpost (s.charge vf 1 128) (.sent node r)
    exact ⟨v, s.egress, p, h, hp.trans (by rw [hv])⟩

theorem State.withdrawKeys_only (s : State) (gid : Nat) :
    (s.withdrawKeys gid).groups = s.groups ∧ (s.withdrawKeys gid).teams = s.teams := by
  unfold State.withdrawKeys
  refine List.foldlRecOn (motive := fun t : State => t.groups = s.groups ∧ t.teams = s.teams) _ _ ⟨rfl, rfl⟩ fun t ht o _ => ?_
  obtain ⟨v, e, p, h, hs⟩ := t.sendFor_only (((t.ctx? o.req.ctxid).map (·.vf)).getD 0) o.dest
    { o.req with id := 0, kind := .key 3 gid 0 0, hops := 0 }
  rw [hs]
  exact ht

theorem State.vacate_only (s : State) (gid : Nat) : (s.vacate gid).groups = s.groups ∧ (s.vacate gid).teams = s.teams := by
  unfold State.vacate
  repeat' split
  all_goals exact ⟨rfl, rfl⟩

theorem State.modCtx_only (s : State) (cid : Nat) (f : Ctx → Ctx) :
    (s.modCtx cid f).groups = s.groups ∧ (s.modCtx cid f).teams = s.teams := by
  unfold State.modCtx
  split <;> exact ⟨rfl, rfl⟩

/-- A group as a save leaves it. -/
def State.savedGroup (s : State) (gid : Nat) (g : Group) : Group :=
  { g with
    life := .saved, retires := decide (g.life = .retiring)
    slot0 := g.slot0.withdrawn (s.asksKey gid false), slot1 := g.slot1.withdrawn (s.asksKey gid true) }

/-- A group saved: the group itself, and no other, with every team as it was but for its scratchpad. -/
theorem State.saveGroup_eq (s : State) (cid gid : Nat) :
    ∃ u : State, s.saveGroup cid gid = u.modGroup gid (s.savedGroup gid) ∧ u.groups = s.groups ∧ s.TeamsKept u := by
  unfold State.saveGroup
  extract_lets s3 s4
  have h3 : s.Stored s3 := (State.Stored.refl s).performAt _ _
  obtain ⟨hg4, ht4⟩ := s3.modCtx_only cid fun c => { c with
    keys := (c.keys.map fun (k, x) => (k, { x with queue := x.queue.filter fun q => q.who ≠ gid || q.remote.isSome })).filter
      fun p => p.2 ≠ {} }
  obtain ⟨hgk, htk⟩ := s4.withdrawKeys_only gid
  obtain ⟨hgv, htv⟩ := (s4.withdrawKeys gid).vacate_only gid
  exact ⟨(s4.withdrawKeys gid).vacate gid, rfl, ((hgv.trans hgk).trans hg4).trans h3.groups,
    (State.TeamsKept.of_stored h3).trans (State.TeamsKept.of_teams ((htv.trans htk).trans ht4))⟩

theorem State.group?_modGroup (s : State) (gid : Nat) (f : Group → Group) : (s.modGroup gid f).group? gid = (s.group? gid).map f := by
  unfold State.modGroup
  split
  · next x hx => rw [State.group?_setGroup, hx]; rfl
  · next hx => rw [hx]; rfl

theorem State.group?_modGroup_ne (s : State) {gid n : Nat} (f : Group → Group) (h : n ≠ gid) :
    (s.modGroup gid f).group? n = s.group? n := by
  unfold State.modGroup
  split
  · exact State.group?_setGroup_ne _ _ _ _ h
  · rfl

theorem State.teams_modGroup (s : State) (gid : Nat) (f : Group → Group) : (s.modGroup gid f).teams = s.teams := by
  unfold State.modGroup
  split <;> rfl

theorem State.group?_saveGroup (s : State) (cid gid : Nat) :
    (s.saveGroup cid gid).group? gid = (s.group? gid).map (s.savedGroup gid) := by
  obtain ⟨u, hu, hg, -⟩ := s.saveGroup_eq cid gid
  rw [hu, State.group?_modGroup]
  exact congrArg (fun m => (Map.get? m gid).map _) hg

theorem State.group?_saveGroup_ne (s : State) {cid gid n : Nat} (h : n ≠ gid) :
    (s.saveGroup cid gid).group? n = s.group? n := by
  obtain ⟨u, hu, hg, -⟩ := s.saveGroup_eq cid gid
  rw [hu, State.group?_modGroup_ne _ _ h]
  exact congrArg (Map.get? · n) hg

theorem State.TeamsKept.saveGroup (s : State) (cid gid : Nat) : s.TeamsKept (s.saveGroup cid gid) := by
  obtain ⟨u, hu, -, ht⟩ := s.saveGroup_eq cid gid
  rw [hu]
  exact ht.trans (State.TeamsKept.of_teams (State.teams_modGroup _ _ _))

/-- Groups saved, each once. -/
theorem State.saveGroups_spec (cid : Nat) (l : List Nat) (hl : l.Nodup) (s : State) :
    let t := l.foldl (fun s gid => s.saveGroup cid gid) s
    s.TeamsKept t ∧ (∀ n, n ∉ l → t.group? n = s.group? n) ∧ ∀ n ∈ l, ∀ g, s.group? n = some g →
      ∃ h, t.group? n = some h ∧ h.life = .saved ∧ h.retires = decide (g.life = .retiring) ∧ h.regs = g.regs := by
  induction l generalizing s with
  | nil => exact ⟨State.TeamsKept.of_teams rfl, fun _ _ => rfl, fun n hn => absurd hn List.not_mem_nil⟩
  | cons i l ih =>
    obtain ⟨hi, hl⟩ := List.nodup_cons.mp hl
    obtain ⟨hteams, hother, hsaved⟩ := ih hl (s.saveGroup cid i)
    refine ⟨(State.TeamsKept.saveGroup s cid i).trans hteams, fun n hn => ?_, fun n hn g hg => ?_⟩
    · obtain ⟨hni, hnl⟩ := List.ne_and_not_mem_of_not_mem_cons hn
      exact (hother n hnl).trans (s.group?_saveGroup_ne hni)
    · by_cases hni : n = i
      · subst hni
        refine ⟨s.savedGroup n g, (hother n hi).trans ?_, rfl, rfl, rfl⟩
        rw [State.group?_saveGroup, hg]
        rfl
      · exact hsaved n (List.mem_of_ne_of_mem hni hn) g ((s.group?_saveGroup_ne hni).trans hg)

/-- Groups that stop no more. -/
theorem State.released_spec (l : List Nat) (s : State) :
    let t := l.foldl (fun s gid => s.modGroup gid fun g => { g with stopping := false }) s
    t.teams = s.teams ∧ ∀ n g, s.group? n = some g →
      ∃ h, t.group? n = some h ∧ h.life = g.life ∧ h.retires = g.retires ∧ h.regs = g.regs ∧
        (n ∈ l ∨ g.stopping = false → h.stopping = false) := by
  induction l generalizing s with
  | nil => exact ⟨rfl, fun n g hg => ⟨g, hg, rfl, rfl, rfl, fun h => h.resolve_left List.not_mem_nil⟩⟩
  | cons i l ih =>
    obtain ⟨hteams, hgroup⟩ := ih (s.modGroup i fun g => { g with stopping := false })
    refine ⟨hteams.trans (State.teams_modGroup _ _ _), fun n g hg => ?_⟩
    by_cases hni : n = i
    · subst hni
      obtain ⟨h, hh, hlife, hret, hregs, hstop⟩ := hgroup n { g with stopping := false } (by rw [State.group?_modGroup, hg]; rfl)
      exact ⟨h, hh, hlife, hret, hregs, fun _ => hstop (.inr rfl)⟩
    · obtain ⟨h, hh, hlife, hret, hregs, hstop⟩ := hgroup n g ((s.group?_modGroup_ne _ hni).trans hg)
      exact ⟨h, hh, hlife, hret, hregs, fun hn => hstop (hn.imp_left (List.mem_of_ne_of_mem hni))⟩

theorem State.freeScratch_groups (s : State) (tid : Nat) : (s.freeScratch tid).groups = s.groups := by
  unfold State.freeScratch
  repeat' split
  all_goals rfl

theorem State.modTeam_groups (s : State) (tid : Nat) (f : Team → Team) : (s.modTeam tid f).groups = s.groups := by
  unfold State.modTeam
  split <;> rfl

theorem State.charge_only (s : State) (vf cls n : Nat) :
    (s.charge vf cls n).groups = s.groups ∧ (s.charge vf cls n).teams = s.teams := by
  unfold State.charge
  extract_lets v
  split <;> exact ⟨rfl, rfl⟩

/-- The save area written: only stores, after a free value is taken. -/
theorem State.writeSave_spec (s : State) (cid : Nat) (c : Ctx) (va n : Nat) :
    ({ s with free := s.free + 1 } : State).Stored (s.writeSave cid c va n) := by
  unfold State.writeSave State.takeFree
  refine (State.Stored.refl _).foldl (fun u i h => ?_) _
  extract_lets lo hi
  split
  · exact h.modWrite _ _
  · exact h

/-- A team saved with the groups of it that are on its core (R265). -/
theorem State.saveTeam_spec {s : State} {tid : Nat} {t : Team} (cid : Nat) (c : Ctx) (k : Kernel) (back : Bool)
    (ht : s.team? tid = some t) (hn : t.groups.Nodup) :
    let u := s.saveTeam cid c tid t k back
    (∃ x, u.team? tid = some x ∧ x.placing = (if back then .restoring else .saved) ∧ x.groups = t.groups) ∧
      ∀ n ∈ t.groups, ∀ g, s.group? n = some g → g.onCore = true → ∃ h, u.group? n = some h ∧ h.life = .saved ∧
        h.retires = decide (g.life = .retiring) ∧ h.regs = g.regs ∧ h.stopping = false := by
  unfold State.saveTeam
  extract_lets before s2 s3 s4 n
  obtain ⟨hteams2, -, hsaved⟩ := State.saveGroups_spec cid (s.onCoreOf t) (hn.filter _) s
  obtain ⟨hteams4, hreleased⟩ := State.released_spec t.groups s3
  have hwrite := s4.writeSave_spec cid c (c.savea.toNat + 0x400000 * t.core + before) n
  obtain ⟨hgroupsU, hteamsU⟩ := (s4.writeSave cid c (c.savea.toNat + 0x400000 * t.core + before) n).charge_only c.vf 0 n
  have hgroups3 : s3.groups = s2.groups := (State.modTeam_groups _ _ _).trans (State.freeScratch_groups _ _)
  refine ⟨?_, fun i hi g hg hcore => ?_⟩
  · obtain ⟨x, hx, hxt⟩ := hteams2.trans (State.TeamsKept.freeScratch _ tid) tid t ht
    have hx3 : s3.team? tid = some { x with placing := if back then .restoring else .saved } :=
      (congrArg (State.team? · tid) (State.modTeam_of _ _ _ _ hx)).trans (State.team?_setTeam _ _ _)
    obtain ⟨y, hy, hyx⟩ := (State.TeamsKept.of_teams hteams4).trans ((State.TeamsKept.of_stored hwrite).trans
      (State.TeamsKept.of_teams hteamsU)) tid _ hx3
    have hgroups : x.groups = t.groups := Team.groups_of_still hxt
    exact ⟨y, hy, Team.placing_of_still hyx, (Team.groups_of_still hyx).trans hgroups⟩
  · have hmem : i ∈ s.onCoreOf t := List.mem_filter.mpr ⟨hi, by simp [hg, hcore]⟩
    obtain ⟨h, hh, hlife, hret, hregs⟩ := hsaved i hmem g hg
    obtain ⟨h', hh', hlife', hret', hregs', hstop⟩ := hreleased i h ((congrArg (Map.get? · i) hgroups3).trans hh)
    refine ⟨h', ?_, hlife'.trans hlife, hret'.trans hret, hregs'.trans hregs, hstop (.inl hi)⟩
    exact (congrArg (Map.get? · i) (hgroupsU.trans hwrite.groups)).trans hh'

theorem State.saveOne_of_left {s : State} {j : SaveJob} {tid : Nat} {t : Team} {gr : Grid} {c : Ctx}
    (ht : (s.settleTeam tid).team? tid = some t) (hc : (s.settleTeam tid).ctx? j.cid = some c)
    (hg : (s.settleTeam tid).grid? t.grid = some gr) (hr : t.retired = false) (hm : (s.settleTeam tid).matrixLeft t = true) :
    s.saveOne j tid = (true, s.settleTeam tid) := by
  simp [State.saveOne, ht, hc, hg, hr, hm]

theorem State.saveOne_of_done {s : State} {j : SaveJob} {tid : Nat} {t : Team} {gr : Grid} {c : Ctx}
    (ht : (s.settleTeam tid).team? tid = some t) (hc : (s.settleTeam tid).ctx? j.cid = some c)
    (hg : (s.settleTeam tid).grid? t.grid = some gr) (hr : t.retired = false) (hm : (s.settleTeam tid).matrixLeft t = false) :
    s.saveOne j tid = (false, (s.settleTeam tid).saveTeam j.cid c tid t gr.k (j.back && decide (c.cst = 1))) := by
  simp [State.saveOne, ht, hc, hg, hr, hm]

/-! #### The reset of a VF (R270) -/

/-- A blank record's bits (R41). -/
theorem blankRecord_eq (rid vf : Nat) :
    blankRecord rid vf = { bits := BitVec.ofNat 2048 (vf % 2 ^ 32 * 2 ^ 960 + 5 * 2 ^ 48 + rid % 2 ^ 16 * 2 ^ 32) } := by
  have hrid : (rid % 2 ^ 16) <<< 32 < 2 ^ 48 := by
    rw [Nat.shiftLeft_eq]
    have := Nat.mod_lt rid (show 0 < 2 ^ 16 by decide)
    omega
  have hlow : 5 <<< 48 + (rid % 2 ^ 16) <<< 32 < 2 ^ 52 := lt_of_lt_of_le (Nat.add_lt_add_left hrid _) (by decide)
  have hpack (n : Nat) (h : 52 ≤ n) : packBits [(n, 32, vf), (48, 3, 5), (32, 16, rid)] =
      vf % 2 ^ 32 * 2 ^ n + 5 * 2 ^ 48 + rid % 2 ^ 16 * 2 ^ 32 := by
    have hstat : 5 <<< 48 + (rid % 2 ^ 16) <<< 32 < 2 ^ n := hlow.trans_le (Nat.pow_le_pow_right (by decide) h)
    simp only [packBits, Nat.or_zero, show 5 % 2 ^ 3 = 5 from rfl]
    rw [← Nat.shiftLeft_add_eq_or_of_lt hrid, ← Nat.shiftLeft_add_eq_or_of_lt hstat]
    simp only [Nat.shiftLeft_eq, Nat.add_assoc]
  exact congrArg (fun b => ({ bits := BitVec.ofNat 2048 b } : Req)) (hpack 960 (by decide))

theorem State.blankRecords_only (s : State) (vf rid n : Nat) : ∃ m, s.blankRecords vf rid n = { s with reqs := m } := by
  induction n generalizing s rid with
  | zero => exact ⟨_, rfl⟩
  | succ n ih =>
    obtain ⟨m, hm⟩ := ih (s.setReq rid (blankRecord rid vf)) (rid + 1)
    exact ⟨m, hm⟩

theorem State.req_blankRecords (s : State) (vf rid n r : Nat) : (s.blankRecords vf rid n).req r =
    if rid ≤ r ∧ r < rid + n then blankRecord r vf else s.req r := by
  induction n generalizing s rid with
  | zero =>
    rw [if_neg (by omega)]
    rfl
  | succ n ih =>
    unfold State.blankRecords
    rw [ih]
    by_cases hr : r = rid
    · subst hr
      rw [if_neg (by omega), if_pos (by omega), State.req_setReq]
    · rw [State.req_setReq_ne _ _ _ _ hr]
      by_cases hin : rid ≤ r ∧ r < rid + (n + 1)
      · rw [if_pos (by omega), if_pos hin]
      · rw [if_neg (by omega), if_neg hin]

/-- What the frames of a reset VF take: no core, no record, and none of what the VF has but its frames. -/
structure State.Scrubbed (vf : Nat) (s t : State) : Prop where
  cores : t.cores = s.cores
  reqs : t.reqs = s.reqs
  hused : (t.vf vf).hused = (s.vf vf).hused
  launches : (t.vf vf).launches = (s.vf vf).launches
  streams : (t.vf vf).streams = (s.vf vf).streams

namespace State.Scrubbed

variable {vf : Nat} {s t : State}

theorem refl (vf : Nat) (s : State) : s.Scrubbed vf s := ⟨rfl, rfl, rfl, rfl, rfl⟩

theorem fields {u : State} (h : State.Scrubbed vf s t) (hc : u.cores = t.cores := by rfl) (hr : u.reqs = t.reqs := by rfl)
    (hv : u.vfs = t.vfs := by rfl) : s.Scrubbed vf u := by
  have hvf : u.vf vf = t.vf vf := by unfold State.vf; rw [hv]
  exact ⟨hc.trans h.cores, hr.trans h.reqs, hvf ▸ h.hused, hvf ▸ h.launches, hvf ▸ h.streams⟩

theorem setVf (h : State.Scrubbed vf s t) (w : Nat) (x : Vf) (hu : x.hused = (t.vf w).hused := by rfl)
    (hl : x.launches = (t.vf w).launches := by rfl) (hs : x.streams = (t.vf w).streams := by rfl) :
    s.Scrubbed vf (t.setVf w x) := by
  by_cases hw : vf = w
  · subst hw
    refine ⟨h.cores, h.reqs, ?_, ?_, ?_⟩ <;> rw [State.vf_setVf]
    · rw [hu, h.hused]
    · rw [hl, h.launches]
    · rw [hs, h.streams]
  · have hvf := State.vf_setVf_ne t w vf x hw
    exact ⟨h.cores, h.reqs, hvf ▸ h.hused, hvf ▸ h.launches, hvf ▸ h.streams⟩

theorem foldl {α : Type} {f : State → α → State} (h : State.Scrubbed vf s t) (hf : ∀ u x, s.Scrubbed vf u → s.Scrubbed vf (f u x))
    (l : List α) : s.Scrubbed vf (l.foldl f t) :=
  List.foldlRecOn (motive := fun u => s.Scrubbed vf u) _ _ h fun u hu x _ => hf u x hu

theorem freePool (h : State.Scrubbed vf s t) (w : Nat) (f : Nat × Nat) : s.Scrubbed vf (t.freePool w f) := by
  unfold State.freePool
  split
  · extract_lets v u
    have h1 : s.Scrubbed vf u := h.setVf _ _
    exact h1.fields
  · exact h

theorem devCharge (h : State.Scrubbed vf s t) (i n : Nat) : s.Scrubbed vf (t.devCharge i n) := by
  unfold State.devCharge
  split
  · exact h
  · exact h.fields

theorem scrubRun (h : State.Scrubbed vf s t) (l : List Nat) : s.Scrubbed vf (t.scrubRun l) := by
  induction l generalizing t with
  | nil => exact h.fields
  | cons f l ih =>
    unfold State.scrubRun
    split
    · exact h.fields
    · extract_lets x w s1 v
      have h1 : s.Scrubbed vf s1 := fields (devCharge (t := t.zeroFrame f) h.fields _ _)
      exact ih (h1.setVf _ _)

end State.Scrubbed

/-- The frames of a reset VF are used no more; its host launches and streams are what they were. -/
theorem State.scrubVf_spec (s : State) (vf : Nat) :
    (s.scrubVf vf).cores = s.cores ∧ (s.scrubVf vf).reqs = s.reqs ∧ ((s.scrubVf vf).vf vf).hused = 0 ∧
      ((s.scrubVf vf).vf vf).launches = (s.vf vf).launches ∧ ((s.scrubVf vf).vf vf).streams = (s.vf vf).streams := by
  unfold State.scrubVf
  extract_lets mine s1 pool s2 v
  have h1 : s.Scrubbed vf s1 := (State.Scrubbed.refl vf s).foldl (fun _ _ h => h.fields) _
  have h2 : s.Scrubbed vf s2 := h1.foldl (fun _ _ h => h.freePool _ _) _
  have hv : (s2.setVf vf { v with hused := 0, pused := 0 }).vf vf = { v with hused := 0, pused := 0 } := State.vf_setVf _ _ _
  refine ⟨h2.cores, h2.reqs, congrArg Vf.hused hv, (congrArg Vf.launches hv).trans h2.launches,
    (congrArg Vf.streams hv).trans h2.streams⟩

/-- The reset point leaves VFs and cores. -/
theorem State.resetPoint_only (s : State) (cids : List Nat) :
    (s.resetPoint cids).vfs = s.vfs ∧ (s.resetPoint cids).cores = s.cores := by
  unfold State.resetPoint
  refine List.foldlRecOn (motive := fun t : State => t.vfs = s.vfs ∧ t.cores = s.cores) _ _ ⟨rfl, rfl⟩ fun t ht r _ => ?_
  unfold State.post
  extract_lets p
  split <;> exact ht

theorem State.Kept.resetCtxsOf {a s : State} (h : a.Kept s) (cids : List Nat) : a.Kept (s.resetCtxsOf cids) :=
  State.Kept.fields (h.foldl (fun _ _ h => h.terminateCtx _ _) cids)

/-! #### Host launches (R282) -/

/-- A host launch that waits stays in its VF's queue. -/
theorem State.hostLaunches_of_waits {s t : State} {vf : Nat} {x : HostLaunch} (h : (s.vf vf).launches = [x])
    (ht : s.tryLaunch vf x = (false, t)) : s.hostLaunches vf 1 = t := by
  simp [State.hostLaunches, h, ht]

/-- A host launch that is over leaves its VF's queue. -/
theorem State.hostLaunches_of_over {s t : State} {vf : Nat} {x : HostLaunch} (h : (s.vf vf).launches = [x])
    (ht : s.tryLaunch vf x = (true, t)) (hk : s.Kept t) :
    s.hostLaunches vf 1 = t.setVf vf { t.vf vf with launches := [] } := by
  simp [State.hostLaunches, h, ht, hk.launches]

theorem exec_hlaunch_of_bad_word {s : State} {vf : Nat} {cmd : BitVec 256} (hr : s.dev.ready = true)
    (hw : s.wordOk vf (hlStat cmd) = false) : exec (.hlaunch vf cmd) s = .next (s.discard vf) := by
  simp [exec, execHlaunch, hr, hw]

/-- The host launch of a VF whose queue is empty is tried at once. -/
theorem exec_hlaunch_of_alone {s : State} {vf : Nat} {cmd : BitVec 256} (hr : s.dev.ready = true)
    (hw : s.wordOk vf (hlStat cmd) = true) (hl : (s.vf vf).launches = []) :
    exec (.hlaunch vf cmd) s = .next ((s.setVf vf { s.vf vf with launches := [{ cmd }] }).hostLaunches vf 1) := by
  simp [exec, execHlaunch, hr, hw, hl]

section

variable {s t : State} {vf : Nat} {x : HostLaunch} {c : Ctx}

theorem State.tryLaunch_of_no_context (h : s.hlContext vf x.cmd = none) : s.tryLaunch vf x = (true, s.hlStatus x.cmd 5) := by
  simp [State.tryLaunch, h]

variable (h : s.hlContext vf x.cmd = some c) (hf : x.failed = false) (hp : x.parked = none)
include h hf hp

theorem State.tryLaunch_of_unreadable (hl : s.readLaunch (hlCtx x.cmd) c (hlRec x.cmd).toNat = (.unreadable, t)) :
    s.tryLaunch vf x = (true, t.hlStatus x.cmd 6) := by
  simp [State.tryLaunch, h, hf, hp, hl]

theorem State.tryLaunch_of_badRecord (hl : s.readLaunch (hlCtx x.cmd) c (hlRec x.cmd).toNat = (.badRecord, t)) :
    s.tryLaunch vf x = (true, t.hlStatus x.cmd 1) := by
  simp [State.tryLaunch, h, hf, hp, hl]

theorem State.tryLaunch_of_wait (hl : s.readLaunch (hlCtx x.cmd) c (hlRec x.cmd).toNat = (.wait, t)) :
    s.tryLaunch vf x = (false, t) := by
  simp [State.tryLaunch, h, hf, hp, hl]

theorem State.tryLaunch_of_park {w : PageWant} (hl : s.readLaunch (hlCtx x.cmd) c (hlRec x.cmd).toNat = (.park w, t)) :
    s.tryLaunch vf x =
      (false, t.setVf vf { t.vf vf with launches := { x with parked := some w } :: (t.vf vf).launches.drop 1 }) := by
  simp [State.tryLaunch, h, hf, hp, hl]

theorem State.tryLaunch_of_both {r k status n : Nat} {u : State}
    (hl : s.readLaunch (hlCtx x.cmd) c (hlRec x.cmd).toNat = (.both r k, t))
    (hu : t.launch c { ctx := hlCtx x.cmd, lrec := hlRec x.cmd, depth := 1, nest := none, parent := none, stat := some (hlStat x.cmd) }
      r k = (status, n, u)) :
    s.tryLaunch vf x = (true, if status = 0 then u else u.hlStatus x.cmd status) := by
  simp [State.tryLaunch, h, hf, hp, hl, hu]

end

/-! #### The clauses -/

theorem commands_wait {s : State} {vf : Nat} {cmd : BitVec 256} (hr : s.dev.ready = true) (hw : s.commandsWait vf = true) :
    exec (if ccOp cmd = 0x10 then Instr.preempt vf cmd else if ccOp cmd = 0x11 then Instr.restore vf cmd
      else if ccOp cmd = 0x12 then Instr.terminate vf cmd else Instr.start vf cmd) s =
      .next { s with cmdq := s.cmdq ++ [(vf, cmd)] } := by
  rw [← State.takeCommand_of_waits hr hw]
  split
  · next h => exact exec_preempt h
  next h0 =>
  split
  · next h => exact exec_restore h
  next h1 =>
  split
  · next h => exact exec_terminate h
  · next h2 => exact exec_start h0 h1 h2

section

variable {s : State} {vf : Nat} {cmd : BitVec 256} (hr : s.dev.ready = true) (hq : s.commandsWait vf = false)
include hr hq

theorem exec_start_of_free (h : ccOp cmd = 0x13) : exec (.start vf cmd) s = .next (s.start vf cmd) := by
  rw [exec_start (by rw [h]; decide) (by rw [h]; decide) (by rw [h]; decide), State.takeCommand_of_free hr hq]
  simp [State.runCommand, h]

theorem exec_preempt_of_free (h : ccOp cmd = 0x10) : exec (.preempt vf cmd) s = .next (s.preempt vf cmd) := by
  rw [exec_preempt h, State.takeCommand_of_free hr hq]
  simp [State.runCommand, h]

theorem exec_restore_of_free (h : ccOp cmd = 0x11) : exec (.restore vf cmd) s = .next (s.restore vf cmd) := by
  rw [exec_restore h, State.takeCommand_of_free hr hq]
  simp [State.runCommand, h]

theorem exec_terminate_of_free (h : ccOp cmd = 0x12) : exec (.terminate vf cmd) s = .next (s.terminateCmd vf cmd) := by
  rw [exec_terminate h, State.takeCommand_of_free hr hq]
  simp [State.runCommand, h]

end

theorem State.ccbaOk_iff {s : State} {vf : Nat} {cmd : BitVec 256} :
    s.ccbaOk vf cmd = true ↔ ccCcba cmd % 256 = 0 ∧ s.ownsFrame vf (ccCcba cmd / 65536) = true := by
  simp [State.ccbaOk]

section

variable {s : State} {vf : Nat} {cmd : BitVec 256} (hr : s.dev.ready = true) (hw : s.wordOk vf (ccCmpl cmd) = true)
  (hop : ccOp cmd = 0x13)
include hr hw hop

/-- A start whose CCBA is bad names the lowest bad field up to it. -/
theorem State.start_of_bad_ccba (ha : ccCcba cmd % 256 ≠ 0 ∨ s.ownsFrame vf (ccCcba cmd / 65536) = false) :
    s.start vf cmd = s.complete (ccCmpl cmd) (2 ^ 32 + 2 ^ 16 * (2048 + (lowBad cmd).getD 64 + 1)) := by
  have hbad : ¬s.ccbaOk vf cmd = true := by
    rw [State.ccbaOk_iff, not_and_or, Bool.not_eq_true]
    exact ha
  refine State.start_of_startBad hr hw hop (fun h => absurd h hbad) ?_
  rw [State.startBad_eq hop, if_neg hbad]
  cases lowBad cmd <;> rfl

variable (hb : s.ccbBad vf cmd (s.num .module none (ccCcba cmd) 256) = none)
include hb

theorem State.start_of_low {off : Nat} (hl : lowBad cmd = some off) :
    s.start vf cmd = s.complete (ccCmpl cmd) (2 ^ 32 + 2 ^ 16 * (2048 + off + 1)) :=
  State.start_of_startBad hr hw hop (fun _ => hb) (by rw [State.startBad_eq hop, hl]; rfl)

variable (ha : s.ccbaOk vf cmd = true)
include ha

theorem State.start_of_high (hl : lowBad cmd = none) (hx : cmd.extractLsb' 128 64 ≠ 0) :
    s.start vf cmd = s.complete (ccCmpl cmd) (2 ^ 32 + 2 ^ 16 * (2048 + 128 + 1)) :=
  State.start_of_startBad hr hw hop (fun _ => hb) (by rw [State.startBad_eq hop, hl, if_pos ha, if_pos hx]; rfl)

theorem State.start_of_good (hl : lowBad cmd = none) (hx : cmd.extractLsb' 128 64 = 0) :
    s.start vf cmd = ((((s.renewCtx (ccCtx cmd)).resumeSteps vf (ccCtx cmd)).setCtx (ccCtx cmd)
      (ctxOfCcb (ccCcba cmd) vf (s.num .module none (ccCcba cmd) 256))).setCst (ccCtx cmd) 1).complete (ccCmpl cmd) 1 :=
  State.start_of_legal hr hw hop ha hb (by rw [State.startBad_eq hop, hl, if_pos ha, if_neg (not_not_intro hx)]; rfl)

end

/-- A pre-emption that finds no team: the context is stopped on the cores, and it is pre-empted where it leaves all of them. -/
theorem State.preemptOn_of_none {s : State} {vf cid : Nat} {c : Ctx} {a : BitVec 64} {one : Bool} {cores : List Nat}
    (hc : s.ctx? cid = some c) (h : s.teamsOn cid cores .placed = []) :
    let s1 := s.modCtx cid fun c => { c with stopped := (c.stopped ++ cores).dedup }
    s1.beginSave { vf, cid, cmpl := some a, teams := [], all := !one, back := false } cores =
      (if one = false ∧ c.cst = 1 then s1.setCst cid 2 else s1).complete a 1 := by
  intro s1
  have hs1 : s1 = s.setCtx cid { c with stopped := (c.stopped ++ cores).dedup } := State.modCtx_of s cid _ c hc
  have hc1 : s1.ctx? cid = some { c with stopped := (c.stopped ++ cores).dedup } := by
    rw [hs1, State.ctx?_setCtx]
  rw [State.beginSave_of_none (by rw [hs1]; exact h), State.endSave_eq hc1 rfl]
  simp

/-- The states that a reset of a VF goes through: its contexts end (`u`), its records, streams and host launches are blank, its frames
are scrubbed (`t`), and its contexts and audits are no more. -/
theorem execVfReset_of_ready {s : State} {vf : Nat} (hr : s.dev.ready = true) : ∃ (cids : List Nat) (u t : State),
    (s.resetPoint cids).Kept u ∧ exec (.vfReset vf) s = .next t ∧
    State.Scrubbed vf (((u.blankRecords vf (u.vf vf).recFirst (u.vf vf).recCount).setVf vf
      { u.vf vf with streams := List.replicate 8 {}, launches := [] }).scrubVf vf) t ∧
    (∀ p ∈ t.ctxs, p.2.vf ≠ vf) ∧ ∀ j ∈ t.audits, j.vf ≠ vf := by
  change ∃ cids u t, _ ∧ execVfReset vf s = .next t ∧ _
  unfold execVfReset
  rw [if_neg (by simp [hr])]
  refine ⟨_, _, _, (State.Kept.refl _).resetCtxsOf _, rfl, State.Scrubbed.fields ((State.Scrubbed.refl vf _).scrubRun _),
    fun p hp => ?_, fun j hj => ?_⟩
  · simpa using (List.mem_filter.mp hp).2
  · simpa using (List.mem_filter.mp hj).2

theorem State.blankRecords_cores (s : State) (vf rid n : Nat) : (s.blankRecords vf rid n).cores = s.cores := by
  obtain ⟨m, hm⟩ := s.blankRecords_only vf rid n
  rw [hm]

/-- What is left of a VF after its reset (R270). -/
theorem execVfReset_spec {s : State} {vf : Nat} (hr : s.dev.ready = true) : ∃ t, exec (.vfReset vf) s = .next t ∧
    (∀ cid c, t.ctx? cid = some c → c.vf ≠ vf) ∧ (t.vf vf).hused = 0 ∧ (t.vf vf).launches = [] ∧
    (t.vf vf).streams = List.replicate 8 {} ∧ (∀ j ∈ t.audits, j.vf ≠ vf) ∧ (∀ n, (t.core n).score = (s.core n).score) ∧
    ∀ i, i < (s.vf vf).recCount → t.req ((s.vf vf).recFirst + i) = blankRecord ((s.vf vf).recFirst + i) vf := by
  obtain ⟨cids, u, t, hk, ht, hscr, hctx, haud⟩ := execVfReset_of_ready (vf := vf) hr
  obtain ⟨hpv, hpc⟩ := s.resetPoint_only cids
  have hvf : (s.resetPoint cids).vf vf = s.vf vf := by unfold State.vf; rw [hpv]
  have hrf := hk.recFirst vf
  have hrc := hk.recCount vf
  rw [hvf] at hrf hrc
  obtain ⟨hcores, hreqs, hused, hlaunches, hstreams⟩ := State.scrubVf_spec _ vf
  rw [State.vf_setVf] at hlaunches hstreams
  refine ⟨t, ht, fun cid c hc => hctx _ (Map.mem_of_get? hc), hscr.hused.trans hused, hscr.launches.trans hlaunches,
    hscr.streams.trans hstreams, haud, fun n => ?_, fun i hi => ?_⟩
  · have ht : t.cores = u.cores := (hscr.cores.trans hcores).trans (u.blankRecords_cores _ _ _)
    have hn : (u.core n).score = (s.core n).score := by
      rw [hk.score]
      unfold State.core
      rw [hpc]
    rw [← hn]
    unfold State.core
    rw [ht]
  · have hreq : t.req ((s.vf vf).recFirst + i) =
        (u.blankRecords vf (u.vf vf).recFirst (u.vf vf).recCount).req ((s.vf vf).recFirst + i) := by
      unfold State.req
      rw [hscr.reqs, hreqs]
      rfl
    rw [hreq, State.req_blankRecords, if_pos (by omega)]

/-- The host launch that a VF's queue holds is over. -/
def State.launchOver (s : State) (vf : Nat) : State := s.setVf vf { s.vf vf with launches := [] }

theorem State.Kept.hlStatus {a s : State} (h : a.Kept s) (cmd : BitVec 256) (status : Nat) : a.Kept (s.hlStatus cmd status) :=
  h.stored ((State.Stored.refl s).modWriteNum _ _ _)

theorem State.Kept.readLaunch_of {s t : State} {cid lrec : Nat} {c : Ctx} {r : LaunchRead} (h : s.readLaunch cid c lrec = (r, t)) :
    s.Kept t :=
  ((State.Kept.refl s).readLaunch cid c lrec).of_eq h

section

variable {s t : State} {vf : Nat} {cmd : BitVec 256} {c : Ctx} (hq : (s.vf vf).launches = [{ cmd }])
include hq

theorem State.hostLaunches_of_no_context (h : s.hlContext vf cmd = none) :
    s.hostLaunches vf 1 = (s.hlStatus cmd 5).launchOver vf :=
  State.hostLaunches_of_over hq (State.tryLaunch_of_no_context h) ((State.Kept.refl s).hlStatus _ _)

variable (h : s.hlContext vf cmd = some c)
include h

theorem State.hostLaunches_of_unreadable (hl : s.readLaunch (hlCtx cmd) c (hlRec cmd).toNat = (.unreadable, t)) :
    s.hostLaunches vf 1 = (t.hlStatus cmd 6).launchOver vf :=
  State.hostLaunches_of_over hq (State.tryLaunch_of_unreadable h rfl rfl hl)
    ((State.Kept.readLaunch_of hl).hlStatus _ _)

theorem State.hostLaunches_of_badRecord (hl : s.readLaunch (hlCtx cmd) c (hlRec cmd).toNat = (.badRecord, t)) :
    s.hostLaunches vf 1 = (t.hlStatus cmd 1).launchOver vf :=
  State.hostLaunches_of_over hq (State.tryLaunch_of_badRecord h rfl rfl hl)
    ((State.Kept.readLaunch_of hl).hlStatus _ _)

theorem State.hostLaunches_of_wait (hl : s.readLaunch (hlCtx cmd) c (hlRec cmd).toNat = (.wait, t)) : s.hostLaunches vf 1 = t :=
  State.hostLaunches_of_waits hq (State.tryLaunch_of_wait h rfl rfl hl)

theorem State.hostLaunches_of_park {w : PageWant} (hl : s.readLaunch (hlCtx cmd) c (hlRec cmd).toNat = (.park w, t)) :
    s.hostLaunches vf 1 = t.setVf vf { t.vf vf with launches := [{ cmd, parked := some w }] } := by
  have hk := (State.Kept.readLaunch_of hl).launches vf
  rw [State.hostLaunches_of_waits hq (State.tryLaunch_of_park h rfl rfl hl), hk, hq]
  rfl

/-- A host launch whose record was read is over: it is accepted, or its STAT says why not. -/
theorem State.hostLaunches_of_both {r k status n : Nat} {u : State}
    (hl : s.readLaunch (hlCtx cmd) c (hlRec cmd).toNat = (.both r k, t))
    (hu : t.launch c { ctx := hlCtx cmd, lrec := hlRec cmd, depth := 1, nest := none, parent := none, stat := some (hlStat cmd) } r k =
      (status, n, u)) :
    s.hostLaunches vf 1 = (if status = 0 then u else u.hlStatus cmd status).launchOver vf := by
  have hk : s.Kept u := ((State.Kept.readLaunch_of hl).launch c _ r k).of_eq (congrArg Prod.snd hu)
  refine State.hostLaunches_of_over hq (State.tryLaunch_of_both h rfl rfl hl hu) ?_
  split
  · exact hk
  · exact hk.hlStatus _ _

end

/-- Settles O50, command by command: each is what its own function of the model does with a legal command. What it leaves is read off
the few fields that the writes of status words (`State.Stored`) and the end of a context (`State.Kept`) can change. -/
theorem contextCommands : Obligations.ContextCommands := by
  unfold Obligations.ContextCommands
  refine ⟨fun s vf cmd hr hw => commands_wait hr hw, fun s vf cmd hr hq hw hop => ?_,
    fun s vf cmd c hr hq hw hc hvf hcst hok => ⟨fun hop => ?_, fun hop ha hrun => ?_, fun hop => ?_⟩,
    fun s j tid t gr c ht hc hg hret hn => ⟨fun hm => ?_, fun hm => ?_⟩, fun s cid gid g hg => ?_, fun s vf hr => ?_,
    fun s vf cmd hr => ⟨fun hw => ?_, fun hw hl => ?_⟩⟩
  · rw [exec_start_of_free hr hq hop]
    refine ⟨fun ha => congrArg _ (State.start_of_bad_ccba hr hw hop ha), fun ha0 ha1 => ?_⟩
    have ha := State.ccbaOk_iff.mpr ⟨ha0, ha1⟩
    refine ⟨fun off hb => congrArg _ (State.start_of_ccbBad hr hw hop ha hb),
      fun off hb hl => congrArg _ (State.start_of_low hr hw hop hb hl),
      fun hb hl hx => congrArg _ (State.start_of_high hr hw hop hb ha hl hx), fun hb hl hx => ?_⟩
    obtain ⟨hctx, hother, hgroups⟩ := State.started (s := s) (vf := vf) (cid := ccCtx cmd) (a := ccCcba cmd)
      (b := s.num .module none (ccCcba cmd) 256)
    exact ⟨_, _, congrArg _ (State.start_of_good hr hw hop hb ha hl hx), hctx, rfl, rfl, Nat.mod_eq_of_lt (ccCcba_lt cmd),
      (ofNat_bits_low _ 64 0 63 rfl).trans (by simp), ofNat_bits_low _ 64 128 191 rfl, ofNat_bits_low _ 64 192 255 rfl,
      ofNat_bits_low _ 32 384 415 rfl, rfl, rfl, rfl, rfl, rfl, hother, hgroups⟩
  · refine ⟨s.terminateCtx (ccCtx cmd) { cause := 6 }, ?_, ?_⟩
    · rw [exec_terminate_of_free hr hq hop]
      exact congrArg _ (State.command_of_legal _ hr hw hc hvf hcst hok)
    · obtain ⟨hnone, hsome, hctx, hgrids, hgroups⟩ := State.terminated { cause := 6 } hc (by omega)
      exact ⟨⟨hnone, hsome⟩, ⟨c.terminated, hctx, rfl, rfl, rfl, rfl, rfl, fun q hq => List.eq_of_mem_replicate hq⟩, hgrids, hgroups⟩
  · rw [exec_preempt_of_free hr hq hop, State.preempt_of_legal hr hw hc hvf hcst hok ha hrun]
    refine ⟨rfl, fun hteams => congrArg _ (State.preemptOn_of_none hc hteams)⟩
  · rw [exec_restore_of_free hr hq hop]
    obtain ⟨t, ht, h⟩ := State.restore_of_legal hr hw hc hvf hcst hok
    exact ⟨t, congrArg _ ht, h⟩
  · exact State.saveOne_of_left ht hc hg hret hm
  · exact ⟨_, State.saveOne_of_done ht hc hg hret hm, State.saveTeam_spec _ _ _ _ ht hn⟩
  · rw [State.group?_saveGroup, hg]
    rfl
  · obtain ⟨t, ht, hctx, hused, hlaunches, hstreams, haud, hscore, hrec⟩ := execVfReset_spec (vf := vf) hr
    exact ⟨t, ht, hctx, hused, hlaunches, hstreams, haud, hscore, fun i hi => (hrec i hi).trans (blankRecord_eq _ _)⟩
  · exact exec_hlaunch_of_bad_word hr hw
  · rw [exec_hlaunch_of_alone hr hw hl]
    have hq : ((s.setVf vf { s.vf vf with launches := [{ cmd }] }).vf vf).launches = [{ cmd }] := by rw [State.vf_setVf]
    refine ⟨fun h => congrArg _ (State.hostLaunches_of_no_context hq h), fun c h =>
      ⟨fun s1 hl => congrArg _ (State.hostLaunches_of_unreadable hq h hl),
        fun s1 hl => congrArg _ (State.hostLaunches_of_badRecord hq h hl),
        fun s1 hl => congrArg _ (State.hostLaunches_of_wait hq h hl),
        fun w s1 hl => congrArg _ (State.hostLaunches_of_park hq h hl), fun r k status n t s1 hl hu => ?_⟩⟩
    rw [State.hostLaunches_of_both hq h hl hu]
    exact ⟨fun h0 => by rw [if_pos h0]; rfl, fun h0 => by rw [if_neg h0]; rfl⟩

end Sys2Proof.Machine
end

section
namespace Sys2Proof.Machine

set_option Elab.async false

/-! ### The instruction that a step executes (O19) -/

/-! #### The unit at a slot's PC -/

theorem decoded_of_ok {ws : List Word} {i : Instr} {k : Nat} (h : decode ws = .ok (i, k)) : decoded ws = some i := by
  simp [decoded, h]

theorem decoded_of_error {ws : List Word} {err : DecodeErr} (h : decode ws = .error err) : decoded ws = none := by
  simp [decoded, h]

section

variable {s s1 : State} {gid n : Nat} {slot : Bool} {g : Group} {e : Env} {ws : List Word}
  (hg : s.group? gid = some g) (he : s.envOf { gid, slot, pc := (g.slot slot).pc, len := 4 } = some e)
  (hw : e.inWindow e.pc = true) (hf : s.fetchInstr e e.pc.toNat 0 = (.words ws s1, n))
include hg he hw hf

/-- Words that decode, and are no MPX, are the instruction to execute (R82). -/
theorem State.fetchUnit_of_instr {i : Instr} {k : Nat} (hd : decode ws = .ok (i, k)) (hi : ∀ p, i ≠ .mpx p) :
    s.fetchUnit gid slot = .run i (s1.runs { gid, slot, pc := (g.slot slot).pc, len := n }) := by
  unfold State.fetchUnit
  simp only [hg, he, hw, hf, decoded_of_ok hd, Bool.not_true, Bool.false_eq_true, if_false]

/-- An MPX is a unit together with the instruction after it (R94). -/
theorem State.fetchUnit_of_mpx {s2 : State} {p : Prefix} {k m : Nat} {ws2 : List Word} (hd : decode ws = .ok (.mpx p, k))
    (hw2 : e.inWindow (e.pc + 4) = true) (hf2 : s1.fetchInstr e (e.pc.toNat + 4) 4 = (.words ws2 s2, m)) :
    s.fetchUnit gid slot =
      .run (.mpx p) (s2.runs { gid, slot, pc := (g.slot slot).pc, len := m, next := decoded ws2 }) := by
  unfold State.fetchUnit State.fetchPrefixed
  simp only [hg, he, hw, hf, decoded_of_ok hd, hw2, hf2, Bool.not_true, Bool.false_eq_true, if_false, if_true]

/-- Words that decode to no instruction, and begin with no MPX, trap ILLOP (R98). -/
theorem State.fetchUnit_of_error {err : DecodeErr} (hd : decode ws = .error err) (hm : mpxWord ws = false) :
    s.fetchUnit gid slot = .over (s1.takeTrap { e with len := n } .illop 0 e.lanes) := by
  unfold State.fetchUnit
  simp only [hg, he, hw, hf, decoded_of_error hd, hm, Bool.not_true, Bool.not_false, Bool.false_eq_true, if_false, if_true]
  rfl

/-- The trap of an illegal MPX spans the words after it (log 46). -/
theorem State.fetchUnit_of_illegal_mpx {s2 : State} {err : DecodeErr} {m : Nat} {ws2 : List Word} (hd : decode ws = .error err)
    (hm : mpxWord ws = true) (hw2 : e.inWindow (e.pc + 4) = true)
    (hf2 : s1.fetchInstr e (e.pc.toNat + 4) 4 = (.words ws2 s2, m)) :
    s.fetchUnit gid slot = .over (s2.takeTrap { e with len := m } .illop 0 e.lanes) := by
  unfold State.fetchUnit State.fetchPrefixed
  simp only [hg, he, hw, hf, decoded_of_error hd, hm, hw2, hf2, Bool.not_true, Bool.false_eq_true, if_false, if_true]
  rfl

/-- An MPX whose following word lies outside the code window traps ILLOP (R362; log 73). -/
theorem State.fetchUnit_of_mpx_at_end (hm : mpxWord ws = true) (hw2 : e.inWindow (e.pc + 4) = false)
    (hd : (∃ p k, decode ws = .ok (.mpx p, k)) ∨ ∃ err, decode ws = .error err) :
    s.fetchUnit gid slot = .over (s1.takeTrap { e with len := 4 } .illop 0 e.lanes) := by
  unfold State.fetchUnit State.fetchPrefixed
  rcases hd with ⟨p, k, hd⟩ | ⟨err, hd⟩
  · simp only [hg, he, hw, hf, decoded_of_ok hd, hw2, Bool.not_true, Bool.false_eq_true, if_false]
    rfl
  · simp only [hg, he, hw, hf, decoded_of_error hd, hm, hw2, Bool.not_true, Bool.false_eq_true, if_false]
    rfl

end

/-! #### The unit executed -/

theorem State.next_of_envOf {s : State} {u : Cur} {e : Env} (h : s.envOf u = some e) : e.next = u.next := by
  unfold State.envOf at h
  repeat' split at h
  all_goals cases h
  rfl

theorem Env.subject_of_instr {e : Env} {i : Instr} (h : ∀ p, i ≠ .mpx p) : e.subject i = i := by
  unfold Env.subject
  split
  · exact absurd rfl (h _)
  · rfl

theorem Env.subject_of_mpx {e : Env} {p : Prefix} {i : Instr} (hn : e.next = some i) (hp : pairOk p i = true) :
    e.subject (.mpx p) = i := by
  simp [Env.subject, hn, hp]

theorem State.runFor_of_instr {s : State} {e : Env} {i : Instr} (hl : e.loggedTrap = none) (h : ∀ p, i ≠ .mpx p) :
    s.runFor e i = exec i s := by
  unfold State.runFor runUnit
  simp only [hl]

/-- The MPX stages its fields, and the instruction it prefixes is executed with them (R94). -/
theorem State.runFor_of_mpx {s : State} {u : Cur} {e : Env} {p : Prefix} {i : Instr} (he : (s.runs u).env? = some e)
    (hn : u.next = some i) (hl : e.loggedTrap = none) (hp : pairOk p i = true) :
    (s.runs u).runFor e (.mpx p) = exec i (s.runs { u with pfx := some p }) := by
  have hnext : e.next = some i := (State.next_of_envOf (u := u) he).trans hn
  have hmpx : exec (.mpx p) (s.runs u) = .next (s.runs { u with pfx := some p }) := by
    change execMpx p (s.runs u) = _
    unfold execMpx
    simp only [he, hnext, hp, if_true]
    rfl
  unfold State.runFor runUnit runPrefixed
  simp only [hl, hmpx]
  simp only [State.runs, hn]

/-! #### The issue -/

/-- What the issue of a ready slot makes of the state that its instruction answers: a trap that came too early in a re-execution waits
for its turn, else the instruction enters the replay queue (R244, R252). -/
def State.issued (s : State) (gid : Nat) (slot : Bool) (d : Env) (i : Instr) (t : State) : State :=
  if d.trapsEarly t then s.outOfTurn gid slot else (t.replayEnter d i).after

/-- What the retry of a waiting slot makes of the state that its instruction answers (R31, R62). -/
def State.retried (s : State) (gid : Nat) (slot : Bool) (pc : BitVec 64) (t : State) : State :=
  if t.stillWaits gid slot pc then t.after else s.resumes gid slot

theorem State.issueReady_of_over {s t : State} {gid : Nat} {slot : Bool} (h : (s.noteIssue gid slot).fetchUnit gid slot = .over t) :
    s.issueReady gid slot = .next t.after := by
  simp [State.issueReady, h]

theorem State.issueReady_of_run {s t : State} {gid : Nat} {slot : Bool} {i j : Instr} {d : Env}
    (h : (s.noteIssue gid slot).fetchUnit gid slot = .run i t) (hd : t.env? = some d) (hj : d.subject i = j)
    (ht : d.turn t j = true) : s.issueReady gid slot = mapNext (s.issued gid slot d j) (t.runFor d i) := by
  unfold State.issueReady
  simp only [h, hd, hj, ht, Bool.not_true, Bool.false_eq_true, if_false]
  cases t.runFor d i <;> rfl

theorem State.tryWaiting_of_run {s t : State} {gid : Nat} {slot : Bool} {pc : BitVec 64} {i : Instr} {d : Env}
    (h : s.fetchUnit gid slot = .run i t) (hd : t.env? = some d) (ht : d.turn t (d.subject i) = true) :
    s.tryWaiting gid slot pc = mapNext (s.retried gid slot pc) (t.runFor d i) := by
  unfold State.tryWaiting
  simp only [h, hd, ht, Bool.not_true, Bool.false_eq_true, if_false]
  cases t.runFor d i <;> rfl

/-- Noting an issue changes nothing of the slots. -/
theorem State.group?_noteIssue {s : State} {gid : Nat} {slot : Bool} {g : Group} (hg : s.group? gid = some g) :
    ∃ g', (s.noteIssue gid slot).group? gid = some g' ∧ ∀ b, g'.slot b = g.slot b := by
  unfold State.noteIssue
  simp only [hg]
  split
  · exact ⟨g, hg, fun _ => rfl⟩
  · rw [State.group?_modGroup]
    exact ⟨{ g with issuedAt := s.cycle }, by exact congrArg (Option.map _) hg, fun b => by cases b <;> rfl⟩

section

variable {s : State} {gid : Nat} {slot : Bool} {g : Group} (hg : s.group? gid = some g) (hm : g.mayAct slot = true)
include hg hm

theorem State.issueFrom_of_ready (hw : (g.slot slot).wait = .ready) (hs : s.selects gid slot = true) :
    s.issueFrom gid slot = s.issueReady gid slot := by
  simp [State.issueFrom, hg, hm, hw, hs, Wait.rests]

theorem State.issueFrom_of_waiting (hr : (g.slot slot).wait.rests = false) (hw : (g.slot slot).wait ≠ .ready) :
    s.issueFrom gid slot = s.tryWaiting gid slot (g.slot slot).pc := by
  simp [State.issueFrom, hg, hm, hr, hw]

end

/-- Settles O19: the step is the issue that the schedule names, and the issue goes by what the fetched words decode to. -/
theorem stepRunsDecodedInstruction : Obligations.StepRunsDecodedInstruction := by
  unfold Obligations.StepRunsDecodedInstruction
  intro s s1 gid n slot rest g e ws hs hd hg hm hr s0 u ran
  have hstep : step s = (s.clocked rest).issueFrom gid slot := step_of_sched hd hs
  refine ⟨fun hw hsel he hin hf => ?_, fun i k d hw he hin hf hdec hi hd ht hl => ?_⟩
  · obtain ⟨g', hg', hslots⟩ := State.group?_noteIssue (slot := slot) hg
    have he' : s0.envOf { gid, slot, pc := (g'.slot slot).pc, len := 4 } = some e := by rw [hslots]; exact he
    have hready : step s = (s.clocked rest).issueReady gid slot := hstep.trans (State.issueFrom_of_ready hg hm hw hsel)
    refine ⟨fun err hdec => ⟨fun hmpx => ?_, fun m ws2 s2 hmpx hin2 hf2 => ?_⟩, fun hmpx hin2 hdec => ?_,
      fun i k d hdec hi hd ht hl => ?_, fun p k m i j ws2 s2 d hdec hin2 hf2 hdec2 hd ht hl hp => ?_⟩
    · exact hready.trans (State.issueReady_of_over (State.fetchUnit_of_error hg' he' hin hf hdec hmpx))
    · exact hready.trans (State.issueReady_of_over (State.fetchUnit_of_illegal_mpx hg' he' hin hf hdec hmpx hin2 hf2))
    · exact hready.trans (State.issueReady_of_over (State.fetchUnit_of_mpx_at_end hg' he' hin hf hmpx hin2 hdec))
    · have hunit := State.fetchUnit_of_instr hg' he' hin hf hdec hi
      rw [hslots] at hunit
      rw [hready, State.issueReady_of_run hunit hd (Env.subject_of_instr hi) ht, State.runFor_of_instr hl hi]
      rfl
    · have hunit := State.fetchUnit_of_mpx hg' he' hin hf hdec hin2 hf2
      rw [hslots, decoded_of_ok hdec2] at hunit
      have hnext : d.next = some i := State.next_of_envOf (u := { u with len := m, next := some i }) hd
      rw [hready, State.issueReady_of_run hunit hd (Env.subject_of_mpx hnext hp) ht, State.runFor_of_mpx hd rfl hl hp]
      rfl
  · have hunit := State.fetchUnit_of_instr hg he hin hf hdec hi
    rw [hstep, State.issueFrom_of_waiting hg hm hr hw,
      State.tryWaiting_of_run hunit hd (by rw [Env.subject_of_instr hi]; exact ht), State.runFor_of_instr hl hi]
    rfl

end Sys2Proof.Machine
end

section
namespace Sys2Proof.Machine

set_option Elab.async false

/-! ### Uncorrectable errors, spares and the barrier watchdog (O56) -/

/-! #### A group that stops -/

theorem State.sendFor_groups (s : State) (vf node : Nat) (r : FabReq) : (s.sendFor vf node r).groups = s.groups := by
  obtain ⟨v, e, p, h, hs⟩ := s.sendFor_only vf node r
  rw [hs]

theorem State.withdraw_groups (s : State) (cid : Nat) (op : EngOp) : (s.withdraw cid op).groups = s.groups := by
  unfold State.withdraw
  refine List.foldlRecOn (motive := fun t : State => t.groups = s.groups) _ _ rfl fun t ht n _ => ?_
  rw [State.sendFor_groups, ht]

theorem State.withdrawAll_groups (s : State) (g : Group) : (s.withdrawAll g).groups = s.groups := by
  unfold State.withdrawAll
  refine List.foldlRecOn (motive := fun t : State => t.groups = s.groups) _ _ rfl fun t ht op _ => ?_
  repeat' split
  · exact ht
  · exact ht
  · exact ht
  · rw [State.withdraw_groups, ht]

theorem State.freeConts_groups (s : State) (gid : Nat) : (s.freeConts gid).groups = s.groups := by
  unfold State.freeConts
  repeat' split
  · rfl
  · rfl
  · rfl
  · exact (s.modCtx_only _ _).1

theorem State.drain_groups (s : State) : s.drain.groups = s.groups := State.Stored.groups (State.Stored.refl s).drain

/-- No store is pending after a drain that was not pending before it. -/
theorem State.mem_pend_of_drainFrom {p : PStore} (ps : List PStore) : ∀ {s : State} {kept : List PStore},
    p ∈ (s.drainFrom ps kept).pend → p ∈ kept ∨ p ∈ ps := by
  induction ps with
  | nil => exact fun h => .inl h
  | cons q ps ih =>
    intro s kept h
    unfold State.drainFrom at h
    split at h
    · exact (ih h).imp_right (List.mem_cons_of_mem _)
    · rcases ih h with h | h
      · exact (List.mem_append.mp h).imp_right fun h => by simp [List.mem_singleton.mp h]
      · exact .inr (List.mem_cons_of_mem _ h)

theorem State.mem_pend_of_drain {p : PStore} {s : State} (h : p ∈ s.drain.pend) : p ∈ s.pend :=
  (State.mem_pend_of_drainFrom _ h).resolve_left List.not_mem_nil

theorem State.modTeam_pend (s : State) (tid : Nat) (f : Team → Team) : (s.modTeam tid f).pend = s.pend := by
  unfold State.modTeam
  split <;> rfl

theorem State.modGroup_pend (s : State) (gid : Nat) (f : Group → Group) : (s.modGroup gid f).pend = s.pend := by
  unfold State.modGroup
  split <;> rfl

/-- A group as it stands once it has stopped for good: nothing of it runs or is awaited, and its registers are as they were. -/
def Group.stopped (g : Group) (life : Life) : Group :=
  { g with
    life, slot0 := { pc := g.slot0.pc, mask := g.slot0.mask }, slot1 := { pc := g.slot1.pc, mask := g.slot1.mask }
    loads := [], eng := [[], [], [], []], engErr := [], mat := [], matErr := [], handler := none }

/-- A stop changes its group, and discards those of its stores that no other group has seen (R204, R253). -/
theorem State.stopGroup_spec {s : State} {gid : Nat} {g : Group} (life : Life) (hg : s.group? gid = some g) :
    (s.stopGroup gid life).group? gid = some (g.stopped life) ∧
      ∀ p ∈ (s.stopGroup gid life).pend, p.gid = gid → p.held = false ∧ p.level ≠ .group := by
  unfold State.stopGroup
  split
  · next he => rw [he] at hg; cases hg
  next g' he =>
  obtain rfl : g' = g := Option.some.inj (he.symm.trans hg)
  extract_lets s0 s1 s2
  have h0 : s0.groups = s.groups :=
    ((((s.withdrawAll g').withdrawKeys gid).freeConts gid).vacate_only gid).1.trans
      ((State.freeConts_groups _ _).trans (((s.withdrawAll g').withdrawKeys_only gid).1.trans (s.withdrawAll_groups g')))
  have h1 : s1.groups = s0.groups := State.drain_groups _
  have h2 : s2.group? gid = some g' :=
    (congrArg (Map.get? · gid) ((State.modTeam_groups _ _ _).trans (h1.trans h0))).trans hg
  refine ⟨?_, fun p hp hgid => ?_⟩
  · rw [State.group?_modGroup, h2]
    rfl
  · rw [State.modGroup_pend, State.modTeam_pend] at hp
    have hkept := (List.mem_filter.mp (State.mem_pend_of_drain hp)).2
    simpa [hgid] using hkept

/-! #### The events -/

section

variable {s : State} {gid : Nat} {a : Actor} (ha : s.actor gid = some a)
include ha

theorem State.group?_of_actor : s.group? gid = some a.g := by
  unfold State.actor at ha
  repeat' split at ha
  all_goals cases ha
  assumption

theorem exec_uncorrectableError_of_resident (hl : a.g.life = .resident) :
    exec (.uncorrectableError gid) s = .next (s.uncorrectable gid) := by
  change execUncorrectableError gid s = _
  simp [execUncorrectableError, State.group?_of_actor ha, hl]

variable (hr : a.g.replays = false)
include hr

theorem State.uncorrectable_of_no_step (h : a.gr.step = none) : s.uncorrectable gid =
    ((s.endGroup gid .halted none).tell (.halted a.gr.ctx a.gr.id a.t.no a.g.no a.t.core)).sweep := by
  simp [State.uncorrectable, ha, hr, h]

theorem State.uncorrectable_of_step (h : a.gr.step.isSome = true) :
    s.uncorrectable gid = (s.endGroup gid .ended (some (2, a.t.core))).sweep := by
  simp [State.uncorrectable, ha, hr, h]

end

section

variable {s : State} {gid : Nat} {g : Group} (hg : s.group? gid = some g)
include hg

/-- What the drain point of a group waits for (R254): its loads, its matrix operations, and what its slots still load. -/
theorem exec_laneSpareSwitch_of_loading {bad : Bool}
    (h : g.loads ≠ [] ∨ g.mat ≠ [] ∨ ∃ b, (g.slot b).dest ≠ [] ∨ (g.slot b).sent = true) :
    exec (.laneSpareSwitch gid bad) s = .next s := by
  change execLaneSpareSwitch gid bad s = _
  have hwait : (g.drained || decide (g.loads ≠ []) || decide (g.mat ≠ []) || g.slot0.loading || g.slot1.loading) = true := by
    rcases h with h | h | ⟨b, h⟩
    · simp [h]
    · simp [h]
    · cases b <;> simp_all [Group.slot, Slot.loading]
  simp only [execLaneSpareSwitch, hg, hwait, if_true]

theorem exec_laneSpareSwitch_of_done (hd : g.drained = false)
    (h : ¬(g.loads ≠ [] ∨ g.mat ≠ [] ∨ ∃ b, (g.slot b).dest ≠ [] ∨ (g.slot b).sent = true)) :
    exec (.laneSpareSwitch gid false) s = .next (s.setGroup gid { g with drained := true }) := by
  change execLaneSpareSwitch gid false s = _
  have hdone : (g.drained || decide (g.loads ≠ []) || decide (g.mat ≠ []) || g.slot0.loading || g.slot1.loading) = false := by
    simp_all [Group.slot, Slot.loading]
  simp only [execLaneSpareSwitch, hg, hdone, Bool.false_and, Bool.false_eq_true, if_false]

end

@[simp] theorem leBytes_length (n x : Nat) : (leBytes n x).length = n := by
  induction n generalizing x with
  | zero => rfl
  | succ n ih => simp [leBytes, ih]

/-- The diagnostic of a barrier is 64 bytes, and 16 for each group (R273). -/
theorem State.barDiagnostic_length (s : State) (t : Team) (gr : Grid) (n : Nat) (b : Barrier) :
    (s.barDiagnostic t gr n b).length = 64 + 16 * t.groups.length := by
  have hentries (f : Nat → Nat) (l : List Nat) : ((l.map fun gid => leBytes 16 (f gid)).flatten).length = 16 * l.length := by
    induction l with
    | nil => rfl
    | cons gid l ih => simp [ih, Nat.mul_add, Nat.add_comm]
  unfold State.barDiagnostic
  extract_lets came head
  rw [List.length_append, leBytes_length, hentries]

/-- Settles O56: an error ends or halts its group, what a stop leaves of a group, the drain point by what still loads, and the watchdog by
the end of the period. -/
theorem errorsAndWatchdog : Obligations.ErrorsAndWatchdog := by
  unfold Obligations.ErrorsAndWatchdog
  refine ⟨fun s gid a ha hl hr => ⟨fun h => ?_, fun h => ?_⟩, fun s gid g life hg => ?_, fun s gid g hg hd => ⟨fun h bad => ?_, fun h => ?_⟩,
    fun s tid n t b gr ht hb hgr harr => ⟨fun h => ?_, fun h => ?_, s.barDiagnostic_length t gr n b⟩⟩
  · rw [exec_uncorrectableError_of_resident ha hl, State.uncorrectable_of_no_step ha hr h]
  · rw [exec_uncorrectableError_of_resident ha hl, State.uncorrectable_of_step ha hr h]
  · obtain ⟨hstopped, hpend⟩ := State.stopGroup_spec life hg
    exact ⟨g.stopped life, hstopped, rfl, rfl, rfl, rfl, rfl, rfl, hpend⟩
  · exact exec_laneSpareSwitch_of_loading hg h
  · exact exec_laneSpareSwitch_of_done hg hd h
  · change execBarrierWatchdogExpiry tid n s = _
    simp [execBarrierWatchdogExpiry, ht, hb, hgr, Barrier.expiry, h]
  · change execBarrierWatchdogExpiry tid n s = _
    simp [execBarrierWatchdogExpiry, ht, hb, hgr, Barrier.expiry, harr, Nat.not_lt.mpr h]

end Sys2Proof.Machine
end

section
namespace Sys2Proof.Machine

set_option Elab.async false

/-! ### Bit fields, and the fields of a request record (R43) -/

/-! #### Fields of a number -/

theorem testBit_bits (x hi lo i : Nat) : (bits x hi lo).testBit i = (decide (i < hi + 1 - lo) && x.testBit (lo + i)) := by
  simp [bits, Nat.testBit_mod_two_pow, Nat.testBit_shiftRight]

theorem bits_lt (x hi lo : Nat) : bits x hi lo < 2 ^ (hi + 1 - lo) := Nat.mod_lt _ (Nat.two_pow_pos _)

/-- A field replaced: its bits are the value's, and every other bit is as it was. -/
theorem testBit_setBits (x lo w v i : Nat) : (setBits x lo w v).testBit i =
    if i < lo then x.testBit i else if i < lo + w then v.testBit (i - lo) else x.testBit i := by
  have hlow : x % 2 ^ lo < 2 ^ lo := Nat.mod_lt _ (Nat.two_pow_pos _)
  have hmid : v % 2 ^ w < 2 ^ w := Nat.mod_lt _ (Nat.two_pow_pos _)
  have hsum : setBits x lo w v = 2 ^ lo * (2 ^ w * (x >>> (lo + w)) + v % 2 ^ w) + x % 2 ^ lo := by
    simp only [setBits, Nat.shiftLeft_eq, Nat.pow_add]
    ring
  rw [hsum, Nat.testBit_two_pow_mul_add _ hlow]
  split
  · next h => simp [h]
  · next h =>
    rw [Nat.testBit_two_pow_mul_add _ hmid]
    by_cases hw : i < lo + w
    · rw [if_pos (by omega), if_pos hw, Nat.testBit_mod_two_pow]
      simp [show i - lo < w by omega]
    · rw [if_neg (by omega), if_neg hw, Nat.testBit_shiftRight]
      congr 1
      omega

@[simp] theorem bits_setBits_self {x lo w v hi : Nat} (h : hi + 1 = lo + w) : bits (setBits x lo w v) hi lo = v % 2 ^ w := by
  refine Nat.eq_of_testBit_eq fun i => ?_
  rw [testBit_bits, testBit_setBits, Nat.testBit_mod_two_pow, h, Nat.add_sub_cancel_left, if_neg (by omega),
    Nat.add_sub_cancel_left]
  by_cases hi : i < w
  · simp [hi]
  · simp [hi]

@[simp] theorem bits_setBits_disjoint {x lo w v hi lo' : Nat} (h : hi < lo ∨ lo + w ≤ lo') :
    bits (setBits x lo w v) hi lo' = bits x hi lo' := by
  refine Nat.eq_of_testBit_eq fun i => ?_
  rw [testBit_bits, testBit_bits]
  by_cases hi' : i < hi + 1 - lo'
  · rw [testBit_setBits]
    rcases h with h | h
    · rw [if_pos (by omega)]
    · rw [if_neg (by omega), if_neg (by omega)]
  · simp [hi']

theorem setBits_lt {x n lo w v : Nat} (hx : x < 2 ^ n) (h : lo + w ≤ n) : setBits x lo w v < 2 ^ n := by
  refine Nat.lt_pow_two_of_testBit _ fun i hi => ?_
  rw [testBit_setBits, if_neg (by omega), if_neg (by omega)]
  exact Nat.testBit_lt_two_pow (hx.trans_le (Nat.pow_le_pow_right (by decide) hi))

/-! #### Fields of a record -/

theorem toNat_ofNat_setBits {n : Nat} (x : BitVec n) {lo w : Nat} (v : Nat) (h : lo + w ≤ n) :
    (BitVec.ofNat n (setBits x.toNat lo w v)).toNat = setBits x.toNat lo w v := by
  rw [BitVec.toNat_ofNat]
  exact Nat.mod_eq_of_lt (setBits_lt x.isLt h)

/-- A field of a record replaced, as a number. -/
@[simp] theorem Req.n_put (r : Req) {lo w : Nat} (v : Nat) (h : lo + w ≤ 2048) : (r.put lo w v).n = setBits r.n lo w v :=
  toNat_ofNat_setBits r.bits v h

theorem Req.n_congr {a b : Req} (h : a.bits = b.bits) : a.n = b.n := congrArg BitVec.toNat h

@[simp] theorem Req.put_stream (r : Req) (lo w v : Nat) : (r.put lo w v).stream = r.stream := rfl
@[simp] theorem Req.put_shadow (r : Req) (lo w v : Nat) : (r.put lo w v).shadow = r.shadow := rfl
@[simp] theorem Req.put_held (r : Req) (lo w v : Nat) : (r.put lo w v).held = r.held := rfl
@[simp] theorem Req.put_ctx (r : Req) (lo w v : Nat) : (r.put lo w v).ctx = r.ctx := rfl

/-- An H field as decisions of the step read it is that of the shadow copy, else of the record itself (R47). -/
theorem bits_h_congr {a b : Req} {hi lo : Nat} (hs : a.shadow = b.shadow) (hn : bits a.n hi lo = bits b.n hi lo) :
    bits a.h hi lo = bits b.h hi lo := by
  cases hb : b.shadow with
  | some x => simp [Req.h, hs, hb]
  | none =>
    have hah : a.h = a.n := by simp [Req.h, Req.n, hs, hb]
    have hbh : b.h = b.n := by simp [Req.h, Req.n, hb]
    rw [hah, hbh, hn]

theorem recClen_lt (b : Nat) : recClen b < 2 ^ 32 := bits_lt b 95 64
theorem recTlen_lt (b : Nat) : recTlen b < 2 ^ 32 := bits_lt b 127 96
theorem recNpart_lt (b : Nat) : recNpart b < 2 ^ 16 := bits_lt b 271 256
theorem recAdmit_lt (b : Nat) : recAdmit b < 2 ^ 64 := bits_lt b 767 704

/-! #### What stores leave of records and signals -/

theorem State.Stored.reqs {s t : State} (h : s.Stored t) : t.reqs = s.reqs := by
  obtain ⟨⟨_, _, _, _, rfl⟩, _⟩ := h
  rfl

theorem State.Stored.signals {s t : State} (h : s.Stored t) : t.signals = s.signals := by
  obtain ⟨⟨_, _, _, _, rfl⟩, _⟩ := h
  rfl

theorem State.req_congr {s t : State} (h : t.reqs = s.reqs) (rid : Nat) : t.req rid = s.req rid := by
  unfold State.req
  rw [h]

theorem State.charge_reqs (s : State) (vf cls n : Nat) : (s.charge vf cls n).reqs = s.reqs := by
  unfold State.charge
  extract_lets v
  split <;> rfl

theorem State.charge_signals (s : State) (vf cls n : Nat) : (s.charge vf cls n).signals = s.signals := by
  unfold State.charge
  extract_lets v
  split <;> rfl

/-! #### What changes one field of one record -/

/-- A state after another where, of the records, one field of one of them may have changed, and no signal was added. -/
structure State.ReqField (rid lo w : Nat) (s t : State) : Prop where
  other : ∀ q, q ≠ rid → t.req q = s.req q
  same : ∃ b, t.req rid = { s.req rid with bits := b }
  kept : ∀ hi lo', hi < lo ∨ lo + w ≤ lo' → bits (t.req rid).n hi lo' = bits (s.req rid).n hi lo'
  signals : t.signals = s.signals

namespace State.ReqField

variable {rid lo w : Nat} {s t u : State}

theorem of_eq (hr : t.reqs = s.reqs) (hs : t.signals = s.signals) : ReqField rid lo w s t :=
  ⟨fun q _ => State.req_congr hr q, ⟨_, State.req_congr hr rid⟩, fun _ _ _ => by rw [State.req_congr hr], hs⟩

theorem refl (s : State) : ReqField rid lo w s s := of_eq rfl rfl

theorem trans (h : ReqField rid lo w s t) (h' : ReqField rid lo w t u) : ReqField rid lo w s u := by
  obtain ⟨b, hb⟩ := h.same
  obtain ⟨b', hb'⟩ := h'.same
  exact ⟨fun q hq => (h'.other q hq).trans (h.other q hq), ⟨b', by rw [hb', hb]⟩,
    fun hi lo' hd => (h'.kept hi lo' hd).trans (h.kept hi lo' hd), h'.signals.trans h.signals⟩

/-- No record and no signal was written. -/
theorem fields (h : ReqField rid lo w s t) (hr : u.reqs = t.reqs := by rfl) (hs : u.signals = t.signals := by rfl) :
    ReqField rid lo w s u := h.trans (of_eq hr hs)

theorem stored (h : ReqField rid lo w s t) (hs : t.Stored u) : ReqField rid lo w s u := h.fields hs.reqs hs.signals

theorem charge (h : ReqField rid lo w s t) (vf cls n : Nat) : ReqField rid lo w s (t.charge vf cls n) :=
  h.fields (t.charge_reqs vf cls n) (t.charge_signals vf cls n)

theorem foldl {α : Type} {f : State → α → State} (h : ReqField rid lo w s t)
    (hf : ∀ u x, ReqField rid lo w s u → ReqField rid lo w s (f u x)) (l : List α) : ReqField rid lo w s (l.foldl f t) :=
  List.foldlRecOn (motive := fun u => ReqField rid lo w s u) _ _ h fun u hu x _ => hf u x hu

/-- The field written. -/
theorem put (h : ReqField rid lo w s t) (v : Nat) (hw : lo + w ≤ 2048 := by decide) :
    ReqField rid lo w s (t.setReq rid ((t.req rid).put lo w v)) :=
  h.trans ⟨fun q hq => State.req_setReq_ne _ _ _ _ hq, ⟨_, State.req_setReq _ _ _⟩,
    fun hi lo' hd => by rw [State.req_setReq, Req.n_put _ _ hw, bits_setBits_disjoint hd], rfl⟩

variable (h : ReqField rid lo w s t)
include h

theorem stream : (t.req rid).stream = (s.req rid).stream := by obtain ⟨b, hb⟩ := h.same; rw [hb]
theorem ctx : (t.req rid).ctx = (s.req rid).ctx := by obtain ⟨b, hb⟩ := h.same; rw [hb]; rfl
theorem shadow : (t.req rid).shadow = (s.req rid).shadow := by obtain ⟨b, hb⟩ := h.same; rw [hb]
theorem inStep : (t.req rid).inStep = (s.req rid).inStep := by obtain ⟨b, hb⟩ := h.same; rw [hb]
theorem held : (t.req rid).held = (s.req rid).held := by obtain ⟨b, hb⟩ := h.same; rw [hb]
theorem admitted : (t.req rid).admitted = (s.req rid).admitted := by obtain ⟨b, hb⟩ := h.same; rw [hb]
theorem slotN : (t.req rid).slotN = (s.req rid).slotN := by obtain ⟨b, hb⟩ := h.same; rw [hb]
theorem running : (t.req rid).running = (s.req rid).running := by obtain ⟨b, hb⟩ := h.same; rw [hb]

/-- An H field other than the one written reads as before. -/
theorem bits_h {hi lo' : Nat} (hd : hi < lo ∨ lo + w ≤ lo') : bits (t.req rid).h hi lo' = bits (s.req rid).h hi lo' :=
  bits_h_congr h.shadow (h.kept hi lo' hd)

end State.ReqField

/-- A fault is set in the FAULT field only, and only where that holds none (R45). -/
theorem State.ReqField.setFault {rid : Nat} {s t : State} (h : ReqField rid 160 32 s t) (code detail : Nat) :
    ReqField rid 160 32 s (t.setFault rid code detail) := by
  unfold State.setFault
  extract_lets r
  split
  · exact h
  · exact h.put _

theorem State.recFault_setFault (s : State) (rid code detail : Nat) :
    recFault ((s.setFault rid code detail).req rid).n =
      if recFault (s.req rid).n = 0 then (code + detail % 2 ^ 24 * 256) % 2 ^ 32 else recFault (s.req rid).n := by
  unfold State.setFault
  extract_lets r
  split
  · next h => rw [if_neg (show ¬recFault r.n = 0 from h)]
  · next h =>
    rw [if_pos (show recFault r.n = 0 from not_not.mp h), State.req_setReq]
    exact (congrArg recFault (Req.n_put r _ (by decide))).trans (bits_setBits_self (by decide))

theorem State.ReqField.popFault {rid : Nat} {s t : State} (h : ReqField rid 160 32 s t) : ReqField rid 160 32 s (t.popFault rid) :=
  h.setFault _ _

theorem State.ReqField.blockWrite {rid lo w : Nat} {s t : State} (h : ReqField rid lo w s t) (vf pa n x : Nat) :
    ReqField rid lo w s (t.blockWrite vf pa n x) :=
  (h.charge _ _ _).stored ((State.Stored.refl _).modWriteNum _ _ _)

theorem State.ReqField.blockNum {rid lo w : Nat} {s t : State} (h : ReqField rid lo w s t) (vf pa n : Nat) :
    ReqField rid lo w s (t.blockNum vf pa n).2 :=
  ((h.charge _ _ _).charge _ _ _).stored ((State.Stored.refl _).settleBytes _ _ _ _)

/-! #### KVMAP (R212, R213) -/

theorem State.ReqField.releaseEntry {rid lo w : Nat} {s t : State} (h : ReqField rid lo w s t) (vf : Nat) (e : BitVec 64) :
    ReqField rid lo w s (t.releaseEntry vf e) := by
  unfold State.releaseEntry
  extract_lets f x
  repeat' split
  all_goals exact h.fields

theorem State.ReqField.kvMap {rid : Nat} {s t : State} (h : ReqField rid 480 32 s t) (c : Ctx) :
    ReqField rid 480 32 s (t.kvMap rid c) := (h.put _).charge _ _ _

theorem State.ReqField.releaseKv {rid : Nat} {s t : State} (h : ReqField rid 480 32 s t) (cid va : Nat) :
    ReqField rid 480 32 s (t.releaseKv rid cid va) := by
  unfold State.releaseKv
  split
  · exact h
  · extract_lets s0
    have h0 : ReqField rid 480 32 s s0 := h.charge _ _ _
    split
    · extract_lets s1
      have h1 : ReqField rid 480 32 s s1 := stored (fields h0) ((State.Stored.refl _).modWriteNum _ _ _)
      exact (h1.releaseEntry _ _).put _
    · exact h0.fields
    · exact h0

theorem State.ReqField.releaseKvFrom {rid : Nat} {s t : State} (h : ReqField rid 480 32 s t) (cid first : Nat) :
    ReqField rid 480 32 s (t.releaseKvFrom rid cid first) := by
  unfold State.releaseKvFrom
  extract_lets x s1
  have h1 : ReqField rid 480 32 s s1 := h.foldl (fun _ _ h => h.foldl (fun _ _ h => h.releaseKv _ _) _) _
  split
  · exact h1
  · exact h1.kvMap _

end Sys2Proof.Machine
end

section
namespace Sys2Proof.Machine

set_option Elab.async false

/-! ### What becomes of a request (O52) -/

/-! #### Retirement (R55) -/

/-- A record as its retirement with a cause writes it. -/
def Req.retired (r : Req) (cause : Nat) : Req :=
  { ((r.put 48 3 5).put 51 3 cause).put 1008 16 0xFFFF with inStep := false, held := false, timer := none }

theorem Req.n_retired (r : Req) (cause : Nat) :
    (r.retired cause).n = setBits (setBits (setBits r.n 48 3 5) 51 3 cause) 1008 16 0xFFFF := by
  have hn : (r.retired cause).n = (((r.put 48 3 5).put 51 3 cause).put 1008 16 0xFFFF).n := Req.n_congr rfl
  rw [hn]
  simp

/-- The signal of a request's event counter. -/
def Req.evcSignal (r : Req) (rid cid : Nat) : Signal :=
  { ctx := cid, addr := BitVec.ofNat 64 (recEvc r.h), src := rid, grid := false }

/-- A retirement writes the record, releases the pages, and signals the event counter of the record's context. -/
theorem State.retireReq_eq (s : State) (rid cause : Nat) : ∃ u,
    State.ReqField rid 480 32 (s.setReq rid ((s.req rid).retired cause)) u ∧
      s.retireReq rid cause = { u with signals := u.signals ++ ((s.req rid).ctx.map fun cid => (s.req rid).evcSignal rid cid).toList } := by
  unfold State.retireReq
  extract_lets r r1 s1
  split
  · next hc =>
    refine ⟨s1, State.ReqField.refl s1, ?_⟩
    rw [show (s.req rid).ctx = none from hc]
    simp
  · next cid hc =>
    refine ⟨_, (State.ReqField.refl s1).releaseKvFrom cid 0, ?_⟩
    rw [show (s.req rid).ctx = some cid from hc]
    rfl

/-- A request retired with a cause: its state and place, and the signal of its event counter (R55). Of the rest of its record only KVMAP
may have changed. -/
structure State.Retired (s : State) (rid cause : Nat) (t : State) : Prop where
  state : recState (t.req rid).n = 5
  cause : bits (t.req rid).n 53 51 = cause % 2 ^ 3
  slot : recSlot (t.req rid).n = 0xFFFF
  inStep : (t.req rid).inStep = false
  held : (t.req rid).held = false
  signals : ∀ cid, (s.req rid).ctx = some cid → t.signals = s.signals ++ [(s.req rid).evcSignal rid cid]
  kept : ∀ hi lo, hi < 48 ∨ 54 ≤ lo → hi < 480 ∨ 512 ≤ lo → hi < 1008 ∨ 1024 ≤ lo →
    bits (t.req rid).n hi lo = bits (s.req rid).n hi lo

theorem State.retired_retireReq (s : State) (rid cause : Nat) : s.Retired rid cause (s.retireReq rid cause) := by
  obtain ⟨u, hu, he⟩ := s.retireReq_eq rid cause
  have hreq : (s.retireReq rid cause).req rid = u.req rid := State.req_congr (by rw [he]) rid
  have hkept := hu.kept
  rw [State.req_setReq, Req.n_retired] at hkept
  refine ⟨?_, ?_, ?_, ?_, ?_, fun cid hc => ?_, fun hi lo h1 h2 h3 => ?_⟩
  · rw [hreq, recState, hkept 50 48 (by decide)]
    simp
  · rw [hreq, hkept 53 51 (by decide)]
    simp
  · rw [hreq, recSlot, hkept 1023 1008 (by decide)]
    simp
  · rw [hreq, hu.inStep, State.req_setReq]
    rfl
  · rw [hreq, hu.held, State.req_setReq]
    rfl
  · rw [he, hc]
    exact congrArg (· ++ _) hu.signals
  · rw [hreq, hkept hi lo (by omega), bits_setBits_disjoint (by omega), bits_setBits_disjoint (by omega),
      bits_setBits_disjoint (by omega)]

/-- What a retirement makes of a request, seen from a state before it. -/
def State.Gone (s : State) (rid cause : Nat) (t : State) : Prop :=
  recState (t.req rid).n = 5 ∧ bits (t.req rid).n 53 51 = cause ∧ recSlot (t.req rid).n = 0xFFFF ∧ (t.req rid).inStep = false ∧
    (t.req rid).held = false ∧ ∀ cid, (s.req rid).ctx = some cid → t.signals =
      s.signals ++ [{ ctx := cid, addr := BitVec.ofNat 64 (recEvc (s.req rid).h), src := rid, grid := false }]

/-- The earlier state need only have the same signals, and the same context and event counter in the record. -/
theorem State.Retired.gone {s0 s t : State} {rid cause : Nat} (h : s.Retired rid cause t) (hs : s.signals = s0.signals)
    (hc : (s.req rid).ctx = (s0.req rid).ctx) (he : recEvc (s.req rid).h = recEvc (s0.req rid).h) (h3 : cause < 8) :
    s0.Gone rid cause t := by
  refine ⟨h.state, h.cause.trans (Nat.mod_eq_of_lt h3), h.slot, h.inStep, h.held, fun cid hcid => ?_⟩
  rw [h.signals cid (hc.trans hcid), hs, Req.evcSignal, he]

/-! #### Commit (R55) -/

theorem State.auditsPending_iff {s : State} {vf rid stepNo : Nat} :
    s.auditsPending vf rid stepNo = true ↔ ∃ j ∈ s.audits, j.vf = vf ∧ j.rid = rid ∧ j.stepNo = stepNo := by
  simp [State.auditsPending, and_assoc]

/-- A record as its commit writes it. -/
def Req.committed (r : Req) : Req :=
  { ((r.put 64 32 (min (recTlen r.n) (recMaxlen r.h))).put 96 32 (min (recTlen r.n) (recMaxlen r.h))).put 128 32 (recStepc r.n + 1) with
    inStep := false, held := false }

theorem Req.n_committed (r : Req) : r.committed.n =
    setBits (setBits (setBits r.n 64 32 (min (recTlen r.n) (recMaxlen r.h))) 96 32 (min (recTlen r.n) (recMaxlen r.h))) 128 32
      (recStepc r.n + 1) := by
  have hn : r.committed.n = (((r.put 64 32 (min (recTlen r.n) (recMaxlen r.h))).put 96 32
      (min (recTlen r.n) (recMaxlen r.h))).put 128 32 (recStepc r.n + 1)).n := Req.n_congr rfl
  rw [hn]
  simp

/-- The fields that a commit does not write. -/
theorem bits_committed (r : Req) {hi lo : Nat} (h : hi < 64 ∨ 160 ≤ lo) : bits r.committed.n hi lo = bits r.n hi lo := by
  rw [Req.n_committed, bits_setBits_disjoint (by omega), bits_setBits_disjoint (by omega), bits_setBits_disjoint (by omega)]

theorem Req.ctx_committed (r : Req) : r.committed.ctx = r.ctx := by simp [Req.committed, Req.ctx]

theorem Req.recEvc_committed (r : Req) : recEvc r.committed.h = recEvc r.h :=
  bits_h_congr (by simp [Req.committed]) (bits_committed r (by decide))

theorem clen_lt (r : Req) : min (recTlen r.n) (recMaxlen r.h) < 2 ^ 32 := (Nat.min_le_left _ _).trans_lt (recTlen_lt _)

/-- The lengths and the step count of a record after a commit. -/
structure Req.Counted (r q : Req) : Prop where
  clen : recClen q.n = min (recTlen r.n) (recMaxlen r.h)
  tlen : recTlen q.n = min (recTlen r.n) (recMaxlen r.h)
  stepc : recStepc q.n = (recStepc r.n + 1) % 2 ^ 32

theorem Req.counted_committed (r : Req) : r.Counted r.committed := by
  have hlt := Nat.mod_eq_of_lt (clen_lt r)
  generalize hc : min (recTlen r.n) (recMaxlen r.h) = clen at hlt
  refine ⟨?_, ?_, ?_⟩ <;> rw [Req.n_committed, hc]
  · simpa [recClen] using hlt
  · simpa [recTlen] using hlt
  · simp [recStepc]

/-- What a commit makes of one request: it is kept, or retired with a cause from the record as it was committed (R55). -/
theorem State.commitReq_of_hstop {s : State} {rid : Nat} (h : recHstop (s.req rid).h = true) :
    s.commitReq rid = (true, (s.setReq rid (s.req rid).committed).retireReq rid 3) := by
  unfold State.commitReq
  extract_lets r clen r1 s1
  rw [if_pos h]
  rfl

section

variable {s : State} {rid : Nat} (h : recHstop (s.req rid).h = false)
include h

theorem State.commitReq_of_stop {i : Nat} (hi : stopIndex (s.req rid).h (recNtokv (s.req rid).n) = some i) :
    s.commitReq rid = (true, (s.setReq rid ((s.req rid).committed.put 54 2 i)).retireReq rid 1) := by
  unfold State.commitReq
  extract_lets r clen r1 s1
  have hs1 : s1.req rid = (s.req rid).committed := State.req_setReq _ _ _
  have hset : s1.setReq rid ((s1.req rid).put 54 2 i) = s.setReq rid ((s.req rid).committed.put 54 2 i) := by
    rw [hs1]
    simp [s1, State.setReq, Map.set_set]
  rw [if_neg (by rw [h]; decide), hi]
  exact congrArg (fun u : State => (true, u.retireReq rid 1)) hset

theorem State.commitReq_of_full (hn : stopIndex (s.req rid).h (recNtokv (s.req rid).n) = none)
    (hf : min (recTlen (s.req rid).n) (recMaxlen (s.req rid).h) = recMaxlen (s.req rid).h) :
    s.commitReq rid = (true, (s.setReq rid (s.req rid).committed).retireReq rid 2) := by
  unfold State.commitReq
  extract_lets r clen r1 s1
  rw [if_neg (by rw [h]; decide), hn]
  exact if_pos hf

theorem State.commitReq_of_rest (hn : stopIndex (s.req rid).h (recNtokv (s.req rid).n) = none)
    (hf : min (recTlen (s.req rid).n) (recMaxlen (s.req rid).h) ≠ recMaxlen (s.req rid).h) :
    s.commitReq rid = (false, s.setReq rid (s.req rid).committed) := by
  unfold State.commitReq
  extract_lets r clen r1 s1
  rw [if_neg (by rw [h]; decide), hn]
  exact if_neg hf

end

theorem stopIndex_lt {h ntokv i : Nat} (hi : stopIndex h ntokv = some i) : i < 4 :=
  List.mem_range.mp (List.mem_of_find?_eq_some hi)

/-- A committed request that is retired at once keeps its lengths and its count. -/
theorem State.Retired.counted {s t : State} {rid cause : Nat} {r : Req} (h : s.Retired rid cause t) (hr : r.Counted (s.req rid)) :
    r.Counted (t.req rid) :=
  ⟨(h.kept 95 64 (by decide) (by decide) (by decide)).trans hr.clen,
    (h.kept 127 96 (by decide) (by decide) (by decide)).trans hr.tlen,
    (h.kept 159 128 (by decide) (by decide) (by decide)).trans hr.stepc⟩

section

variable {s : State} {vf rid stepNo : Nat} {t : Tally}

theorem State.settleReq_of_short (h : recFault (s.req rid).n ≠ 0 ∨ recTlen (s.req rid).n < recClen (s.req rid).n) :
    s.settleReq vf rid stepNo t = ({ t with retired := t.retired + 1 }, (s.setFault rid 0x04 96).retireReq rid 4) := by
  unfold State.settleReq
  extract_lets r
  exact if_pos (by simpa using h)

variable (h : ¬(recFault (s.req rid).n ≠ 0 ∨ recTlen (s.req rid).n < recClen (s.req rid).n))
include h

theorem State.settleReq_of_audited (ha : recAgate (s.req rid).h = true) (hp : s.auditsPending vf rid stepNo = true) :
    s.settleReq vf rid stepNo t = ({ t with held := t.held + 1 },
      s.setReq rid { s.req rid with inStep := false, held := true, heldBy := stepNo }) := by
  unfold State.settleReq
  extract_lets r
  rw [if_neg (by simpa using h), if_pos (by simp [r, ha, hp])]

theorem State.settleReq_of_commit (ha : ¬(recAgate (s.req rid).h = true ∧ s.auditsPending vf rid stepNo = true)) :
    s.settleReq vf rid stepNo t = ({ t with
      committed := t.committed + 1, retired := t.retired + (s.commitReq rid).1.toNat }, (s.commitReq rid).2) := by
  unfold State.settleReq
  extract_lets r
  rw [if_neg (by simpa using h), if_neg (by simpa using ha)]

end

/-! #### Snapshot (R47, R50) -/

section

variable {s : State} {rid : Nat}

theorem State.snapshotReq_of_none (hg : recGen (s.req rid).n % 2 = 1) (hs : (s.req rid).shadow = none) : s.snapshotReq rid = s := by
  unfold State.snapshotReq
  extract_lets r r1
  have hr1 : r1 = r := if_neg (by rw [hg]; decide)
  rw [hr1, if_pos (by simp [r, hs])]

/-- The record after a snapshot that found GEN even or a shadow copy: `r1` holds the shadow copy that HSUSP is read of. -/
theorem State.req_snapshotReq {r1 : Req} (h : r1 = if recGen (s.req rid).n % 2 = 0 then { s.req rid with shadow := some (s.req rid).bits } else s.req rid)
    (hs : r1.shadow.isSome = true) : (s.snapshotReq rid).req rid =
      if recHsusp r1.h && decide (recState r1.n < 4) && !r1.held then (r1.put 48 3 4).put 1008 16 0xFFFF
      else if !recHsusp r1.h && decide (recState r1.n = 4) then r1.put 48 3 0 else r1 := by
  unfold State.snapshotReq
  extract_lets r r1' st r2
  obtain rfl : r1 = r1' := h
  rw [if_neg (by simpa [Option.isSome_iff_ne_none] using hs), State.req_setReq]

end

/-! #### Admission and eviction (R50, R57) -/

theorem State.ReqField.initPopulation {rid : Nat} {s t : State} (h : ReqField rid 160 32 s t) :
    ReqField rid 160 32 s (t.initPopulation rid) := by
  unfold State.initPopulation
  extract_lets r
  split
  · exact h.popFault
  · refine ((h.charge _ _ _).blockWrite _ _ _ _).foldl (fun u i hu => ?_) _
    split
    · exact hu.popFault
    · exact (hu.charge _ _ _).blockWrite _ _ _ _

/-- A record as an admission writes it. -/
def Req.entered (r : Req) (cycle slot : Nat) : Req :=
  { ((((r.put 48 3 1).put 704 64 (cycle % 2 ^ 64)).put 272 16 (recNpart r.h)).put 96 32 (recClen r.n)).put 1008 16 slot with
    slotN := recNpart r.h, timer := none, late := false, running := false }

theorem Req.n_entered (r : Req) (cycle slot : Nat) : (r.entered cycle slot).n =
    setBits (setBits (setBits (setBits (setBits r.n 48 3 1) 704 64 (cycle % 2 ^ 64)) 272 16 (recNpart r.h)) 96 32 (recClen r.n)) 1008 16
      slot := by
  have hn : (r.entered cycle slot).n = (((((r.put 48 3 1).put 704 64 (cycle % 2 ^ 64)).put 272 16 (recNpart r.h)).put 96 32
      (recClen r.n)).put 1008 16 slot).n := Req.n_congr rfl
  rw [hn]
  simp

/-- What an admission changes: its record, then KVMAP, then FAULT where the block is not mapped, and no other record. -/
theorem State.enter_spec (s : State) (c : Ctx) (rid slot : Nat) :
    (∀ p, p ≠ rid → (s.enter c rid slot).req p = s.req p) ∧ ((s.enter c rid slot).req rid).admitted = true ∧
      ((s.enter c rid slot).req rid).slotN = recNpart (s.req rid).h ∧
      ∀ hi lo, hi < 160 ∨ 192 ≤ lo → hi < 480 ∨ 512 ≤ lo →
        bits ((s.enter c rid slot).req rid).n hi lo = bits ((s.req rid).entered s.cycle slot).n hi lo := by
  unfold State.enter
  extract_lets r r1 s1 s2 q
  have h2 : State.ReqField rid 480 32 s1 s2 := by
    unfold s2
    split
    · exact State.ReqField.refl s1
    · exact (State.ReqField.refl s1).kvMap c
  have h3 := (State.ReqField.refl (rid := rid) (s2.setReq rid { q with admitted := true })).initPopulation
  have hs1 : s1.req rid = (s.req rid).entered s.cycle slot := State.req_setReq _ _ _
  refine ⟨fun p hp => ?_, ?_, ?_, fun hi lo hd1 hd2 => ?_⟩
  · rw [h3.other p hp, State.req_setReq_ne _ _ _ _ hp, h2.other p hp]
    exact State.req_setReq_ne _ _ _ _ hp
  · rw [h3.admitted, State.req_setReq]
  · rw [h3.slotN, State.req_setReq]
    refine h2.slotN.trans ?_
    rw [hs1]
    rfl
  · rw [h3.kept hi lo hd1, State.req_setReq]
    refine (congrArg (bits · hi lo) (Req.n_congr rfl)).trans ((h2.kept hi lo hd2).trans ?_)
    rw [hs1]

/-- A record as an eviction writes it. -/
def Req.evicted (r : Req) : Req := { ((r.put 96 32 (recClen r.n)).put 48 3 0).put 1008 16 0xFFFF with inStep := false }

theorem Req.n_evicted (r : Req) : r.evicted.n = setBits (setBits (setBits r.n 96 32 (recClen r.n)) 48 3 0) 1008 16 0xFFFF := by
  have hn : r.evicted.n = (((r.put 96 32 (recClen r.n)).put 48 3 0).put 1008 16 0xFFFF).n := Req.n_congr rfl
  rw [hn]
  simp

theorem State.evict_spec (s : State) (rid : Nat) : State.ReqField rid 480 32 (s.setReq rid (s.req rid).evicted) (s.evict rid) := by
  unfold State.evict
  extract_lets r r1 s1
  split
  · exact State.ReqField.refl _
  · exact (State.ReqField.refl _).releaseKvFrom _ _

/-! #### The next request to evict (R57) -/

section

variable {α : Type} (key : α → Nat)

theorem mem_insertBy {a b : α} {l : List α} : b ∈ insertBy key a l ↔ b = a ∨ b ∈ l := by
  induction l with
  | nil => simp [insertBy]
  | cons c l ih =>
    unfold insertBy
    split
    · simp
    · simp [ih, or_left_comm]

theorem pairwise_insertBy {a : α} {l : List α} (h : l.Pairwise fun x y => key x ≤ key y) :
    (insertBy key a l).Pairwise fun x y => key x ≤ key y := by
  induction l with
  | nil => simp [insertBy]
  | cons c l ih =>
    obtain ⟨hc, hl⟩ := List.pairwise_cons.mp h
    unfold insertBy
    split
    · next hac =>
      refine List.pairwise_cons.mpr ⟨fun b hb => ?_, h⟩
      rcases List.mem_cons.mp hb with rfl | hb
      · omega
      · exact (Nat.le_of_lt hac).trans (hc b hb)
    · next hac =>
      refine List.pairwise_cons.mpr ⟨fun b hb => ?_, ih hl⟩
      rcases (mem_insertBy key).mp hb with rfl | hb
      · omega
      · exact hc b hb

/-- A sorted list holds what the list held, in ascending keys. -/
theorem sortBy_spec (l : List α) : (∀ b, b ∈ sortBy key l ↔ b ∈ l) ∧ (sortBy key l).Pairwise fun x y => key x ≤ key y := by
  suffices h : ∀ acc : List α, (acc.Pairwise fun x y => key x ≤ key y) →
      (∀ b, b ∈ l.foldl (fun acc a => insertBy key a acc) acc ↔ b ∈ acc ∨ b ∈ l) ∧
        (l.foldl (fun acc a => insertBy key a acc) acc).Pairwise fun x y => key x ≤ key y by
    simpa [sortBy] using h [] List.Pairwise.nil
  induction l with
  | nil => exact fun acc h => ⟨by simp, h⟩
  | cons a l ih =>
    intro acc h
    obtain ⟨hmem, hpair⟩ := ih _ (pairwise_insertBy key (a := a) h)
    refine ⟨fun b => ?_, hpair⟩
    rw [List.foldl_cons, hmem, mem_insertBy, List.mem_cons]
    tauto

/-- The first of a sorted list is one of the list, and none of the list has a lower key. -/
theorem head_sortBy {l : List α} {a : α} (h : (sortBy key l).head? = some a) : a ∈ l ∧ ∀ b ∈ l, key a ≤ key b := by
  obtain ⟨hmem, hpair⟩ := sortBy_spec key l
  obtain ⟨rest, hrest⟩ : ∃ rest, sortBy key l = a :: rest := by
    cases hs : sortBy key l with
    | nil => simp [hs] at h
    | cons b rest => exact ⟨rest, by rw [hs] at h; rw [Option.some.inj h]⟩
  rw [hrest] at hmem hpair
  refine ⟨(hmem a).mp List.mem_cons_self, fun b hb => ?_⟩
  rcases List.mem_cons.mp ((hmem b).mpr hb) with rfl | hb
  · exact Nat.le_refl _
  · exact (List.pairwise_cons.mp hpair).1 b hb

end

/-- Lower EVR first, then older ADMIT: the key that requests are evicted by orders them so. -/
theorem lt_or_eq_of_key_le {a b x y : Nat} (hy : y < 2 ^ 64) (h : a * 2 ^ 64 + x ≤ b * 2 ^ 64 + y) : a < b ∨ (a = b ∧ x ≤ y) := by
  omega

theorem State.victim_spec {s : State} {vf rid : Nat} (h : s.victim vf = some rid) :
    let may (q : Nat) : Prop := q ∈ s.vfReqs vf ∧ recState (s.req q).n = 1 ∧ (s.req q).held = false ∧ recFault (s.req q).n = 0
    may rid ∧ ∀ q, may q → recEvr (s.req rid).h < recEvr (s.req q).h ∨
      (recEvr (s.req rid).h = recEvr (s.req q).h ∧ recAdmit (s.req rid).n ≤ recAdmit (s.req q).n) := by
  unfold State.victim at h
  extract_lets l at h
  intro may
  have hmay (q : Nat) : q ∈ l ↔ may q := by simp [l, may, and_assoc]
  obtain ⟨hmem, hmin⟩ := head_sortBy _ h
  exact ⟨(hmay rid).mp hmem, fun q hq => lt_or_eq_of_key_le (recAdmit_lt _) (hmin q ((hmay q).mpr hq))⟩

/-! #### A record that fails its check (R44) -/

/-- A record as its rejection writes it. -/
def Req.rejected (r : Req) (off : Nat) : Req := (((r.put 160 32 (4 + off * 256)).put 51 3 4).put 48 3 5).put 1008 16 0xFFFF

theorem Req.n_rejected (r : Req) (off : Nat) :
    (r.rejected off).n = setBits (setBits (setBits (setBits r.n 160 32 (4 + off * 256)) 51 3 4) 48 3 5) 1008 16 0xFFFF := by
  unfold Req.rejected
  simp

theorem State.rejectRecord_of_good {s : State} {rid off cid : Nat} (hc : (s.req rid).ctx = some cid)
    (he : recEvc (s.req rid).h % 8 = 0 ∧ recEvc (s.req rid).h < 2 ^ 56) : s.rejectRecord rid off =
      (s.setReq rid ((s.req rid).rejected off)).addSignal ((s.req rid).evcSignal rid cid) := by
  unfold State.rejectRecord
  extract_lets r r1 s1 evc
  rw [show r.ctx = some cid from hc, show (decide (evc % 8 = 0) && decide (evc < 2 ^ 56)) = true by simpa [evc, r] using he]
  rfl

theorem State.rejectRecord_of_bad {s : State} {rid off : Nat}
    (h : (s.req rid).ctx = none ∨ ¬(recEvc (s.req rid).h % 8 = 0 ∧ recEvc (s.req rid).h < 2 ^ 56)) : s.rejectRecord rid off =
      (s.setReq rid ((s.req rid).rejected off)).tell (.evcDropped rid) := by
  unfold State.rejectRecord
  extract_lets r r1 s1 evc
  split
  · next hc he =>
    rcases h with h | h
    · exact absurd (h.symm.trans hc) (by simp)
    · exact absurd (by simpa [evc, r] using he) h
  · rfl

/-- However its counter stands, a record that is rejected is written alike, and memory is not written. -/
theorem State.rejectRecord_req (s : State) (rid off : Nat) :
    (s.rejectRecord rid off).req rid = (s.req rid).rejected off ∧ (s.rejectRecord rid off).mem = s.mem := by
  by_cases h : (s.req rid).ctx = none ∨ ¬(recEvc (s.req rid).h % 8 = 0 ∧ recEvc (s.req rid).h < 2 ^ 56)
  · rw [State.rejectRecord_of_bad h]
    exact ⟨State.req_setReq _ _ _, rfl⟩
  · obtain ⟨hc, he⟩ := not_or.mp h
    obtain ⟨cid, hcid⟩ := Option.ne_none_iff_exists'.mp hc
    rw [State.rejectRecord_of_good hcid (not_not.mp he)]
    exact ⟨State.req_setReq _ _ _, rfl⟩

/-! #### The clauses -/

section

variable {s : State} {vf rid stepNo : Nat} {t : Tally}

/-- A request that is short is retired with cause 4, its fault set where it had none. -/
theorem State.settleReq_short_spec (h : recFault (s.req rid).n ≠ 0 ∨ recTlen (s.req rid).n < recClen (s.req rid).n) :
    let u := s.settleReq vf rid stepNo t
    u.1 = { t with retired := t.retired + 1 } ∧ (∃ u0 : State, u0.Retired rid 4 u.2 ∧ u0.signals = s.signals ∧
      (u0.req rid).ctx = (s.req rid).ctx ∧ recEvc (u0.req rid).h = recEvc (s.req rid).h) ∧
      recClen (u.2.req rid).n = recClen (s.req rid).n ∧
      recFault (u.2.req rid).n = if recFault (s.req rid).n = 0 then 4 + 96 * 256 else recFault (s.req rid).n := by
  rw [State.settleReq_of_short h]
  have hf : State.ReqField rid 160 32 s (s.setFault rid 0x04 96) := (State.ReqField.refl s).setFault _ _
  have hret := (s.setFault rid 0x04 96).retired_retireReq rid 4
  refine ⟨rfl, ⟨_, hret, hf.signals, hf.ctx, hf.bits_h (by decide)⟩,
    (hret.kept 95 64 (by decide) (by decide) (by decide)).trans (hf.kept 95 64 (by decide)),
    (hret.kept 191 160 (by decide) (by decide) (by decide)).trans (s.recFault_setFault rid 4 96)⟩

variable (h : ¬(recFault (s.req rid).n ≠ 0 ∨ recTlen (s.req rid).n < recClen (s.req rid).n))
  (ha : ¬(recAgate (s.req rid).h = true ∧ s.auditsPending vf rid stepNo = true))
include h ha

/-- What a commit that retires its request leaves: the lengths and the count, and what a retirement makes of it. -/
theorem State.settleReq_gone {q : Req} {cause : Nat} (h3 : cause < 8)
    (hcommit : s.commitReq rid = (true, (s.setReq rid q).retireReq rid cause)) (hc : (s.req rid).Counted q)
    (hctx : q.ctx = (s.req rid).ctx) (he : recEvc q.h = recEvc (s.req rid).h) :
    let u := s.settleReq vf rid stepNo t
    (s.req rid).Counted (u.2.req rid) ∧ u.1.committed = t.committed + 1 ∧ (s.setReq rid q).Retired rid cause u.2 ∧
      s.Gone rid cause u.2 := by
  rw [State.settleReq_of_commit h ha, hcommit]
  have hret := (s.setReq rid q).retired_retireReq rid cause
  have hq : (s.setReq rid q).req rid = q := State.req_setReq _ _ _
  exact ⟨hret.counted (hq.symm ▸ hc), rfl, hret, hret.gone rfl (hq.symm ▸ hctx) (hq.symm ▸ he) h3⟩

/-- A commit that keeps its request writes its record only. -/
theorem State.settleReq_kept (hcommit : s.commitReq rid = (false, s.setReq rid (s.req rid).committed)) :
    let u := s.settleReq vf rid stepNo t
    u.1.committed = t.committed + 1 ∧ u.1.retired = t.retired ∧ u.2 = s.setReq rid (s.req rid).committed ∧
      u.2.req rid = (s.req rid).committed := by
  rw [State.settleReq_of_commit h ha, hcommit]
  exact ⟨rfl, rfl, rfl, State.req_setReq _ _ _⟩

end

theorem counted_put_stop (r : Req) (i : Nat) : r.Counted (r.committed.put 54 2 i) := by
  obtain ⟨hclen, htlen, hstepc⟩ := r.counted_committed
  have hn : (r.committed.put 54 2 i).n = setBits r.committed.n 54 2 i := Req.n_put _ _ (by decide)
  refine ⟨Eq.trans ?_ hclen, Eq.trans ?_ htlen, Eq.trans ?_ hstepc⟩ <;> rw [hn]
  · exact bits_setBits_disjoint (by decide)
  · exact bits_setBits_disjoint (by decide)
  · exact bits_setBits_disjoint (by decide)

theorem recEvc_put_stop (r : Req) (i : Nat) : recEvc (r.put 54 2 i).h = recEvc r.h :=
  bits_h_congr (Req.put_shadow _ _ _ _) (by rw [Req.n_put _ _ (by decide), bits_setBits_disjoint (by decide)])

/-- The record's GEN decides whether a snapshot renews the shadow copy, and HSUSP of that copy what becomes of the request (R47, R50). -/
theorem State.snapshotReq_spec (s : State) (rid : Nat) :
    let r := s.req rid
    let q := (s.snapshotReq rid).req rid
    (recGen r.n % 2 = 1 → r.shadow = none → s.snapshotReq rid = s) ∧
    (recGen r.n % 2 = 0 → q.shadow = some r.bits ∧
      (recHsusp r.n = true → recState r.n < 4 → r.held = false → recState q.n = 4 ∧ recSlot q.n = 0xFFFF) ∧
      (recHsusp r.n = false → recState r.n = 4 → recState q.n = 0) ∧
      (recHsusp r.n = false → recState r.n ≠ 4 → q.bits = r.bits)) ∧
    (recGen r.n % 2 = 1 → q.shadow = r.shadow) := by
  intro r q
  refine ⟨State.snapshotReq_of_none, fun hg => ?_, fun hg => ?_⟩
  · have hq := State.req_snapshotReq (s := s) (rid := rid) (r1 := { r with shadow := some r.bits }) (if_pos hg).symm rfl
    have hn : ({ r with shadow := some r.bits } : Req).n = r.n := Req.n_congr rfl
    have hh : ({ r with shadow := some r.bits } : Req).h = r.n := rfl
    have hheld : ({ r with shadow := some r.bits } : Req).held = r.held := rfl
    rw [hn, hh, hheld] at hq
    refine ⟨?_, fun h1 h2 h3 => ?_, fun h1 h2 => ?_, fun h1 h2 => ?_⟩
    · unfold q
      rw [hq]
      split
      · rw [Req.put_shadow, Req.put_shadow]
      · split
        · rw [Req.put_shadow]
        · rfl
    · unfold q
      rw [hq, if_pos (by simp [h1, h2, h3]), Req.n_put _ _ (by decide), Req.n_put _ _ (by decide)]
      simp [recState, recSlot]
    · unfold q
      rw [hq, if_neg (by simp [h1]), if_pos (by simp [h1, h2]), Req.n_put _ _ (by decide)]
      simp [recState]
    · unfold q
      rw [hq, if_neg (by simp [h1]), if_neg (by simp [h2])]
  · by_cases hs : r.shadow = none
    · unfold q
      rw [State.snapshotReq_of_none hg hs]
    · have hq := State.req_snapshotReq (s := s) (rid := rid) (r1 := r) (if_neg (by rw [hg]; decide)).symm
        (Option.isSome_iff_ne_none.mpr hs)
      unfold q
      rw [hq]
      split
      · rw [Req.put_shadow, Req.put_shadow]
      · split
        · rw [Req.put_shadow]
        · rfl

/-- What becomes of a request at a commit (R55). -/
theorem State.settleReq_committed_spec {s : State} {vf rid stepNo : Nat} {t : Tally}
    (h : ¬(recFault (s.req rid).n ≠ 0 ∨ recTlen (s.req rid).n < recClen (s.req rid).n))
    (ha : ¬(recAgate (s.req rid).h = true ∧ s.auditsPending vf rid stepNo = true)) :
    let r := s.req rid
    let stop := stopIndex r.h (recNtokv r.n)
    let u := s.settleReq vf rid stepNo t
    r.Counted (u.2.req rid) ∧ u.1.committed = t.committed + 1 ∧
      (recHstop r.h = true → s.Gone rid 3 u.2) ∧
      (recHstop r.h = false → ∀ i, stop = some i → s.Gone rid 1 u.2 ∧ bits (u.2.req rid).n 55 54 = i) ∧
      (recHstop r.h = false → stop = none → min (recTlen r.n) (recMaxlen r.h) = recMaxlen r.h → s.Gone rid 2 u.2) ∧
      (recHstop r.h = false → stop = none → min (recTlen r.n) (recMaxlen r.h) ≠ recMaxlen r.h →
        u.1.retired = t.retired ∧ u.2 = s.setReq rid r.committed ∧ u.2.req rid = r.committed) := by
  intro r stop u
  have hevc : recEvc r.committed.h = recEvc r.h := r.recEvc_committed
  cases hh : recHstop r.h with
  | true =>
    obtain ⟨hc, htally, -, hgone⟩ := State.settleReq_gone (t := t) h ha (by decide) (State.commitReq_of_hstop hh)
      r.counted_committed r.ctx_committed hevc
    exact ⟨hc, htally, fun _ => hgone, nofun, nofun, nofun⟩
  | false =>
    cases hs : stop with
    | some i =>
      obtain ⟨hc, htally, hret, hgone⟩ := State.settleReq_gone (t := t) h ha (by decide) (State.commitReq_of_stop hh hs)
        (counted_put_stop r i) ((Req.put_ctx _ _ _ _).trans r.ctx_committed) ((recEvc_put_stop _ i).trans hevc)
      refine ⟨hc, htally, nofun, fun _ j hj => ⟨hgone, ?_⟩, nofun, nofun⟩
      obtain rfl : i = j := Option.some.inj hj
      rw [hret.kept 55 54 (by decide) (by decide) (by decide), State.req_setReq, Req.n_put _ _ (by decide),
        bits_setBits_self (by decide)]
      exact Nat.mod_eq_of_lt (stopIndex_lt hs)
    | none =>
      by_cases hf : min (recTlen r.n) (recMaxlen r.h) = recMaxlen r.h
      · obtain ⟨hc, htally, -, hgone⟩ := State.settleReq_gone (t := t) h ha (by decide) (State.commitReq_of_full hh hs hf)
          r.counted_committed r.ctx_committed hevc
        exact ⟨hc, htally, nofun, nofun, fun _ _ _ => hgone, fun _ _ hne => absurd hf hne⟩
      · obtain ⟨htally, hretired, hu, hq⟩ := State.settleReq_kept (t := t) h ha (State.commitReq_of_rest hh hs hf)
        have hq : u.2.req rid = r.committed := hq
        exact ⟨hq ▸ r.counted_committed, htally, nofun, nofun, fun _ _ hfull => absurd hfull hf, fun _ _ _ => ⟨hretired, hu, hq⟩⟩

/-- A record after an admission (R50). -/
theorem State.enter_fields (s : State) (c : Ctx) (rid slot : Nat) :
    let r := s.req rid
    let q := (s.enter c rid slot).req rid
    recState q.n = 1 ∧ recAdmit q.n = s.cycle % 2 ^ 64 ∧ recNlive q.n = recNpart r.h ∧ recTlen q.n = recClen r.n ∧
      recClen q.n = recClen r.n ∧ recSlot q.n = slot % 2 ^ 16 := by
  intro r q
  obtain ⟨-, -, -, hkept⟩ := s.enter_spec c rid slot
  have hpart := Nat.mod_eq_of_lt (recNpart_lt r.h)
  have hclen := Nat.mod_eq_of_lt (recClen_lt r.n)
  simp only [Req.n_entered] at hkept
  refine ⟨?_, ?_, ?_, ?_, ?_, ?_⟩
  · rw [recState, hkept 50 48 (by decide) (by decide)]
    simp
  · rw [recAdmit, hkept 767 704 (by decide) (by decide)]
    simp
  · rw [recNlive, hkept 287 272 (by decide) (by decide)]
    simpa [r] using hpart
  · rw [recTlen, hkept 127 96 (by decide) (by decide)]
    simpa [r] using hclen
  · rw [recClen, hkept 95 64 (by decide) (by decide)]
    simp [recClen, r]
  · rw [recSlot, hkept 1023 1008 (by decide) (by decide)]
    simp

/-- A record after an eviction (R57). -/
theorem State.evict_fields (s : State) (rid : Nat) :
    let r := s.req rid
    let q := (s.evict rid).req rid
    recState q.n = 0 ∧ recSlot q.n = 0xFFFF ∧ recTlen q.n = recClen r.n ∧ recClen q.n = recClen r.n ∧ recFault q.n = recFault r.n ∧
      q.inStep = false := by
  intro r q
  have h := s.evict_spec rid
  have hkept := h.kept
  have hclen := Nat.mod_eq_of_lt (recClen_lt r.n)
  rw [State.req_setReq, Req.n_evicted] at hkept
  refine ⟨?_, ?_, ?_, ?_, ?_, ?_⟩
  · rw [recState, hkept 50 48 (by decide)]
    simp
  · rw [recSlot, hkept 1023 1008 (by decide)]
    simp
  · rw [recTlen, hkept 127 96 (by decide)]
    simpa [r] using hclen
  · rw [recClen, hkept 95 64 (by decide)]
    simp [recClen, r]
  · rw [recFault, hkept 191 160 (by decide)]
    simp [recFault, r]
  · rw [h.inStep, State.req_setReq, Req.evicted]

/-- A record after its rejection (R44). -/
theorem State.rejectRecord_fields (s : State) (rid off : Nat) :
    let r := s.req rid
    let q := (s.rejectRecord rid off).req rid
    recState q.n = 5 ∧ bits q.n 53 51 = 4 ∧ recSlot q.n = 0xFFFF ∧ recFault q.n = (4 + off * 256) % 2 ^ 32 ∧
      recKvmap q.n = recKvmap r.n := by
  intro r q
  have hq : q.n = (r.rejected off).n := congrArg Req.n (s.rejectRecord_req rid off).1
  rw [hq, Req.n_rejected]
  refine ⟨?_, ?_, ?_, ?_, ?_⟩
  · simp [recState]
  · simp
  · simp [recSlot]
  · simp [recFault]
  · simp [recKvmap]

/-- Settles O52, transition by transition: each writes a few fields of one record, and the releases of pages around it KVMAP only. -/
theorem requestTransitions : Obligations.RequestTransitions := by
  unfold Obligations.RequestTransitions
  refine ⟨fun s vf rid stepNo t => ?_, State.snapshotReq_spec, fun s c rid slot => ?_, State.evict_fields,
    fun s vf rid h => State.victim_spec h, fun s rid off => ?_⟩
  · intro r short clen stop audited u q gone
    refine ⟨fun h => ?_, fun h ha => ?_, fun h ha => ?_⟩
    · obtain ⟨htally, ⟨u0, hret, hsig, hctx, he⟩, hclen, hfault⟩ :=
        State.settleReq_short_spec (vf := vf) (stepNo := stepNo) (t := t) h
      exact ⟨htally, hret.gone hsig hctx he (by decide), hclen, hfault⟩
    · have hu := State.settleReq_of_audited (t := t) h ha.1 (State.auditsPending_iff.mpr ha.2)
      exact ⟨congrArg Prod.fst hu, congrArg Prod.snd hu⟩
    · replace ha : ¬(recAgate r.h = true ∧ s.auditsPending vf rid stepNo = true) := by
        rw [State.auditsPending_iff]
        exact ha
      obtain ⟨hc, htally, hstop, htoken, hfull, hrest⟩ := State.settleReq_committed_spec (t := t) h ha
      refine ⟨hc.clen, hc.tlen, hc.stepc, htally, hstop, htoken, hfull, fun h1 h2 h3 => ?_⟩
      obtain ⟨hret, hu, hq⟩ := hrest h1 h2 h3
      have hq : q = r.committed := hq
      refine ⟨hret, hu.trans (by rw [hq]), ?_, ?_, ?_⟩ <;> rw [hq]
      · exact bits_committed r (by decide)
      · exact bits_committed r (by decide)
      · rw [Req.committed]
  · intro r q
    obtain ⟨hother, hadmitted, hslots, -⟩ := s.enter_spec c rid slot
    obtain ⟨hstate, hadmit, hnlive, htlen, hclen, hslot⟩ := s.enter_fields c rid slot
    exact ⟨hstate, hadmit, hnlive, htlen, hclen, hslot, hadmitted, hslots, hother⟩
  · intro r t
    obtain ⟨hstate, hcause, hslot, hfault, hkvmap⟩ := s.rejectRecord_fields rid off
    refine ⟨hstate, hcause, hslot, hfault, hkvmap, (s.rejectRecord_req rid off).2, fun h1 h2 cid hc => ?_, fun h => ?_⟩
    · exact congrArg State.signals (State.rejectRecord_of_good hc ⟨h1, h2⟩)
    · have ht : t = _ := State.rejectRecord_of_bad (.inr (by change ¬(recEvc r.h % 8 = 0 ∧ recEvc r.h < 2 ^ 56); omega))
      rw [ht]
      exact ⟨rfl, List.mem_append_right _ List.mem_cons_self⟩

end Sys2Proof.Machine
end

section
namespace Sys2Proof.Machine

set_option Elab.async false

/-! ### The end of a resample, and the deadline of a round (O54) -/

/-! #### Accesses to a population block -/

/-- A state after another where no request record was written and no signal added. -/
structure State.ReqsSame (s t : State) : Prop where
  reqs : t.reqs = s.reqs
  signals : t.signals = s.signals

namespace State.ReqsSame

variable {s t u : State}

theorem refl (s : State) : s.ReqsSame s := ⟨rfl, rfl⟩

theorem trans (h : s.ReqsSame t) (h' : t.ReqsSame u) : s.ReqsSame u := ⟨h'.reqs.trans h.reqs, h'.signals.trans h.signals⟩

theorem req (h : s.ReqsSame t) (rid : Nat) : t.req rid = s.req rid := State.req_congr h.reqs rid

theorem charge (h : s.ReqsSame t) (vf cls n : Nat) : s.ReqsSame (t.charge vf cls n) :=
  h.trans ⟨t.charge_reqs vf cls n, t.charge_signals vf cls n⟩

theorem stored (h : s.ReqsSame t) (hs : t.Stored u) : s.ReqsSame u := h.trans ⟨hs.reqs, hs.signals⟩

theorem blockWrite (h : s.ReqsSame t) (vf pa n x : Nat) : s.ReqsSame (t.blockWrite vf pa n x) :=
  (h.charge _ _ _).stored ((State.Stored.refl _).modWriteNum _ _ _)

theorem blockNum (h : s.ReqsSame t) (vf pa n : Nat) : s.ReqsSame (t.blockNum vf pa n).2 :=
  ((h.charge _ _ _).charge _ _ _).stored ((State.Stored.refl _).settleBytes _ _ _ _)

theorem popEntries (h : s.ReqsSame t) (rid i n : Nat) : s.ReqsSame (t.popEntries rid i n).2 := by
  induction n generalizing t i with
  | zero => exact h
  | succ n ih =>
    unfold State.popEntries
    split
    · exact h.charge _ _ _
    · exact ih (h.blockNum _ _ _) _

end State.ReqsSame

/-! #### Translation of the block's addresses -/

section

variable {s t : State} (hmem : t.mem = s.mem) (hpend : t.pend = s.pend)
include hmem hpend

/-- What the module reads of physical memory depends on memory and the pending stores only. -/
theorem State.num_congr (v : Viewer) (a n : Nat) : t.num v none a n = s.num v none a n := by
  have hbyte (a : Nat) : t.byte v none a = s.byte v none a := by simp only [State.byte, hmem, hpend]
  have hbytes (a : Nat) : t.bytes v none a n = s.bytes v none a n := by
    induction n generalizing a with
    | zero => rfl
    | succ n ih => simp only [State.bytes, hbyte, ih]
  simp only [State.num, hbytes]

theorem State.walkFrom_congr (va table level fuel : Nat) : t.walkFrom va table level fuel = s.walkFrom va table level fuel := by
  induction fuel generalizing table level with
  | zero => rfl
  | succ fuel ih => simp only [State.walkFrom, State.num_congr hmem hpend, ih]

theorem State.blockAt_congr (hctxs : t.ctxs = s.ctxs) (cid va : Nat) : t.blockAt cid va = s.blockAt cid va := by
  simp only [State.blockAt, State.ctx?, hctxs, State.walk, State.walkFrom_congr hmem hpend]

theorem State.popHeader_congr (hctxs : t.ctxs = s.ctxs) {r q : Req} (hc : q.ctx = r.ctx) (hb : recPopb q.h = recPopb r.h) :
    t.popHeader q = s.popHeader r := by
  simp only [State.popHeader, hc, hb, State.blockAt_congr hmem hpend hctxs]

end

/-- A charge changes the budgets of VFs only. -/
theorem State.charge_eq (s : State) (vf cls n : Nat) : ∃ vs, s.charge vf cls n = { s with vfs := vs } := by
  unfold State.charge
  extract_lets v
  split
  · exact ⟨_, rfl⟩
  · exact ⟨_, rfl⟩

/-- A fault changes records only. -/
theorem State.setFault_eq (s : State) (rid code detail : Nat) : ∃ rs, s.setFault rid code detail = { s with reqs := rs } := by
  unfold State.setFault
  extract_lets r
  split
  · exact ⟨_, rfl⟩
  · exact ⟨_, rfl⟩

/-! #### A resample that fails (R225) -/

/-- What a resample leaves that meets an entry which is not valid: it is over, and the request has a fault. -/
structure State.ResampleFailed (s : State) (rid : Nat) (t : State) : Prop where
  running : (t.req rid).running = false
  signals : t.signals = s.signals
  fault : recFault (t.req rid).n = if recFault (s.req rid).n = 0 then 4 + 192 * 256 else recFault (s.req rid).n
  mem : s.popHeader (s.req rid) = none → t.mem = s.mem

theorem State.resampleFailed (s : State) (rid : Nat) : s.ResampleFailed rid (s.resampleFails rid) := by
  unfold State.resampleFails
  extract_lets s1 r s2
  obtain ⟨rs, hrs⟩ := s.setFault_eq rid 4 192
  have hs1 : s1 = { s with reqs := rs } := hrs
  have h1 : State.ReqField rid 160 32 s s1 := (State.ReqField.refl s).popFault
  have h2 : s2.req rid = { r with running := false, late := false, timer := none } := State.req_setReq _ _ _
  have hn : (s2.req rid).n = r.n := Req.n_congr (by rw [h2])
  have hrun : (s2.req rid).running = false := by rw [h2]
  have hfault := s.recFault_setFault rid 4 192
  rw [show s.setFault rid 4 192 = s1 from rfl, show s1.req rid = r from rfl, ← hn] at hfault
  have hsig : s2.signals = s.signals := h1.signals
  split
  · exact ⟨hrun, hsig, hfault, fun _ => by rw [show s2.mem = s1.mem from rfl, hs1]⟩
  · next hp hhp =>
    have h4 := ((State.ReqsSame.refl s2).blockNum r.vf hp 64).blockWrite r.vf hp 64 (setBits (s2.blockNum r.vf hp 64).1 0 2 0)
    refine ⟨?_, h4.signals.trans hsig, ?_, fun hnone => ?_⟩
    · exact (congrArg Req.running (h4.req rid)).trans hrun
    · exact (congrArg (fun q : Req => recFault q.n) (h4.req rid)).trans hfault
    · have hpop : s2.popHeader r = s.popHeader (s.req rid) :=
        State.popHeader_congr (by simp [s2, hs1]) (by simp [s2, hs1]) (by simp [s2, hs1]) h1.ctx (h1.bits_h (by decide))
      rw [hpop, hnone] at hhp
      exact absurd hhp (by simp)

/-! #### A resample that ends (R234) -/

/-- The header of a block after a resample. -/
def resampledHeader (h : Nat) (ninf late : Bool) : Nat :=
  setBits (setBits (setBits (setBits (setBits h 128 32 (hdrRounds h + 1)) 32 32 0) 3 1 ninf.toNat) 2 1 late.toNat) 0 2 0

theorem bit_setBits_self (x i : Nat) (b : Bool) : bit (setBits x i 1 b.toNat) i = b := by
  rw [bit, testBit_setBits, if_neg (by omega), if_pos (by omega), Nat.sub_self]
  cases b <;> rfl

theorem bit_setBits_disjoint {x lo w v i : Nat} (h : i < lo ∨ lo + w ≤ i) : bit (setBits x lo w v) i = bit x i := by
  rw [bit, testBit_setBits]
  split
  · rfl
  · rw [if_neg (by omega)]
    rfl

theorem resampledHeader_fields (h : Nat) (ninf late : Bool) :
    hdrRst (resampledHeader h ninf late) = 0 ∧ hdrNarr (resampledHeader h ninf late) = 0 ∧
      hdrRounds (resampledHeader h ninf late) = (hdrRounds h + 1) % 2 ^ 32 ∧
      hdrRstep (resampledHeader h ninf late) = hdrRstep h ∧ bit (resampledHeader h ninf late) 3 = ninf ∧
      bit (resampledHeader h ninf late) 2 = late := by
  unfold resampledHeader
  refine ⟨?_, ?_, ?_, ?_, ?_, ?_⟩
  · simp [hdrRst]
  · simp [hdrNarr]
  · simp [hdrRounds]
  · simp [hdrRstep]
  · rw [bit_setBits_disjoint (by decide), bit_setBits_disjoint (by decide), bit_setBits_self]
  · rw [bit_setBits_disjoint (by decide), bit_setBits_self]

section

variable {s : State} {rid : Nat}

theorem State.sporangiumComplete_of_unready (h : s.blockReady (s.req rid).vf = false) :
    exec (.sporangiumComplete rid) s = .next s := by
  change execSporangiumComplete rid s = _
  unfold execSporangiumComplete
  extract_lets r
  rw [if_pos (by simp [r, h])]

variable {cid : Nat} {c : Ctx} (hrun : (s.req rid).running = true) (hready : s.blockReady (s.req rid).vf = true)
  (hctx : (s.req rid).ctx = some cid) (hc : s.ctx? cid = some c)
include hrun hready hctx hc

theorem State.sporangiumComplete_of_noHeader (hp : s.popHeader (s.req rid) = none) : exec (.sporangiumComplete rid) s =
    .next (((s.charge (s.req rid).vf 3 1).resampleFails rid).wakeAll fun w => w = .resample) := by
  change execSporangiumComplete rid s = _
  simp only [execSporangiumComplete, hrun, hready, hctx, hc, hp]
  rfl

theorem State.sporangiumComplete_of_noEntry {hp : Nat} {s0 : State} (hhp : s.popHeader (s.req rid) = some hp)
    (hes : s.popEntries rid 0 (recNpart (s.req rid).h) = (none, s0)) : exec (.sporangiumComplete rid) s =
    .next ((s0.resampleFails rid).wakeAll fun w => w = .resample) := by
  change execSporangiumComplete rid s = _
  simp only [execSporangiumComplete, hrun, hready, hctx, hc, hhp, hes]
  rfl

end

/-- The log-weights that a resample of particles with these entries takes (R230, R236). -/
def Req.logWeights (r : Req) (es : List (Nat × Nat)) : List Int :=
  es.map fun p => if r.late && entArr p.2 < recApp r.h then -(2 ^ 63) else weightRead (entSum p.2) (entNinf p.2)

/-- The pages remapped and the entries written. -/
def State.resampled (s0 : State) (rid cid : Nat) (c : Ctx) (r : Req) (ktpp : Nat) (es : List (Nat × Nat)) : State :=
  let os := offspring (recDraw r.h) (r.logWeights es)
  let ps := parentsOf os (cloneParents os 0) 0
  (List.zip es ps).foldl (fun s p => s.blockWrite r.vf p.1.1 32 (setBits (setBits p.1.2 0 137 0) 192 16 p.2))
    (s0.remap rid cid c r.h (min (recKvpg r.h) (ceilDiv r.startLen ktpp)) ps)

/-- The header written, the request's resample over, and its event counter signalled. -/
def State.resampleOver (s2 : State) (rid cid hp : Nat) (r : Req) (ninf : Bool) : State :=
  let s4 := (s2.blockNum r.vf hp 64).2.blockWrite r.vf hp 64 (resampledHeader (s2.blockNum r.vf hp 64).1 ninf r.late)
  (s4.setReq rid { s4.req rid with running := false, late := false, timer := none }).addSignal
    { ctx := cid, addr := BitVec.ofNat 64 (recEvc r.h), src := rid, grid := false }

theorem State.sporangiumComplete_of_entries {s s0 : State} {rid cid hp : Nat} {c : Ctx} {es : List (Nat × Nat)}
    (hrun : (s.req rid).running = true) (hready : s.blockReady (s.req rid).vf = true)
    (hctx : (s.req rid).ctx = some cid) (hc : s.ctx? cid = some c) (hhp : s.popHeader (s.req rid) = some hp)
    (hes : s.popEntries rid 0 (recNpart (s.req rid).h) = (some es, s0)) :
    let r := s.req rid
    let ktpp := (r.stream.map fun v => sdKtpp (s.stream v.1 v.2.1).desc).getD 1
    exec (.sporangiumComplete rid) s = .next (((s0.resampled rid cid c r ktpp es).resampleOver rid cid hp r
      ((r.logWeights es).all isMinusInf)).wakeAll fun w => w = .resample) := by
  change execSporangiumComplete rid s = _
  conv_lhs => simp only [execSporangiumComplete, hrun, hready, hctx, hc, hhp, hes]
  simp only [State.resampled, State.resampleOver, resampledHeader, Req.logWeights]
  simp only [Bool.not_true, Bool.or_self, Bool.false_eq_true, if_false]
  cases (s.req rid).stream with
  | none => simp only [Option.map_none, Option.getD_none]
  | some v => simp only [Option.map_some, Option.getD_some]

theorem State.addSignal_req (s : State) (g : Signal) (rid : Nat) : (s.addSignal g).req rid = s.req rid := rfl

/-- What the end of a resample leaves of memory, of the request and of the signals. -/
structure State.ResampleOver (s2 : State) (rid cid hp : Nat) (r : Req) (ninf : Bool) (u : State) : Prop where
  mem : u.mem = ((s2.blockNum r.vf hp 64).2.blockWrite r.vf hp 64 (resampledHeader (s2.blockNum r.vf hp 64).1 ninf r.late)).mem
  running : (u.req rid).running = false
  late : (u.req rid).late = false
  timer : (u.req rid).timer = none
  bits : (u.req rid).bits = (s2.req rid).bits
  signals : u.signals = s2.signals ++ [{ ctx := cid, addr := BitVec.ofNat 64 (recEvc r.h), src := rid, grid := false }]

theorem State.resampleOver_spec (s2 : State) (rid cid hp : Nat) (r : Req) (ninf : Bool) :
    s2.ResampleOver rid cid hp r ninf (s2.resampleOver rid cid hp r ninf) := by
  unfold State.resampleOver
  extract_lets s4
  have h4 : s2.ReqsSame s4 := ((State.ReqsSame.refl s2).blockNum _ _ _).blockWrite _ _ _ _
  refine ⟨?_, ?_, ?_, ?_, ?_, ?_⟩
  · simp only [State.addSignal, State.setReq_mem, s4]
  · rw [State.addSignal_req, State.req_setReq]
  · rw [State.addSignal_req, State.req_setReq]
  · rw [State.addSignal_req, State.req_setReq]
  · rw [State.addSignal_req, State.req_setReq, ← h4.req]
  · simp only [State.addSignal, State.setReq_signals, h4.signals]

/-! #### The deadline of a round (R236) -/

/-- The header of a block whose round starts late. -/
def lateHeader (h stepNo : Nat) : Nat := setBits (setBits (setBits h 64 64 stepNo) 2 1 1) 0 2 2

theorem lateHeader_fields (h stepNo : Nat) : hdrRst (lateHeader h stepNo) = 2 ∧ bit (lateHeader h stepNo) 2 = true ∧
    hdrRstep (lateHeader h stepNo) = stepNo % 2 ^ 64 ∧ hdrNarr (lateHeader h stepNo) = hdrNarr h := by
  unfold lateHeader
  refine ⟨?_, ?_, ?_, ?_⟩
  · simp [hdrRst]
  · rw [bit_setBits_disjoint (by decide)]
    exact bit_setBits_self _ 2 true
  · simp [hdrRstep]
  · simp [hdrNarr]

section

variable {s : State} {rid t : Nat} (ht : (s.req rid).timer = some t)
include ht

theorem State.deadlineExpiry_of_early (h : s.cycle < t + recDeadl (s.req rid).h ∨ s.blockReady (s.req rid).vf = false) :
    exec (.deadlineExpiry rid) s = .next s := by
  change execDeadlineExpiry rid s = _
  simp only [execDeadlineExpiry, ht]
  rw [if_pos (by simpa using h)]

variable {vf k cid hp : Nat} (hdue : t + recDeadl (s.req rid).h ≤ s.cycle) (hready : s.blockReady (s.req rid).vf = true)
  (hstream : (s.req rid).stream = some (vf, k, cid)) (hhp : s.popHeader (s.req rid) = some hp)
include hdue hready hstream hhp

/-- A round that has started, or that none has arrived at, only loses its timer. -/
theorem State.deadlineExpiry_of_other (h : hdrRst (s.blockNum (s.req rid).vf hp 64).1 ≠ 1) : exec (.deadlineExpiry rid) s =
    .next ((s.blockNum (s.req rid).vf hp 64).2.setReq rid { s.req rid with timer := none }) := by
  change execDeadlineExpiry rid s = _
  conv_lhs => simp only [execDeadlineExpiry, ht, hstream, hhp]
  rw [if_neg (by simp [hready]; omega), if_pos h, State.stopTimer,
    ((State.ReqsSame.refl s).blockNum (s.req rid).vf hp 64).req rid]

theorem State.deadlineExpiry_of_collecting (h : hdrRst (s.blockNum (s.req rid).vf hp 64).1 = 1) : exec (.deadlineExpiry rid) s =
    .next (((s.blockNum (s.req rid).vf hp 64).2.blockWrite (s.req rid).vf hp 64
      (lateHeader (s.blockNum (s.req rid).vf hp 64).1 (s.stream vf k).stepNo)).setReq rid
      { s.req rid with timer := none, late := true, running := true, startLen := recTlen (s.req rid).n }) := by
  change execDeadlineExpiry rid s = _
  conv_lhs => simp only [execDeadlineExpiry, ht, hstream, hhp]
  rw [if_neg (by simp [hready]; omega), if_neg (by simp [h]),
    (((State.ReqsSame.refl s).blockNum (s.req rid).vf hp 64).blockWrite _ _ _ _).req rid, lateHeader]

end

/-- Settles O54: the Sporangium's accesses to a block leave the records alone, so each event is read off its last writes. -/
theorem resamplesComplete : Obligations.ResamplesComplete := by
  unfold Obligations.ResamplesComplete
  refine ⟨fun s rid h => State.sporangiumComplete_of_unready h, ?_, ?_, ?_, ?_⟩
  · intro s s0 rid cid hp c es hrun hctx hc hready hhp hes r ktpp ls ps s1 s2 h
    have hover : s2.ResampleOver rid cid hp r _ _ := s2.resampleOver_spec rid cid hp r (ls.all isMinusInf)
    obtain ⟨hmem, hrunning, hlate, htimer, hbits, hsignals⟩ := hover
    obtain ⟨hrst, hnarr, hrounds, hrstep, hninf, hlate'⟩ := resampledHeader_fields h (ls.all isMinusInf) r.late
    exact ⟨_, _, State.sporangiumComplete_of_entries hrun hready hctx hc hhp hes, hmem, hrst, hnarr, hrounds, hrstep, hninf, hlate',
      hrunning, hlate, htimer, hbits, hsignals⟩
  · intro s rid cid c hrun hctx hc hready hhp
    have hs := (State.ReqsSame.refl s).charge (s.req rid).vf 3 1
    obtain ⟨vs, hvs⟩ := s.charge_eq (s.req rid).vf 3 1
    obtain ⟨hrunning, hsignals, hfault, hmem⟩ := (s.charge (s.req rid).vf 3 1).resampleFailed rid
    rw [hs.req] at hfault hmem
    refine ⟨_, State.sporangiumComplete_of_noHeader hrun hready hctx hc hhp, ?_, hsignals.trans hs.signals, hrunning, hfault⟩
    rw [hmem (by rw [hvs]; exact hhp), hvs]
  · intro s s0 rid cid hp c hrun hctx hc hready hhp hes
    have hs : s.ReqsSame s0 := by
      rw [show s0 = (s.popEntries rid 0 (recNpart (s.req rid).h)).2 by rw [hes]]
      exact (State.ReqsSame.refl s).popEntries _ _ _
    obtain ⟨hrunning, hsignals, hfault, -⟩ := s0.resampleFailed rid
    rw [hs.req] at hfault
    exact ⟨_, State.sporangiumComplete_of_noEntry hrun hready hctx hc hhp hes, hrunning, hsignals.trans hs.signals, hfault⟩
  · intro s rid t vf k cid hp ht hstream hhp r h s1
    refine ⟨State.deadlineExpiry_of_early ht, fun hdue hready hrst => State.deadlineExpiry_of_other ht hdue hready hstream hhp hrst,
      fun hdue hready hrst => ⟨_, State.deadlineExpiry_of_collecting ht hdue hready hstream hhp hrst, lateHeader_fields _ _⟩⟩

end Sys2Proof.Machine
end

section
namespace Sys2Proof.Machine

set_option Elab.async false

/-! ### Device registers (O57) -/

/-! #### Budgets and power -/

/-- A budget renewed: what it holds less an overdraft; all ones is without limit (R66). -/
theorem renewed_eq (b : BitVec 64) (x : Option Int) :
    renewed b x = if b = BitVec.allOnes 64 then none else some ((b.toNat : Int) + min 0 (x.getD 0)) := rfl

theorem State.budgetPeriodStart_of_due {s : State} (h : s.dev.period + 10500 ≤ s.cycle) : ∃ t : State,
    exec .budgetPeriodStart s = .next (t.wakeAll fun w => match w with
      | .budget _ => true
      | _ => false) ∧
    t.dev.period = s.dev.period + 10500 ∧ t.groups = s.groups ∧ t.mem = s.mem ∧ t.vfs = s.vfs.map fun p => (p.1, p.2.renew) := by
  change ∃ t : State, execBudgetPeriodStart s = _ ∧ _
  unfold execBudgetPeriodStart
  rw [if_neg (show ¬s.cycle < s.dev.period + budgetPeriod from Nat.not_lt.mpr h)]
  exact ⟨_, rfl, rfl, rfl, rfl, rfl⟩

/-- What a VF has in a new period (R66, R269, R281). -/
theorem Vf.renew_left {v : Vf} {i : Nat} {b : BitVec 64} {x : Option Int} (hb : v.budget[i]? = some b) (hx : v.left[i]? = some x) :
    v.renew.left[i]? = some (if b = BitVec.allOnes 64 then none else some ((b.toNat : Int) + min 0 (x.getD 0))) := by
  rw [← renewed_eq]
  simp [Vf.renew, List.getElem?_zipWith, hb, hx]

theorem State.powerStepDown_of_due {s : State} {avg : Nat} (h : 3600000 < avg) (hp : s.dev.power < 4)
    (hm : s.dev.powerMark + 105000 ≤ s.cycle) : exec (.powerStepDown avg) s = .next
      { s with dev := { s.dev with power := s.dev.power + 1, powerMark := s.cycle } } := by
  change execPowerStepDown avg s = _
  unfold execPowerStepDown
  rw [if_pos (by simp [stepDownPeriod, h, hp, hm])]

theorem State.powerStepUp_of_due {s : State} {avg : Nat} (h : avg < 3400000) (hp : 0 < s.dev.power)
    (hm : s.dev.powerMark + 1050000 ≤ s.cycle) : exec (.powerStepUp avg) s = .next
      { s with dev := { s.dev with power := s.dev.power - 1, powerMark := s.cycle } } := by
  change execPowerStepUp avg s = _
  unfold execPowerStepUp
  rw [if_pos (by simp [stepUpPeriod, h, hp, hm])]

/-! #### Bring-up -/

theorem Device.accepts_iff {d : Device} {r : ResetInput} : d.accepts r = true ↔
    sha512 r.key = d.fuseKey ∧ ecdsaVerify r.key r.image r.sig.1 r.sig.2 = true ∧ d.fuseVersion ≤ r.version := by
  simp [Device.accepts, and_assoc]

/-- The state that a reset leaves but for its device registers: the fuses, the node number, the schedule and the free values stay. -/
def State.cleared (s : State) (d : Device) : State := { node := s.node, sched := s.sched, free := s.free, dev := d }

/-- The device registers after a reset whose firmware was accepted, or was not. -/
def Device.started (d : Device) (r : ResetInput) : Device :=
  { fuseKey := d.fuseKey, fuseVersion := d.fuseVersion, ready := true, fwm := sha512 r.image, calErr := r.badPorts ≠ []
    memErr := r.badStacks ≠ [], badStacks := r.badStacks, ports := portsAfter r.badPorts
    errc := if r.badPorts = [] && r.badStacks = [] then 0 else errcOf 2 r.errc }

def Device.rejected (d : Device) (r : ResetInput) : Device :=
  { fuseKey := d.fuseKey, fuseVersion := d.fuseVersion, fwErr := true, errc := errcOf 1 r.errc }

theorem State.moduleReset_eq (s : State) (r : ResetInput) : exec (.moduleReset r) s =
    .next (s.cleared (if s.dev.accepts r then s.dev.started r else s.dev.rejected r)) := by
  change execModuleReset r s = _
  unfold execModuleReset
  cases s.dev.accepts r <;> rfl

theorem link_portsAfter {bad : List Nat} {i : Nat} (h : i < 32) :
    ((portsAfter bad).getD i {}).link = if i ∈ bad then 0 else 2 := by
  simp [portsAfter, List.getD, h]

/-- DSTAT says that the firmware was rejected, and that the module is not ready (R276). -/
theorem dstat_rejected (s : State) (d : Device) (r : ResetInput) :
    (s.cleared (d.rejected r)).dstat.getLsbD 0 = false ∧ (s.cleared (d.rejected r)).dstat.getLsbD 4 = true := by
  rw [State.dstat, BitVec.getLsbD_ofNat, BitVec.getLsbD_ofNat]
  constructor
  · simp [State.cleared, Device.rejected, packBits]
  · simp [State.cleared, Device.rejected, packBits, Nat.testBit_or, Nat.testBit_shiftLeft]
    decide

/-- A key that a filter keeps or drops by the key alone. -/
theorem Map.get?_filter {α : Type} (f : Nat → Bool) (m : Map α) (i : Nat) :
    Map.get? (m.filter fun p => f p.1) i = if f i then Map.get? m i else none := by
  induction m with
  | nil => simp [Map.get?]
  | cons p m ih =>
    obtain ⟨k, x⟩ := p
    by_cases hk : k = i
    · subst hk
      cases hf : f k <;> simp [hf, Map.get?, ih]
    · cases hf : f k <;> simp [hf, Map.get?, hk, ih]

theorem State.hbmRegionFill_spec {s : State} (hr : s.dev.ready = true) (hf : s.dev.filled < 640) : ∃ t,
    exec .hbmRegionFill s = .next t ∧ t.mem = s.mem.filter (fun c => decide (c.1 / 2 ^ 30 ≠ s.dev.filled)) ∧
      t.dev = { s.dev with filled := s.dev.filled + 1, fillDone := s.dev.filled + 1 = 640 } ∧
      t.common = if s.dev.filled / 80 ∈ s.dev.badStacks then s.common else s.common ++ [(s.dev.filled * 16384, 16384)] := by
  refine ⟨_, rfl, ?_⟩
  have hgo : ¬((!s.dev.ready || decide (hbmGib ≤ s.dev.filled)) = true) := by
    rw [hr]
    exact of_decide_eq_true.mt (Nat.not_le.mpr hf)
  rw [if_neg hgo]
  by_cases hb : s.dev.filled / 80 ∈ s.dev.badStacks
  · rw [if_pos (by simpa [stackGib] using hb), if_pos hb]
    exact ⟨rfl, rfl, rfl⟩
  · rw [if_neg (by simpa [stackGib] using hb), if_neg hb]
    exact ⟨rfl, rfl, rfl⟩

theorem memByte_filled (m : List Host.Cell) (n a : Nat) :
    memByte (m.filter fun c => decide (c.1 / 2 ^ 30 ≠ n)) a = if a / 2 ^ 30 = n then 0 else memByte m a := by
  unfold memByte
  rw [Map.get?_filter (fun k => decide (k / 2 ^ 30 ≠ n))]
  by_cases h : a / 2 ^ 30 = n
  · rw [if_pos h, if_neg (by simpa using h)]
    rfl
  · rw [if_neg h, if_pos (by simpa using h)]

/-! #### Grants -/

theorem foldl_add_eq_sum {α : Type} (f : α → Nat) (l : List α) (n : Nat) : l.foldl (fun n x => n + f x) n = n + (l.map f).sum := by
  induction l generalizing n with
  | nil => rfl
  | cons x l ih => rw [List.foldl_cons, ih, List.map_cons, List.sum_cons, Nat.add_assoc]

theorem State.others_eq (s : State) (vf : Nat) (f : Vf → Nat) :
    s.others vf f = ((s.vfs.filter fun p => p.1 ≠ vf).map fun p => f p.2).sum := by
  rw [State.others, foldl_add_eq_sum, Nat.zero_add]

theorem State.grantFits_slots (s : State) (vf n : Nat) :
    s.grantFits vf 7 n (·.slots) = (decide (n % 128 = 0) && decide (s.others vf (·.slots) + n ≤ 8192)) := by
  have hfit : s.grantFits vf 7 n (·.slots) =
      (decide (n % 128 = 0) && (decide (n = 0) || decide (128 ≤ n)) && decide (s.others vf (·.slots) + n ≤ 8192)) := rfl
  rw [hfit]
  by_cases h : n % 128 = 0
  · have hn : n = 0 ∨ 128 ≤ n := by omega
    simp [h, hn]
  · simp [h]

theorem State.grantFits_ways (s : State) (vf n : Nat) :
    s.grantFits vf 3 n (·.next.2.1) = decide (s.others vf (·.next.2.1) + n ≤ 32) := by
  have hfit : s.grantFits vf 3 n (·.next.2.1) =
      (decide (n % 1 = 0) && (decide (n = 0) || decide (0 ≤ n)) && decide (s.others vf (·.next.2.1) + n ≤ 32)) := rfl
  rw [hfit]
  simp [Nat.mod_one]

theorem setBits_zero (m w x : Nat) : setBits m 0 w x = m / 2 ^ w * 2 ^ w + x % 2 ^ w := by
  rw [setBits, Nat.pow_zero, Nat.mod_one, Nat.shiftLeft_zero, Nat.zero_add, Nat.zero_add, Nat.shiftLeft_eq,
    Nat.shiftRight_eq_div_pow, Nat.add_comm]

theorem coresWith_zero (m : BitVec 256) (x : BitVec 64) : coresWith m 0 x = BitVec.ofNat 256 (m.toNat / 2 ^ 64 * 2 ^ 64 + x.toNat) := by
  have hset := setBits_zero m.toNat 64 x.toNat
  rw [Nat.mod_eq_of_lt x.isLt] at hset
  rw [coresWith, Nat.mul_zero, hset]

section

variable {s : State} {vf : Nat} {value : BitVec 64} (hr : s.dev.ready = true) (hvf : vf < 64)
include hr hvf

theorem State.vfGrantWrite_slots : exec (.vfGrantWrite vf 0x038 value) s = .next (
    if value.toNat % 128 = 0 ∧ s.others vf (·.slots) + value.toNat ≤ 8192 then s.setVf vf { s.vf vf with slots := value.toNat }
    else s.setVf vf { s.vf vf with stat := 7 }) := by
  change execVfGrantWrite vf 0x038 value s = _
  unfold execVfGrantWrite
  extract_lets v n put hbm
  rw [if_neg (by simp [hr, hvf])]
  change Host.Outcome.next (if s.grantFits vf 7 n (·.slots) then _ else _) = _
  rw [State.grantFits_slots]
  simp only [Bool.and_eq_true, decide_eq_true_eq]
  rfl

theorem State.vfGrantWrite_ways (h : s.others vf (·.next.2.1) + value.toNat ≤ 32) : exec (.vfGrantWrite vf 0x058 value) s =
    .next (s.setVf vf { s.vf vf with next := ((s.vf vf).next.1, value.toNat, (s.vf vf).next.2.2) }) := by
  change execVfGrantWrite vf 0x058 value s = _
  unfold execVfGrantWrite
  extract_lets v n put hbm
  rw [if_neg (by simp [hr, hvf])]
  change Host.Outcome.next (if s.grantFits vf 3 n (·.next.2.1) then _ else _) = _
  rw [State.grantFits_ways, if_pos (by simpa using h)]

theorem State.vfGrantWrite_binds (h : value.toNat < s.vfBinds vf) : exec (.vfGrantWrite vf 0x048 value) s =
    .next (s.setVf vf { s.vf vf with stat := 9 }) := by
  change execVfGrantWrite vf 0x048 value s = _
  unfold execVfGrantWrite
  extract_lets v n put hbm
  rw [if_neg (by simp [hr, hvf])]
  exact congrArg Host.Outcome.next (if_pos h)

theorem State.vfGrantWrite_counters (h : value.toNat < (s.countersInUse vf).length) : exec (.vfGrantWrite vf 0x040 value) s =
    .next (s.setVf vf { s.vf vf with stat := 8 }) := by
  change execVfGrantWrite vf 0x040 value s = _
  unfold execVfGrantWrite
  extract_lets v n put hbm
  rw [if_neg (by simp [hr, hvf])]
  exact congrArg Host.Outcome.next (if_pos h)

theorem State.vfGrantWrite_cores (h : s.ctxs = []) : exec (.vfGrantWrite vf 0x010 value) s = .next (s.setVf vf
    { s.vf vf with cores := BitVec.ofNat 256 ((s.vf vf).cores.toNat / 2 ^ 64 * 2 ^ 64 + value.toNat) }) := by
  change execVfGrantWrite vf 0x010 value s = _
  unfold execVfGrantWrite
  extract_lets v n put hbm
  rw [if_neg (by simp [hr, hvf])]
  change Host.Outcome.next (s.grantCores vf (coresWith v.cores 0 value)) = _
  rw [coresWith_zero]
  simp [State.grantCores, h, v]

end

/-! #### Stream descriptors (R283) -/

theorem getLsbD_withEn {d : BitVec 512} {en : Bool} {i : Nat} (hi : i ≠ 96) : (withEn d en).getLsbD i = d.getLsbD i := by
  rw [withEn, BitVec.getLsbD_ofNat, testBit_setBits]
  by_cases h : i < 512
  · split
    · simp [h, BitVec.getLsbD]
    · rw [if_neg (by omega)]
      simp [h, BitVec.getLsbD]
  · simp [h, BitVec.getLsbD_of_ge d i (by omega)]

theorem sdEn_withEn (d : BitVec 512) (en : Bool) : sdEn (withEn d en) = en := by
  rw [sdEn, withEn, toNat_ofNat_setBits d en.toNat (by decide), bit_setBits_self]

theorem State.stream_modStream {s : State} {vf k : Nat} {f : Stream → Stream} (hk : k < (s.vf vf).streams.length) :
    (s.modStream vf k f).stream vf k = f (s.stream vf k) := by
  rw [State.modStream, State.stream, State.vf_setVf]
  simp [State.stream, List.getD, hk]

theorem State.streamDescriptorWrite_spec {s : State} {vf k : Nat} {d : BitVec 512} (hr : s.dev.ready = true) (hvf : vf < 64) (hk : k < 8)
    (hlen : (s.vf vf).streams.length = 8) : ∃ t, exec (.streamDescriptorWrite vf k d) s = .next t ∧ t.mem = s.mem ∧
      (t.stream vf k).desc = if sdEn (s.stream vf k).desc then withEn (s.stream vf k).desc (sdEn d)
        else withEn d (sdEn d && streamOk (s.vf vf) d) := by
  change ∃ t, execStreamDescriptorWrite vf k d s = _ ∧ _
  unfold execStreamDescriptorWrite
  extract_lets old new
  rw [if_neg (by simp [hr, hvf, hk])]
  refine ⟨_, rfl, rfl, ?_⟩
  rw [State.stream_modStream (by omega)]

/-! #### Ports (R279) -/

section

variable {s : State} {i : Nat}

theorem State.portGenWrite_eq {value : BitVec 64} (hr : s.dev.ready = true) (hi : i < 32) :
    let p := s.dev.ports.getD i {}
    let gen := value.toNat / 16 % 16
    exec (.portGenWrite i value) s = .next (if (gen = 3 ∧ p.g3 = true) ∨ (gen = 4 ∧ p.g4 = true) then
      { s with dev := { s.dev with ports := s.dev.ports.set i { p with gen := gen, link := 1 } } } else s) := by
  intro p gen
  change execPortGenWrite i value s = _
  unfold execPortGenWrite
  extract_lets gen'
  have hgen : gen' = gen := by simp [gen, gen', bits, Nat.shiftRight_eq_div_pow]
  rw [hgen]
  by_cases h : (gen = 3 ∧ p.g3 = true) ∨ (gen = 4 ∧ p.g4 = true)
  · rw [if_pos (by simpa [hr, hi] using h), if_pos h]
    rfl
  · rw [if_neg (by simpa [hr, hi] using h), if_neg h]

theorem State.portRetrainDone_of_other (h : (s.dev.ports.getD i {}).link ≠ 1) (up : Bool) :
    exec (.portRetrainDone i up) s = .next s := by
  change execPortRetrainDone i up s = _
  unfold execPortRetrainDone
  rw [if_neg (fun hc => h (by simpa using (Bool.and_eq_true_iff.mp hc).2))]

variable (hi : i < 32) (hl : (s.dev.ports.getD i {}).link = 1)
include hi hl

theorem State.portRetrainDone_down : exec (.portRetrainDone i false) s =
    .next { s with dev := { s.dev with ports := s.dev.ports.set i { s.dev.ports.getD i {} with link := 0 } } } := by
  change execPortRetrainDone i false s = _
  unfold execPortRetrainDone
  rw [if_pos (Bool.and_eq_true_iff.mpr ⟨decide_eq_true hi, decide_eq_true hl⟩)]
  rfl

/-- A port that came up lets the traffic that waited for it leave, then takes in what came by it. -/
theorem State.portRetrainDone_up : exec (.portRetrainDone i true) s =
    .next ((s.portIn.filter fun x => x.1 = i).foldl (fun s x => s.arrived x.2) { s with
        dev := { s.dev with ports := s.dev.ports.set i { s.dev.ports.getD i {} with link := 2 } }
        host := s.host ++ (s.portWait.filter fun m => m.1 = i).map (·.2), portWait := s.portWait.filter fun m => m.1 ≠ i
        portIn := s.portIn.filter fun x => x.1 ≠ i }) := by
  change execPortRetrainDone i true s = _
  unfold execPortRetrainDone
  rw [if_pos (Bool.and_eq_true_iff.mpr ⟨decide_eq_true hi, decide_eq_true hl⟩)]
  rfl

end

theorem State.portShut_iff {s : State} {p : Nat} :
    s.portShut p = true ↔ (s.dev.ports.getD p {}).link ≠ 2 ∨ ∃ w ∈ s.portWait, w.1 = p := by
  simp [State.portShut]

/-! #### Attestation (R287, R288) -/

theorem beBytes_length (n x : Nat) : (beBytes n x).length = n := by rw [beBytes, List.length_reverse, leBytes_length]

theorem State.reportHead_length (s : State) (vf : Nat) : (s.reportHead vf).length = 202 := by
  rw [State.reportHead]
  simp only [List.length_append, leBytes_length]

/-- A report is its head and the two halves of the signature. -/
theorem State.report_eq (s : State) (vf n : Nat) : ∃ sig : List Byte, s.report vf n = s.reportHead vf ++ sig ∧ sig.length = 132 := by
  refine ⟨_, List.append_assoc _ _ _, ?_⟩
  rw [List.length_append, beBytes_length, beBytes_length]

theorem State.report_length (s : State) (vf n : Nat) : (s.report vf n).length = 334 := by
  obtain ⟨sig, heq, hlen⟩ := s.report_eq vf n
  rw [heq, List.length_append, State.reportHead_length, hlen]

/-- The parts of a list by their lengths. -/
theorem parts_append {α : Type} {a b c d e : List α} (f : List α) (ha : a.length = 64) (hb : b.length = 64) (hc : c.length = 64)
    (hd : d.length = 8) (he : e.length = 2) : (a ++ b ++ c ++ d ++ e ++ f).take 64 = a ∧
      ((a ++ b ++ c ++ d ++ e ++ f).drop 64).take 64 = b ∧ ((a ++ b ++ c ++ d ++ e ++ f).drop 128).take 64 = c ∧
      ((a ++ b ++ c ++ d ++ e ++ f).drop 200).take 2 = e := by
  refine ⟨?_, ?_, ?_, ?_⟩ <;> simp [List.drop_append, List.drop_eq_nil_of_le, ha, hb, hc, hd, he]

/-- A report begins with the nonce, the measurement of the firmware, the digest of the VF's control block, and names the VF. -/
theorem State.report_fields (s : State) {vf : Nat} (n : Nat) (hvf : vf < 64) :
    (s.report vf n).take 64 = leBytes 64 s.dev.nonce.toNat ∧ ((s.report vf n).drop 64).take 64 = leBytes 64 s.dev.fwm.toNat ∧
      ((s.report vf n).drop 128).take 64 = leBytes 64 (sha512 (s.vf vf).block).toNat ∧
      ((s.report vf n).drop 200).take 2 = [BitVec.ofNat 8 vf, 0] := by
  obtain ⟨sig, heq, -⟩ := s.report_eq vf n
  have hid : leBytes 2 vf = [BitVec.ofNat 8 vf, 0] := by
    rw [leBytes, leBytes, leBytes, Nat.div_eq_of_lt (by omega)]
    rfl
  rw [heq, State.reportHead, hid]
  exact parts_append _ (leBytes_length _ _) (leBytes_length _ _) (leBytes_length _ _) (leBytes_length _ _) rfl

section

variable {s : State} {value : BitVec 64} (hr : s.dev.ready = true)
include hr

theorem State.areq_of_busy (h : s.dev.arStore.isSome = true) : exec (.areq value) s = .next s := by
  change execAreq value s = _
  unfold execAreq
  extract_lets vf a
  rw [if_pos (by simp [hr, h])]

variable (hs : s.dev.arStore = none)
include hs

theorem State.areq_of_refused (h : (s.vf (value.toNat % 64)).en = false ∨ 2 ^ 48 ≤ value.toNat / 256 * 256 ∨
      s.ownsFrame (value.toNat % 64) (value.toNat / 256 * 256 / 65536) = false) : exec (.areq value) s = .next (s.attested true) := by
  change execAreq value s = _
  unfold execAreq
  extract_lets vf a
  have hvf : vf = value.toNat % 64 := by simp [vf, bits]
  rw [if_neg (by simp [hr, hs]), if_pos (by simpa [hvf, or_assoc] using h)]

theorem State.areq_of_taken (h1 : (s.vf (value.toNat % 64)).en = true) (h2 : value.toNat / 256 * 256 < 2 ^ 48)
    (h3 : s.ownsFrame (value.toNat % 64) (value.toNat / 256 * 256 / 65536) = true) :
    let s2 := s.takeFree.2.addStore 0 0 0 none (value.toNat / 256 * 256) (s.takeFree.2.report (value.toNat % 64) s.free) .device false
    exec (.areq value) s = .next { s2 with dev := { s2.dev with arErr := false, arStore := some s.nextId } } := by
  change execAreq value s = _
  unfold execAreq
  extract_lets vf a
  have hvf : vf = value.toNat % 64 := by simp [vf, bits]
  rw [if_neg (by simp [hr, hs]), if_neg (by rw [hvf, h1, h3]; simpa [a] using h2), hvf]
  rfl

end

theorem State.attestEnd_of_busy {s : State} {id : Nat} (h : s.dev.arStore = some id) :
    s.attestEnd = if ∃ p ∈ s.pend, p.id = id then s else s.attested false := by
  unfold State.attestEnd
  rw [h]
  simp

/-! #### Register reads -/

/-- The window's offsets as numbers (log 40). -/
theorem window_offsets : capFirst = 0x100 ∧ capPorts = 0x200 ∧ capVf = 0x400 ∧ capSecurity = 0x440 ∧ capPower = 0x500 ∧ keyBase = 0x600 ∧
    ctlBase = 0x1000 := ⟨rfl, rfl, rfl, rfl, rfl, rfl, rfl⟩

section

variable {s : State} {src : Source} {off : Nat}

theorem State.readWindow_of_key (h1 : 0x600 ≤ off) (h2 : off < 0x600 + 133) :
    s.readWindow src off = bytesAt identityPub (off - 0x600) := by
  unfold State.readWindow
  extract_lets security
  have hsec : security = true := by simp [security, keyBase, h1, h2]
  rw [hsec]
  simp only [Bool.and_eq_true, decide_eq_true_eq]
  obtain ⟨hfirst, hports, hvf, hsecurity, hpower, hkey, hctl⟩ := window_offsets
  rw [if_neg (by omega), if_neg (by simp)]
  repeat rw [if_neg (by omega)]
  rw [if_pos (by omega), hkey]

theorem State.readWindow_of_record (hr : s.dev.ready = true) (h1 : 0x01000000 ≤ off) (h2 : off < 0x02000000) :
    s.readWindow src off = s.readRecord src ((off - 0x01000000) / 256) (off % 256) := by
  unfold State.readWindow
  extract_lets security
  rw [hr]
  simp only [Bool.and_eq_true, decide_eq_true_eq]
  obtain ⟨hfirst, hports, hvf, hsecurity, hpower, hkey, hctl⟩ := window_offsets
  rw [if_neg (by omega), if_neg (by simp)]
  repeat rw [if_neg (by omega)]
  rw [if_pos ⟨h1, h2⟩]

end

/-- The public key is read where the security capability says (R287, R288). -/
theorem State.readWindow_key (s : State) (src : Source) {i : Nat} (hi : i < 17) :
    s.readWindow src (capSecurity + (s.readWindow src (capSecurity + 8)).toNat % 2 ^ 32 + 8 * i) = bytesAt identityPub (8 * i) := by
  have hoff : (s.readWindow src (capSecurity + 8)).toNat % 2 ^ 32 = 0x1C0 := by
    simp [State.readWindow, capSecurity, capFirst, capPorts, capVf, keyBase]
  rw [hoff, State.readWindow_of_key (by simp only [capSecurity]; omega) (by simp only [capSecurity]; omega)]
  have hat : capSecurity + 0x1C0 + 8 * i - 0x600 = 8 * i := by
    simp only [capSecurity]
    omega
  rw [hat]

/-! #### Register writes (R281, R284) -/

/-- Where in the window a VF's control block stands. -/
theorem ctl_offset {vf off : Nat} (hvf : vf < 64) (hoff : off < 4096) :
    ctlBase ≤ ctlBase + 4096 * vf + off ∧ ctlBase + 4096 * vf + off < ctlBase + 64 * 4096 ∧
      (ctlBase + 4096 * vf + off - ctlBase) / 4096 = vf ∧ (ctlBase + 4096 * vf + off - ctlBase) % 4096 = off := by
  omega

section

variable {s : State} {value : BitVec 64} (hr : s.dev.ready = true)
include hr

/-- The module-wide budgets are the privileged driver's. -/
theorem State.registerWrite_budget {i : Nat} (hi : i < 4) :
    exec (.registerWrite ⟨.privileged, 0x40 + 8 * i⟩ value) s =
      .next { s with dev := { s.dev with budgets := s.dev.budgets.set i value } } ∧
    ∀ vf, exec (.registerWrite ⟨.driver vf, 0x40 + 8 * i⟩ value) s = .next s := by
  have h8 : (0x40 + 8 * i) % 8 = 0 := by omega
  have hin : 0x40 + 8 * i < 0x60 := by omega
  constructor
  · change execRegisterWrite _ _ _ = _
    simp [execRegisterWrite, hr, h8, hin]
  · intro vf
    change execRegisterWrite _ _ _ = _
    simp [execRegisterWrite, hr, h8, hin]

/-- A register of a VF's control block, written by one of the two sources that may, and by none else (log 106). -/
theorem State.registerWrite_ctl {vf off : Nat} {src : Source} (hvf : vf < 64) (hoff : off < 4096) (h8 : off % 8 = 0)
    (hsrc : ∀ v c p q, src ≠ .mapping v c p q) : exec (.registerWrite ⟨src, ctlBase + 4096 * vf + off⟩ value) s =
      .next (if mayWrite src vf then s.writeVf vf off value else s) := by
  obtain ⟨h1, h2, h3, h4⟩ := ctl_offset hvf hoff
  have hctl : ctlBase = 0x1000 := rfl
  have hsecurity : capSecurity = 0x440 := rfl
  have hpool : poolAdd = 0x68 := rfl
  change execRegisterWrite _ _ _ = _
  unfold execRegisterWrite
  extract_lets at_
  have hat : at_ = ctlBase + 4096 * vf + off := rfl
  have hgo : ¬((!s.dev.ready || decide (at_ % 8 ≠ 0)) = true) := by
    rw [hr, Bool.not_true, Bool.false_or, decide_eq_true_eq]
    omega
  rw [if_neg hgo]
  simp only [Bool.and_eq_true, decide_eq_true_eq]
  cases src with
  | mapping v c p q => exact absurd rfl (hsrc v c p q)
  | privileged =>
    rw [if_neg (by omega), if_neg (by omega), if_neg (by omega), if_pos (by omega), hat, h3, h4]
  | driver v =>
    rw [if_neg (by omega), if_neg (by omega), if_neg (by omega), if_pos (by omega), hat, h3, h4]

/-- A control block is discarded what another VF's driver writes to it. -/
theorem State.registerWrite_other {vf other off : Nat} (hvf : vf < 64) (hoff : off < 4096) (hne : other ≠ vf) :
    exec (.registerWrite ⟨.driver other, ctlBase + 4096 * vf + off⟩ value) s = .next s := by
  by_cases h8 : off % 8 = 0
  · rw [s.registerWrite_ctl hr hvf hoff h8 (by simp), mayWrite, if_neg (by simpa using hne)]
  · have hctl : ctlBase = 0x1000 := rfl
    change execRegisterWrite _ _ _ = _
    unfold execRegisterWrite
    extract_lets at_
    rw [if_pos]
    have hodd : at_ % 8 ≠ 0 := by
      change (ctlBase + 4096 * vf + off) % 8 ≠ 0
      omega
    simp [hodd]

/-- The registers of a control block that its own driver and the privileged one write. -/
theorem State.registerWrite_own {vf off : Nat} {src : Source} (hvf : vf < 64) (hsrc : src = .privileged ∨ src = .driver vf)
    (hoff : off < 4096) (h8 : off % 8 = 0) :
    exec (.registerWrite ⟨src, ctlBase + 4096 * vf + off⟩ value) s = .next (s.writeVf vf off value) := by
  rcases hsrc with rfl | rfl
  · rw [s.registerWrite_ctl hr hvf hoff h8 (by simp), mayWrite, if_pos rfl]
  · rw [s.registerWrite_ctl hr hvf hoff h8 (by simp), mayWrite, if_pos (by simp)]

end

theorem State.writeVf_budget (s : State) (vf : Nat) (value : BitVec 64) {i : Nat} (hi : i < 4) :
    s.writeVf vf (0x98 + 8 * i) value = s.setVf vf { s.vf vf with budget := (s.vf vf).budget.set i value } := by
  match i, hi with
  | 0, _ => rfl
  | 1, _ => rfl
  | 2, _ => rfl
  | 3, _ => rfl

theorem State.writeVf_ctl (s : State) (vf : Nat) {value : BitVec 64} (h : value.toNat < 4) :
    s.writeVf vf 0 value = s.setVf vf { s.vf vf with en := value.getLsbD 0, qtrap := value.getLsbD 1 } := by
  have hrst : value.getLsbD 2 = false := by
    rw [BitVec.getLsbD]
    exact Nat.testBit_lt_two_pow h
  change s.writeVfctl vf value = _
  unfold State.writeVfctl
  rw [if_neg (by omega)]
  extract_lets v s1
  rw [hrst]
  rfl

theorem State.writeVf_readOnly (s : State) (vf : Nat) (value : BitVec 64) {off : Nat}
    (h : off = 0x008 ∨ off = 0x078 ∨ off = 0x0C8 ∨ off = 0x168 ∨ off = 0x170) : s.writeVf vf off value = s := by
  rcases h with rfl | rfl | rfl | rfl | rfl <;> rfl

/-- Settles O57: each event's or register's own equation, in the order of the statement. -/
theorem deviceRegisters : Obligations.DeviceRegisters := by
  unfold Obligations.DeviceRegisters
  refine ⟨fun s h => ?_, fun s avg => ⟨State.powerStepDown_of_due, State.powerStepUp_of_due⟩, fun s r => ?_, fun s hr hf => ?_,
    fun s vf value hr hvf => ?_, fun s vf k d hr hvf hk hlen => ?_, fun s i value hr hi => ?_, fun s node m => ?_, fun s value hr => ?_,
    fun s src i hi => s.readWindow_key src hi, fun s rid off hr hrid hoff => ?_, fun s value hr => ?_⟩
  · obtain ⟨t, hexec, hperiod, hgroups, hmem, hvfs⟩ := State.budgetPeriodStart_of_due h
    refine ⟨t, hexec, hperiod, hgroups, hmem, fun vf v hv => ⟨v.renew, ?_, rfl, rfl, rfl, rfl, fun i b x => Vf.renew_left⟩⟩
    rw [hvfs, Map.get?_map (f := fun p : Nat × Vf => (p.1, p.2.renew)) (fun _ => rfl), hv]
    rfl
  · refine ⟨_, s.moduleReset_eq r, rfl, rfl, rfl, rfl, rfl, ?_, ?_, ?_⟩
    · cases s.dev.accepts r <;> rfl
    · cases s.dev.accepts r <;> rfl
    · rw [← Device.accepts_iff]
      constructor
      · intro hok
        rw [if_pos hok]
        exact ⟨rfl, rfl, rfl, decide_eq_true_iff, decide_eq_true_iff, fun i hi => link_portsAfter hi⟩
      · intro hno
        rw [if_neg hno]
        exact ⟨rfl, rfl, dstat_rejected s s.dev r⟩
  · obtain ⟨t, hexec, hmem, hdev, hcommon⟩ := State.hbmRegionFill_spec hr hf
    refine ⟨t, hexec, by rw [hdev], fun a ha => ?_, fun a ha => ?_, fun hb => ?_, fun hb => ?_, ?_⟩
    · rw [hmem, memByte_filled, if_pos ha]
    · rw [hmem, memByte_filled, if_neg ha]
    · rw [hcommon, if_neg hb]
    · rw [hcommon, if_pos hb]
    · rw [hdev]
      exact decide_eq_true_iff
  · intro v n others
    have hothersSlots : others (·.slots) = s.others vf (·.slots) := (s.others_eq vf _).symm
    have hothersWays : others (·.next.2.1) = s.others vf (·.next.2.1) := (s.others_eq vf fun v => v.next.2.1).symm
    have hslots := State.vfGrantWrite_slots (value := value) hr hvf
    refine ⟨fun h1 h2 => ?_, fun h => ?_, fun h => ?_, State.vfGrantWrite_binds hr hvf, State.vfGrantWrite_counters hr hvf,
      State.vfGrantWrite_cores hr hvf⟩
    · rw [hothersSlots] at h2
      rw [hslots, if_pos ⟨h1, h2⟩]
    · rw [hothersSlots] at h
      rw [hslots, if_neg (by omega)]
    · rw [hothersWays] at h
      exact State.vfGrantWrite_ways hr hvf h
  · obtain ⟨t, hexec, hmem, hdesc⟩ := State.streamDescriptorWrite_spec (d := d) hr hvf hk hlen
    refine ⟨t, hexec, hmem, fun hen i hi => ?_, fun hen => ?_, fun hen => ⟨fun i hi => ?_, ?_⟩⟩ <;> rw [hdesc]
    · rw [if_pos hen, getLsbD_withEn hi]
    · rw [if_pos hen, sdEn_withEn]
    · rw [if_neg (by simp [hen]), getLsbD_withEn hi]
    · rw [if_neg (by simp [hen]), sdEn_withEn]
  · intro p gen
    have hgen := State.portGenWrite_eq (value := value) hr hi
    refine ⟨fun h => hgen.trans (by rw [if_pos h]), fun h => hgen.trans (by rw [if_neg h]), State.portRetrainDone_of_other,
      State.portRetrainDone_down hi, fun hl => ?_⟩
    intro up
    have hup := State.portRetrainDone_up hi hl
    refine ⟨fun h => ?_, fun x rest hx hrest => ?_⟩
    · have hnone : s.portIn.filter (fun x => x.1 = i) = [] := by simpa using h
      rw [hup, hnone]
      rfl
    · have hone : s.portIn.filter (fun x => x.1 = i) = [(i, x)] := by
        rw [hx, List.filter_cons_of_pos (by simp), List.filter_eq_nil_iff.mpr (by simpa using hrest)]
      rw [hup, hone]
      rfl
  · rw [← State.portShut_iff]
    refine ⟨fun h => ?_, fun hl hw => ?_⟩
    · rw [State.post, if_pos h]
    · have hshut : ¬s.portShut (Config.portOf node) = true := by
        rw [State.portShut_iff]
        rintro (h | ⟨w, hmem, h⟩)
        · exact h hl
        · exact hw w hmem h
      rw [State.post, if_neg hshut]
      rfl
  · intro vf a ended
    have hvf : vf < 64 := Nat.mod_lt _ (by decide)
    refine ⟨State.areq_of_busy hr, State.areq_of_refused hr, fun hs h1 h2 h3 => ?_, fun id hid => ?_⟩
    · obtain ⟨hnonce, hfwm, hblock, hname⟩ := s.takeFree.2.report_fields s.free hvf
      exact ⟨_, State.areq_of_taken hr hs h1 h2 h3, State.report_length _ _ _, hnonce, hfwm, hblock, hname⟩
    · have hend := State.attestEnd_of_busy hid
      exact ⟨fun h => hend.trans (if_neg (by simpa using h)), fun h => hend.trans (if_pos h)⟩
  · intro at_
    have hread (src : Source) : s.readWindow src at_ = s.readRecord src rid off := by
      have hlo : 0x01000000 ≤ at_ := by
        change 0x01000000 ≤ 0x01000000 + 256 * rid + off
        omega
      have hhi : at_ < 0x02000000 := by
        change 0x01000000 + 256 * rid + off < 0x02000000
        omega
      have hrid' : (at_ - 0x01000000) / 256 = rid := by
        change (0x01000000 + 256 * rid + off - 0x01000000) / 256 = rid
        omega
      have hoff' : at_ % 256 = off := by
        change (0x01000000 + 256 * rid + off) % 256 = off
        omega
      rw [State.readWindow_of_record hr hlo hhi, hrid', hoff']
    refine ⟨fun vf h => (hread _).trans (if_pos h), fun vf h => (hread _).trans (if_neg (by simp [h])), hread _⟩
  · refine ⟨fun i hi => State.registerWrite_budget hr hi, fun vf other off hvf hoff hne => State.registerWrite_other hr hvf hoff hne,
      fun vf src hvf hsrc => ?_⟩
    intro at_ v
    have hown {off : Nat} (hoff : off < 4096) (h8 : off % 8 = 0) := State.registerWrite_own (value := value) hr hvf hsrc hoff h8
    refine ⟨fun i hi => ?_, hown (by decide) (by decide), hown (by decide) (by decide), fun h => ?_, fun off hoff => ?_⟩
    · exact (hown (by omega) (by omega)).trans (congrArg _ (s.writeVf_budget vf value hi))
    · exact (hown (by decide) (by decide)).trans (congrArg _ (s.writeVf_ctl vf h))
    · exact (hown (by omega) (by omega)).trans (congrArg _ (s.writeVf_readOnly vf value hoff))

end Sys2Proof.Machine
end

section
namespace Sys2Proof.Machine

set_option Elab.async false

/-! ### Submissions, record writes, and the steps of a stream (O51) -/

/-! #### Submission (R48) -/

/-- A record as its submission to stream k of a VF, whose context is cid, writes it. -/
def Req.submitted (r : Req) (vf k cid order : Nat) : Req :=
  { bits := ((r.put 48 3 0).put 51 3 0).bits, stream := some (vf, k, cid), order := order }

theorem Req.n_submitted (r : Req) (vf k cid order : Nat) : (r.submitted vf k cid order).n = setBits (setBits r.n 48 3 0) 51 3 0 := by
  have hn : (r.submitted vf k cid order).n = ((r.put 48 3 0).put 51 3 0).n := Req.n_congr rfl
  rw [hn]
  simp

theorem getLsbD_submitted (r : Req) (vf k cid order : Nat) {i : Nat} (h : i < 48 ∨ 54 ≤ i) :
    (r.submitted vf k cid order).bits.getLsbD i = r.bits.getLsbD i := by
  have hn : (r.submitted vf k cid order).bits.toNat = setBits (setBits r.bits.toNat 48 3 0) 51 3 0 := r.n_submitted vf k cid order
  rw [BitVec.getLsbD, hn, testBit_setBits, testBit_setBits]
  rcases h with h | h
  · rw [if_pos (by omega), if_pos (by omega)]
    rfl
  · rw [if_neg (by omega), if_neg (by omega), if_neg (by omega), if_neg (by omega)]
    rfl

theorem bits_low (value : BitVec 64) : bits value.toNat 15 0 = value.toNat % 65536 ∧ bits value.toNat 18 16 = value.toNat / 65536 % 8 ∧
    (bits value.toNat 63 19 = 0 ↔ value.toNat < 2 ^ 19) := by
  have hlt := value.isLt
  simp only [bits, Nat.shiftRight_eq_div_pow]
  omega

section

variable {s : State} {vf : Nat} {value : BitVec 64} (hr : s.dev.ready = true)
include hr

theorem State.submission_of_ok {rid k : Nat} (hrid : bits value.toNat 15 0 = rid) (hk : bits value.toNat 18 16 = k)
    (h1 : bits value.toNat 63 19 = 0) (h2 : (s.vf vf).hasRecord rid = true) (h3 : recState (s.req rid).n = 5)
    (h4 : sdConfigured (s.stream vf k).desc = true) : exec (.submission vf value) s =
      .next ((s.setReq rid ((s.req rid).submitted vf k (sdCtx (s.stream vf k).desc) (s.vf vf).subs)).setVf vf
        { s.vf vf with subs := (s.vf vf).subs + 1 }) := by
  change execSubmission vf value s = _
  simp only [execSubmission, hrid, hk]
  rw [if_neg (by simp [hr]), if_neg (by simp [h1, h2, h3, h4])]
  rfl

theorem State.submission_of_bad {rid k : Nat} (hrid : bits value.toNat 15 0 = rid) (hk : bits value.toNat 18 16 = k)
    (h : ¬(bits value.toNat 63 19 = 0 ∧ (s.vf vf).hasRecord rid = true ∧ recState (s.req rid).n = 5 ∧
      sdConfigured (s.stream vf k).desc = true)) : exec (.submission vf value) s = .next (s.discard vf) := by
  change execSubmission vf value s = _
  simp only [execSubmission, hrid, hk]
  have hbad : (decide (bits value.toNat 63 19 ≠ 0) || !(s.vf vf).hasRecord rid || decide (recState (s.req rid).n ≠ 5) ||
      !sdConfigured (s.stream vf k).desc) = true := by
    by_contra hcon
    exact h (by simpa [and_assoc] using hcon)
  rw [if_neg (by simp [hr]), if_pos hbad]

end

/-! #### The record window (R42, R281) -/

/-- Byte i of a record's number. -/
def byteOf (b i : Nat) : Nat := bits b (8 * i + 7) (8 * i)

theorem byteOf_setBits (b off v i : Nat) : byteOf (setBits b (8 * off) 8 v) i = if i = off then v % 256 else byteOf b i := by
  by_cases h : i = off
  · subst h
    rw [if_pos rfl]
    exact bits_setBits_self (by omega)
  · rw [if_neg h]
    exact bits_setBits_disjoint (by omega)

/-- A byte of a record after a write: the byte written, where the host may write it. -/
theorem byteOf_putBytes (retired : Bool) (b off : Nat) (bs : List Byte) {i : Nat} (hi : i < 256) : byteOf (putBytes retired b off bs) i =
    if off ≤ i ∧ i < off + bs.length ∧ hostMay retired i = true then (bs.getD (i - off) 0).toNat else byteOf b i := by
  induction bs generalizing b off with
  | nil => rw [putBytes, if_neg (by simp only [List.length_nil]; omega)]
  | cons x xs ih =>
    have hx : x.toNat % 256 = x.toNat := Nat.mod_eq_of_lt x.isLt
    rw [putBytes, ih]
    by_cases he : i = off
    · subst he
      rw [if_neg (by omega)]
      by_cases hm : hostMay retired i = true
      · rw [if_pos (by simp [hi, hm]), byteOf_setBits, if_pos rfl, if_pos (by simp [hm]), hx]
        simp
      · rw [if_neg (by simp [hm]), if_neg (by simp [hm])]
    · have hkeep : byteOf (if (decide (off < 256) && hostMay retired off) = true then setBits b (8 * off) 8 x.toNat else b) i = byteOf b i := by
        split
        · rw [byteOf_setBits, if_neg he]
        · rfl
      rw [hkeep]
      by_cases hin : off + 1 ≤ i ∧ i < off + 1 + xs.length ∧ hostMay retired i = true
      · obtain ⟨h1, h2, h3⟩ := hin
        rw [if_pos ⟨h1, h2, h3⟩, if_pos ⟨by omega, by rw [List.length_cons]; omega, h3⟩,
          show i - off = (i - (off + 1)) + 1 by omega, List.getD_cons_succ]
      · rw [if_neg hin, if_neg]
        rintro ⟨h1, h2, h3⟩
        rw [List.length_cons] at h2
        exact hin ⟨by omega, by omega, h3⟩

theorem putBytes_lt {retired : Bool} {b n : Nat} (h : b < 2 ^ n) (hn : 2048 ≤ n) (off : Nat) (bs : List Byte) :
    putBytes retired b off bs < 2 ^ n := by
  induction bs generalizing b off with
  | nil => exact h
  | cons x xs ih =>
    refine ih ?_ _
    split
    · next hw =>
      have hoff : off < 256 := by simpa using (Bool.and_eq_true_iff.mp hw).1
      exact setBits_lt h (by omega)
    · exact h

theorem toNat_ofNat_putBytes {n : Nat} (x : BitVec n) (hn : 2048 ≤ n) (retired : Bool) (off : Nat) (bs : List Byte) :
    (BitVec.ofNat n (putBytes retired x.toNat off bs)).toNat = putBytes retired x.toNat off bs := by
  rw [BitVec.toNat_ofNat]
  exact Nat.mod_eq_of_lt (putBytes_lt x.isLt hn off bs)

/-- A record as a write of the host's bytes leaves it. -/
def Req.written (r : Req) (off : Nat) (bs : List Byte) : Req :=
  { r with bits := BitVec.ofNat 2048 (Sys2Proof.Machine.putBytes (recState r.n = 5) r.n off bs) }

theorem extractByte_eq (x : BitVec 2048) (i : Nat) : x.extractLsb' (8 * i) 8 = BitVec.ofNat 8 (byteOf x.toNat i) := by
  apply BitVec.eq_of_toNat_eq
  rw [BitVec.extractLsb'_toNat, BitVec.toNat_ofNat, byteOf, bits, show 8 * i + 7 + 1 - 8 * i = 8 by omega, Nat.mod_mod]

theorem extractByte_written (r : Req) (off : Nat) (bs : List Byte) {i : Nat} (hi : i < 256) :
    (r.written off bs).bits.extractLsb' (8 * i) 8 =
      if off ≤ i ∧ i < off + bs.length ∧ hostMay (recState r.n = 5) i = true then bs.getD (i - off) 0 else r.bits.extractLsb' (8 * i) 8 := by
  have hn : (r.written off bs).bits.toNat = putBytes (recState r.n = 5) r.n off bs :=
    toNat_ofNat_putBytes r.bits (by decide) _ off bs
  rw [extractByte_eq, extractByte_eq, hn, byteOf_putBytes _ _ _ _ hi]
  split
  · rw [BitVec.ofNat_toNat, BitVec.setWidth_eq]
  · rfl

section

variable {s : State} {src rid off : Nat} {bs : List Byte} (hr : s.dev.ready = true)
include hr

omit hr in
theorem State.recordWindowWrite_of_other (h : (s.vf src).hasRecord rid = false) : exec (.recordWindowWrite src rid off bs) s = .next s := by
  change execRecordWindowWrite src rid off bs s = _
  unfold execRecordWindowWrite
  rw [if_pos (by simp [h])]

/-- A record written, and the write counted where it reached a byte of a submitted record that is not the host's. -/
theorem State.recordWindowWrite_of_own (h : (s.vf src).hasRecord rid = true) :
    let lost : Prop := recState (s.req rid).n ≠ 5 ∧ ∃ i < bs.length, off + i < 256 ∧ ownerOf (off + i) ≠ .host
    let s1 := s.setReq rid ((s.req rid).written off bs)
    ∃ t, exec (.recordWindowWrite src rid off bs) s = .next t ∧ (lost → t = s1.discard src) ∧ (¬lost → t = s1) := by
  intro lost s1
  change ∃ t, execRecordWindowWrite src rid off bs s = _ ∧ _
  unfold execRecordWindowWrite
  rw [if_neg (by simp [hr, h])]
  extract_lets r retired lost' s1'
  have hlost : lost' = true ↔ lost := by simp [lost', lost, retired, r]
  exact ⟨_, rfl, fun hl => if_pos (hlost.mpr hl), fun hl => if_neg (hlost.not.mpr hl)⟩

end

/-- What a write of the host's bytes makes of the record, of the other records and of the VF's count of discarded writes. -/
theorem State.recordWindowWrite_spec {s : State} {src rid off : Nat} {bs : List Byte} (hr : s.dev.ready = true)
    (h : (s.vf src).hasRecord rid = true) :
    let r := s.req rid
    ∃ t, exec (.recordWindowWrite src rid off bs) s = .next t ∧
      (∀ i, i < 256 → (t.req rid).bits.extractLsb' (8 * i) 8 =
        if off ≤ i ∧ i < off + bs.length ∧ hostMay (recState r.n = 5) i = true then bs.getD (i - off) 0 else r.bits.extractLsb' (8 * i) 8) ∧
      (t.req rid).stream = r.stream ∧ (∀ q, q ≠ rid → t.req q = s.req q) ∧
      (recState r.n = 5 → (t.vf src).discw = (s.vf src).discw) ∧
      (recState r.n ≠ 5 → (∃ i, off ≤ i ∧ i < off + bs.length ∧ i < 256 ∧ ownerOf i ≠ .host) →
        (t.vf src).discw = (s.vf src).discw + 1) := by
  intro r
  obtain ⟨t, hexec, hlost, hkept⟩ := State.recordWindowWrite_of_own (off := off) (bs := bs) hr h
  have hreqs : t.reqs = (s.setReq rid (r.written off bs)).reqs := by
    by_cases hl : recState r.n ≠ 5 ∧ ∃ i < bs.length, off + i < 256 ∧ ownerOf (off + i) ≠ .host
    · rw [hlost hl]
      rfl
    · rw [hkept hl]
  have hreq : t.req rid = r.written off bs := (State.req_congr hreqs rid).trans (State.req_setReq _ _ _)
  refine ⟨t, hexec, fun i hi => ?_, ?_, fun q hq => ?_, fun h5 => ?_, fun h5 ⟨i, h1, h2, h3, h4⟩ => ?_⟩
  · rw [hreq, extractByte_written r off bs hi]
  · rw [hreq, Req.written]
  · rw [State.req_congr hreqs, State.req_setReq_ne _ _ _ _ hq]
  · rw [hkept fun hl => hl.1 h5]
    rfl
  · rw [hlost ⟨h5, i - off, by omega, by omega, by rwa [Nat.add_sub_cancel' h1]⟩, State.discard, State.vf_setVf]
    rfl

/-! #### The start of a step (R48) -/

section

variable {s : State} {vf k cid : Nat} {c : Ctx} (hc : s.streamCtx vf k = some (cid, c))
include hc

theorem State.stepStart_of_writing (hp : (s.stream vf k).phase = .writing) :
    exec (.stepStart vf k) s = .next (s.writeTable vf k cid c) := by
  change execStepStart vf k s = _
  simp only [execStepStart, hc, hp]

theorem State.stepStart_of_held (hp : (s.stream vf k).phase = .idle) (h : (s.stream vf k).aborted = true ∨ s.blockReady vf = false) :
    exec (.stepStart vf k) s = .next s := by
  change execStepStart vf k s = _
  simp only [execStepStart, hc, hp]
  rw [if_pos]
  rcases h with h | h <;> simp [h]

variable (hp : (s.stream vf k).phase = .idle) (hen : sdEn (s.stream vf k).desc = true) (ha : (s.stream vf k).aborted = false)
  (hr : s.dev.ready = true) (hb : s.blockReady vf = true)
include hp hen ha hr hb

variable {s0 s1 : State} (hs0 : s0 = s.heldAgain) (hs1 : s1 = (s0.streamReqs vf k).foldl (fun s rid => s.snapshotReq rid) s0)
include hs0 hs1

/-- Held requests are released, and no step starts where none is wanted. -/
theorem State.stepStart_of_unwanted (hw : s0.stepWanted s1 vf k c = false) : exec (.stepStart vf k) s = .next s0 := by
  subst hs0 hs1
  change execStepStart vf k s = _
  simp only [execStepStart, hc, hp]
  rw [if_neg (by simp [hen, ha, hr, hb]), if_pos (by simp only [hw, Bool.not_false])]

/-- A step that is wanted: the snapshot, evictions, admission, and the slot table. -/
theorem State.stepStart_of_wanted (hw : s0.stepWanted s1 vf k c = true) {e1 : List Nat × State} {e2 : List Nat × Bool × State}
    {t s5 : State} {order : List Nat} {a : Bool × State} (he1 : e1 = s1.evictBeyond vf k)
    (he2 : e2 = e1.2.evictAll vf k (sdKtpp (s.stream vf k).desc) e1.1 (e1.2.reqs.length + 1)) (ht : t = e2.2.2)
    (horder : order = if e2.2.1 = true then [] else (t.pendingOrder vf k).filter fun rid => !e2.1.contains rid)
    (hadmit : a = t.admitAll vf k c false order)
    (hs5 : s5 = ((a.2.streamReqs vf k).filter fun rid => (a.2.req rid).takesPart &&
      (a.2.req rid).shadow.isSome).foldl (fun s rid => s.joinStep rid) a.2) :
    exec (.stepStart vf k) s = .next ((s5.modStream vf k fun x =>
      { x with phase := .writing, entries := (s5.slotTable vf k).1, table := (s5.slotTable vf k).2 }).writeTable vf k cid c) := by
  subst hs5 hadmit horder ht he2 he1 hs1 hs0
  change execStepStart vf k s = _
  conv_lhs => simp only [execStepStart, hc, hp]
  rw [if_neg (by simp [hen, ha, hr, hb]), if_neg (by simp only [hw, Bool.not_true, Bool.false_eq_true, not_false_eq_true])]

end

theorem State.stepWanted_iff {s0 s : State} {vf k : Nat} {c : Ctx} : s0.stepWanted s vf k c = true ↔
    (∃ rid ∈ s0.streamReqs vf k, (s0.req rid).takesPart = true) ∨ (s.admitAll vf k c false (s.pendingOrder vf k)).1 = true := by
  simp [State.stepWanted]

/-! #### The slot table (R51) -/

/-- NTOK of a slot: that of the request that holds it. -/
def State.slotTokens (s : State) (rids : List Nat) (i : Nat) : Nat := match s.slotOwner rids i with
  | some (rid, _) => (s.req rid).ntok
  | none => 0

/-- What the entries of slots i to i + count - 1 are: of a slot, NTOK of those below it from i on is added to TOFF. -/
structure State.SlotEntries (s : State) (rids : List Nat) (toff i count : Nat) (out : Map (BitVec 128) × List Nat × Nat) : Prop where
  tokens : out.2.2 = toff + ((List.range count).map fun j => s.slotTokens rids (i + j)).sum
  length : out.2.1.length = count
  low : ∀ p ∈ out.1, i ≤ p.1
  owned : ∀ j < count, ∀ rid part, s.slotOwner rids (i + j) = some (rid, part) →
    let e := slotEntryBits (toff + ((List.range j).map fun j => s.slotTokens rids (i + j)).sum) (s.req rid) rid part
    Map.get? out.1 (i + j) = some (BitVec.ofNat 128 e) ∧ out.2.1[j]? = some e
  free : ∀ j < count, s.slotOwner rids (i + j) = none → Map.get? out.1 (i + j) = none ∧
    out.2.1[j]? = some ((toff + ((List.range j).map fun j => s.slotTokens rids (i + j)).sum) * 2 ^ 96)

theorem sum_range_succ_shift (f : Nat → Nat) (i j : Nat) :
    ((List.range (j + 1)).map fun x => f (i + x)).sum = f i + ((List.range j).map fun x => f (i + 1 + x)).sum := by
  rw [List.range_succ_eq_map, List.map_cons, List.sum_cons, List.map_map]
  simp [Function.comp_def, Nat.add_right_comm, Nat.add_assoc]

theorem State.slotTokens_of_some {s : State} {rids : List Nat} {i rid part : Nat} (h : s.slotOwner rids i = some (rid, part)) :
    s.slotTokens rids i = (s.req rid).ntok := by rw [State.slotTokens, h]

theorem State.slotTokens_of_none {s : State} {rids : List Nat} {i : Nat} (h : s.slotOwner rids i = none) : s.slotTokens rids i = 0 := by
  rw [State.slotTokens, h]

/-- A slot put before a table: the slots behind it have its tokens below them. -/
theorem State.SlotEntries.cons {s : State} {rids : List Nat} {toff i n x : Nat} {ms : List (Nat × BitVec 128)}
    {out : Map (BitVec 128) × List Nat × Nat}
    (h : s.SlotEntries rids (toff + s.slotTokens rids i) (i + 1) n out)
    (hsome : ∀ rid part, s.slotOwner rids i = some (rid, part) → x = slotEntryBits toff (s.req rid) rid part ∧ ms = [(i, BitVec.ofNat 128 x)])
    (hnone : s.slotOwner rids i = none → x = toff * 2 ^ 96 ∧ ms = []) :
    s.SlotEntries rids toff i (n + 1) (ms ++ out.1, x :: out.2.1, out.2.2) := by
  have hms : ms = [] ∨ ms = [(i, BitVec.ofNat 128 x)] := by
    cases ho : s.slotOwner rids i with
    | none => exact .inl (hnone ho).2
    | some p => exact .inr (hsome p.1 p.2 ho).2
  have hnext (j : Nat) : Map.get? (ms ++ out.1) (i + (j + 1)) = Map.get? out.1 (i + 1 + j) := by
    rw [show i + (j + 1) = i + 1 + j by omega]
    rcases hms with rfl | rfl
    · rfl
    · exact if_neg (by omega)
  have hbelow (j : Nat) : toff + ((List.range (j + 1)).map fun j => s.slotTokens rids (i + j)).sum =
      toff + s.slotTokens rids i + ((List.range j).map fun j => s.slotTokens rids (i + 1 + j)).sum := by
    rw [sum_range_succ_shift, Nat.add_assoc]
  refine ⟨h.tokens.trans (hbelow n).symm, ?_, fun p hp => ?_, fun j hj rid part ho => ?_, fun j hj ho => ?_⟩
  · rw [List.length_cons, h.length]
  · rcases List.mem_append.mp hp with hp | hp
    · rcases hms with rfl | rfl
      · simp at hp
      · simp [List.mem_singleton.mp hp]
    · exact (Nat.le_succ i).trans (h.low p hp)
  · cases j with
    | zero =>
      obtain ⟨rfl, rfl⟩ := hsome rid part ho
      simp [Map.get?]
    | succ j =>
      rw [show i + (j + 1) = i + 1 + j by omega] at ho
      rw [hnext, hbelow, List.getElem?_cons_succ]
      exact h.owned j (by omega) rid part ho
  · cases j with
    | zero =>
      obtain ⟨rfl, rfl⟩ := hnone ho
      exact ⟨Map.get?_eq_none fun p hp => Nat.ne_of_gt (h.low p hp), by simp⟩
    | succ j =>
      rw [show i + (j + 1) = i + 1 + j by omega] at ho
      rw [hnext, hbelow, List.getElem?_cons_succ]
      exact h.free j (by omega) ho

theorem State.slotEntries_spec (s : State) (rids : List Nat) (toff i count : Nat) :
    s.SlotEntries rids toff i count (s.slotEntries rids toff i count) := by
  induction count generalizing toff i with
  | zero => exact ⟨rfl, rfl, by simp [State.slotEntries], by simp, by simp⟩
  | succ n ih =>
    unfold State.slotEntries
    have h := ih (toff + s.slotTokens rids i) (i + 1)
    split
    · next ho =>
      have h' := h.cons (x := toff * 2 ^ 96) (ms := []) (by simp [ho]) fun _ => ⟨rfl, rfl⟩
      rw [State.slotTokens_of_none ho] at h'
      exact h'
    · next rid part ho =>
      have h' := h.cons (x := slotEntryBits toff (s.req rid) rid part) (by simp only [ho]; rintro _ _ ⟨⟩; exact ⟨rfl, rfl⟩) (by simp [ho])
      rw [State.slotTokens_of_some ho] at h'
      exact h'

/-! #### Evictions (R57) -/

theorem State.evictAll_of_enough {s : State} {vf k ktpp fuel : Nat} {out : List Nat} (h : s.demand vf k ktpp out ≤ (s.vf vf).pagesLeft) :
    s.evictAll vf k ktpp out (fuel + 1) = (out, false, s) := by
  rw [State.evictAll, if_pos h]

theorem State.evictAll_of_short {s : State} {vf k ktpp fuel : Nat} {out : List Nat} (h : (s.vf vf).pagesLeft < s.demand vf k ktpp out) :
    s.evictAll vf k ktpp out (fuel + 1) = match s.victim vf with
      | none => (out, true, s)
      | some rid => (s.evict rid).evictAll vf k ktpp (out ++ [rid]) fuel := by
  rw [State.evictAll]
  exact if_neg (Nat.not_le.mpr h)

theorem State.evictAll_of_none {s : State} {vf k ktpp fuel : Nat} {out : List Nat} (hv : s.victim vf = none) :
    s.evictAll vf k ktpp out (fuel + 1) = (out, decide ((s.vf vf).pagesLeft < s.demand vf k ktpp out), s) := by
  by_cases h : s.demand vf k ktpp out ≤ (s.vf vf).pagesLeft
  · rw [State.evictAll_of_enough h, decide_eq_false (Nat.not_lt.mpr h)]
  · rw [State.evictAll_of_short (Nat.not_le.mp h), hv, decide_eq_true (Nat.not_le.mp h)]

/-! #### The launches of a step (R52, R53) -/

section

variable {s : State} {vf k cid next : Nat} {c : Ctx} (hc : s.streamCtx vf k = some (cid, c))
  (hp : (s.stream vf k).phase = .launching next)
include hc hp

theorem State.stepGridLaunch_eq : exec (.stepGridLaunch vf k) s = .next (s.launchStep vf k cid c next) := by
  change execStepGridLaunch vf k s = _
  simp only [execStepGridLaunch, hc, hp]

end

/-- What the launch of grid `next` of a step's program comes from. -/
def State.stepLaunch (s1 : State) (vf k cid next teams : Nat) (x : Stream) : LaunchFrom :=
  { ctx := cid, lrec := BitVec.ofNat 64 (sdProg x.desc + 128 * next), depth := 1, nest := none, parent := none
    step := some (vf, k, teams), prio := some (sdPrio x.desc), teams := some (x.entries.length * teams)
    slots := x.entries.map (·.1), table := x.entries, stepNo := x.stepNo
    keys := (s1.stepReqs vf k).map fun rid => (rid, recKey (s1.req rid).h), commit := next + 1 = sdNprog x.desc }

section

variable {s s1 : State} {vf k cid next : Nat} {c : Ctx} (hu : (s.stream vf k).unreadable = false) (hk : (s.stream vf k).parked = none)
include hu hk

/-- A record that cannot be used, or not now, launches nothing. -/
theorem State.launchStep_of_other {x : LaunchRead} (hread : s.readLaunch cid c (sdProg (s.stream vf k).desc + 128 * next) = (x, s1))
    (hx : ∀ r h, x ≠ .both r h) : s.launchStep vf k cid c next = match x with
      | .badRecord => s1.failStep vf k next 1
      | .unreadable => s1.failStep vf k next 5
      | .park w => s1.modStream vf k fun x => { x with parked := some w }
      | _ => s1 := by
  unfold State.launchStep
  simp only [hu, hk, hread, Bool.false_eq_true, if_false, Option.isSome_none]
  cases x with
  | both r h => exact absurd rfl (hx r h)
  | badRecord => rfl
  | unreadable => rfl
  | wait => rfl
  | park w => rfl

variable {r h : Nat}
  (hread : s.readLaunch cid c (sdProg (s.stream vf k).desc + 128 * next) = (.both r h, s1))
include hread

theorem State.launchStep_of_badKernel (hok : kernelOk c (lrArgs r) h = false) :
    s.launchStep vf k cid c next = s1.failStep vf k next 2 := by
  unfold State.launchStep
  simp only [hu, hk, hread, hok, Bool.false_eq_true, if_false, Option.isSome_none]
  rfl

variable (hok : kernelOk c (lrArgs r) h = true)
include hok

theorem State.launchStep_of_many (hm : 2 ^ 24 < (s.stream vf k).entries.length * lrTeams r) :
    s.launchStep vf k cid c next = s1.failStep vf k next 3 := by
  unfold State.launchStep
  simp only [hu, hk, hread, hok, Bool.false_eq_true, if_false, Option.isSome_none, Bool.not_true, List.length_map]
  rw [if_pos hm]

theorem State.launchStep_of_launch (hm : (s.stream vf k).entries.length * lrTeams r ≤ 2 ^ 24) {status n : Nat} {t : State}
    (hl : s1.launch c (s1.stepLaunch vf k cid next (lrTeams r) (s.stream vf k)) r h = (status, n, t)) :
    s.launchStep vf k cid c next = if status = 0 then t.modStream vf k fun x => { x with phase := .running (next + 1) n, parked := none }
      else if status = 3 then s1 else t.failStep vf k next status := by
  unfold State.launchStep
  simp only [hu, hk, hread, hok, Bool.false_eq_true, if_false, Option.isSome_none, Bool.not_true, List.length_map]
  rw [if_neg (Nat.not_lt.mpr hm)]
  rw [State.stepLaunch] at hl
  simp only [hl]
  by_cases h0 : status = 0
  · subst h0
    rfl
  by_cases h3 : status = 3
  · subst h3
    rfl
  rw [if_neg h0, if_neg h3]
  split
  · next he => exact absurd (Prod.mk.inj he).1 h0
  · next he => exact absurd (Prod.mk.inj he).1 h3
  · next he =>
    obtain ⟨hstatus, he⟩ := Prod.mk.inj he
    obtain ⟨-, rfl⟩ := Prod.mk.inj he
    rw [hstatus]

end

section

variable {s : State} {vf k cid next : Nat} {c : Ctx} (hc : s.streamCtx vf k = some (cid, c))
  (hp : (s.stream vf k).phase = .launching next) (hu : (s.stream vf k).unreadable = false) (hk : (s.stream vf k).parked = none)
include hc hp hu hk

theorem State.stepGridLaunch_of_both {s1 : State} {r h : Nat}
    (hread : s.readLaunch cid c (sdProg (s.stream vf k).desc + 128 * next) = (.both r h, s1)) :
    let m := (s.stream vf k).entries.length
    (kernelOk c (lrArgs r) h = false → exec (.stepGridLaunch vf k) s = .next (s1.failStep vf k next 2)) ∧
    (kernelOk c (lrArgs r) h = true → 2 ^ 24 < m * lrTeams r → exec (.stepGridLaunch vf k) s = .next (s1.failStep vf k next 3)) ∧
    ∀ status n t, kernelOk c (lrArgs r) h = true → m * lrTeams r ≤ 2 ^ 24 →
      s1.launch c (s1.stepLaunch vf k cid next (lrTeams r) (s.stream vf k)) r h = (status, n, t) →
      (status = 0 → exec (.stepGridLaunch vf k) s = .next (t.modStream vf k fun x =>
        { x with phase := .running (next + 1) n, parked := none })) ∧
      (status = 3 → exec (.stepGridLaunch vf k) s = .next s1) ∧
      (status ≠ 0 → status ≠ 3 → exec (.stepGridLaunch vf k) s = .next (t.failStep vf k next status)) := by
  intro m
  have hexec := State.stepGridLaunch_eq hc hp
  refine ⟨fun hok => ?_, fun hok hm => ?_, fun status n t hok hm hl => ?_⟩
  · rw [hexec, State.launchStep_of_badKernel hu hk hread hok]
  · rw [hexec, State.launchStep_of_many hu hk hread hok hm]
  · rw [hexec, State.launchStep_of_launch hu hk hread hok hm hl]
    refine ⟨fun h0 => by rw [if_pos h0], fun h3 => ?_, fun h0 h3 => by rw [if_neg h0, if_neg h3]⟩
    rw [if_neg (by omega), if_pos h3]

theorem State.stepGridLaunch_of_other (s1 : State) :
    let read := s.readLaunch cid c (sdProg (s.stream vf k).desc + 128 * next)
    (read = (.badRecord, s1) → exec (.stepGridLaunch vf k) s = .next (s1.failStep vf k next 1)) ∧
    (read = (.unreadable, s1) → exec (.stepGridLaunch vf k) s = .next (s1.failStep vf k next 5)) ∧
    (read = (.wait, s1) → exec (.stepGridLaunch vf k) s = .next s1) ∧
    ∀ w, read = (.park w, s1) → exec (.stepGridLaunch vf k) s = .next (s1.modStream vf k fun x => { x with parked := some w }) := by
  intro read
  have hexec := State.stepGridLaunch_eq hc hp
  refine ⟨fun hread => ?_, fun hread => ?_, fun hread => ?_, fun w hread => ?_⟩ <;>
    rw [hexec, State.launchStep_of_other hu hk hread (by simp)]

end

/-! #### Crozier's own commit (R53, R55) -/

section

variable {s : State} {vf k : Nat} (hrs : ∀ rid ∈ s.stepReqs vf k, s.resampling rid = false)
  (hb : s.stepReqs vf k = [] ∨ s.blockReady vf = true)
include hrs hb

theorem State.crozierCommit_eq : exec (.crozierCommit vf k) s = .next (match (s.stream vf k).phase with
    | .committing => (s.commitStep vf k).2
    | .running next grid =>
      if (s.grid? grid).isSome || next < sdNprog (s.stream vf k).desc || ((s.ctx? (sdCtx (s.stream vf k).desc)).map (·.cst)) ≠ some 1 then s
      else (s.commitStep vf k).2
    | .failed idx reason =>
      ((((s.stepReqs vf k).foldl (fun s rid => s.setFault rid 0x08 (idx + reason * 256)) s).commitStep vf k).2.modStream vf k fun x =>
        { x with desc := BitVec.ofNat 512 (setBits x.desc.toNat 96 1 0) }).tell (.stepFailed vf k idx reason)
    | _ => s) := by
  change execCrozierCommit vf k s = _
  unfold execCrozierCommit
  extract_lets x rids
  have hany : rids.any s.resampling = false := List.any_eq_false.mpr fun rid h => by simp [hrs rid h]
  have hgo : ¬(rids.any s.resampling || (decide (rids ≠ []) && !s.blockReady vf)) = true := by
    rw [hany]
    rcases hb with h | h
    · simp [rids, h]
    · simp [h]
  exact congrArg Host.Outcome.next (if_neg hgo)

end

/-- Settles O51: each event's own equation, and for the slot table an induction over its slots. -/
theorem requestsAndSteps : Obligations.RequestsAndSteps := by
  unfold Obligations.RequestsAndSteps
  refine ⟨fun s vf value hr => ?_, fun s src rid off bs hr => ?_, fun s vf k cid c hc => ?_, fun s rids toff count => ?_,
    fun s vf k ktpp fuel out => ?_, fun s vf k hrs hb => ?_⟩
  · intro rid k r ok
    obtain ⟨hrid, hk, hhigh⟩ := bits_low value
    refine ⟨fun ⟨h1, h2, h3, h4⟩ => ?_, fun h => ?_⟩
    · have hexec := State.submission_of_ok hr hrid hk (hhigh.mpr h1) h2 h3 h4
      have hreq (x : Vf) : ((s.setReq rid (r.submitted vf k (sdCtx (s.stream vf k).desc) (s.vf vf).subs)).setVf vf x).req rid =
        r.submitted vf k (sdCtx (s.stream vf k).desc) (s.vf vf).subs := State.req_setReq _ _ _
      refine ⟨_, hexec, rfl, ?_, ?_, ?_, ?_, fun i hi => ?_, fun q hq => State.req_setReq_ne _ _ _ _ hq⟩ <;> rw [hreq]
      · rw [Req.n_submitted]
        simp [recState]
      · rw [Req.n_submitted]
        simp
      · rfl
      · rfl
      · exact getLsbD_submitted _ _ _ _ _ hi
    · refine State.submission_of_bad hr hrid hk ?_
      rw [hhigh]
      exact h
  · intro r
    refine ⟨State.recordWindowWrite_of_other, fun h => ?_⟩
    exact State.recordWindowWrite_spec hr h
  · refine ⟨?_, State.stepStart_of_held hc, State.stepStart_of_writing hc, fun next r h s1 hp hu hk hread => ?_,
      fun next s1 hp hu hk => ?_⟩
    · intro x kt s0 s1 wanted hp hen ha hr hb
      have hwanted : s0.stepWanted s1 vf k c = true ↔ wanted := State.stepWanted_iff
      refine ⟨fun h => ?_, fun h => ?_⟩
      · have hno : ¬s0.stepWanted s1 vf k c = true := fun hw => h (hwanted.mp hw)
        exact State.stepStart_of_unwanted hc hp hen ha hr hb rfl rfl (Bool.eq_false_of_not_eq_true hno)
      intro e1 e2 t order a s5
      exact State.stepStart_of_wanted hc hp hen ha hr hb rfl rfl (hwanted.mpr h) (e1 := e1) (e2 := e2) (t := t) (s5 := s5)
        (order := order) (a := a) rfl rfl rfl rfl rfl rfl
    · exact State.stepGridLaunch_of_both hc hp hu hk hread
    · exact State.stepGridLaunch_of_other hc hp hu hk s1
  · have h := s.slotEntries_spec rids toff 0 count
    generalize s.slotEntries rids toff 0 count = out at h ⊢
    obtain ⟨m, l, tokens⟩ := out
    obtain ⟨htokens, hlength, -, howned, hfree⟩ := h
    simp only [Nat.zero_add] at htokens howned hfree
    exact ⟨htokens, hlength, fun i hi => ⟨howned i hi, hfree i hi⟩⟩
  · exact ⟨State.evictAll_of_none, State.evictAll_of_enough, fun rid hv h => by rw [State.evictAll_of_short h, hv]⟩
  · have heq := State.crozierCommit_eq hrs hb
    refine ⟨fun hp => ?_, fun hp => ?_, fun next gid c hp hg hn hc hcst => ?_, fun idx reason hp => ?_⟩ <;> rw [heq, hp]
    dsimp only
    rw [if_neg (by simp [hg, hc, hcst, hn])]

end Sys2Proof.Machine
end

section
namespace Sys2Proof.Machine

set_option Elab.async false

/-! ### STEPCMT, QMOV and SPECV (O44) -/

/-! #### Instructions of R243 outside a lichen pair -/

theorem Env.skipList_of_single {e : Env} (hp : e.g.pair = none) (s : State) (mirror : Env → State → State) (run : Env → State → Res) :
    e.skipList s mirror run = match run e s with
      | .ok s2 => .ok (s2.skipAudit e)
      | r => r := by
  unfold Env.skipList Env.compare
  rw [hp] <;> rfl

theorem State.skipAudit_of_off {s : State} {e : Env} {g : Group} (hg : s.group? e.gid = some g) (ha : g.audit = .off) :
    s.skipAudit e = s := by
  unfold State.skipAudit
  rw [hg]
  dsimp only
  rw [ha]

@[simp] theorem Group.setSlot_audit (g : Group) (i : Bool) (x : Slot) : (g.setSlot i x).audit = g.audit := by cases i <;> rfl

theorem Env.withScalar_audit (e : Env) (g : Group) (d : BitVec 6) (v : BitVec 64) : (e.withScalar g d v).audit = g.audit := by
  unfold Env.withScalar
  generalize emWrite e.lanes e.g.dormant (d.toNat - 61) v = w
  obtain ⟨m, dm⟩ := w
  dsimp only
  split
  · rfl
  · split
    · exact Group.setSlot_audit _ _ _
    · exact Group.setSlot_audit _ _ _

theorem Env.passed_audit (e : Env) : e.passed.audit = e.g.audit := Group.setSlot_audit _ _ _

section

variable {s : State} {e : Env} {d : BitVec 6} (he : s.env? = some e)
include he

/-- A scalar destination written in a state where the issuing group is as it was, and the unit passed. -/
theorem State.putS_passed {t : State} {v : BitVec 64} (ht : t.groups = s.groups) (hd : e.NoPop d v) :
    t.putS e d v = .ok (t.setGroup e.gid (e.withScalar e.passed d v)) := by
  have hg : t.group? e.gid = some e.g := by
    rw [State.group?, ht]
    exact State.env?_group he
  exact State.putS_noPop hg rfl rfl rfl hd

variable (ha : e.g.audit = .off) (hp : e.g.pair = none)
include ha hp

/-- An instruction of R243 that is over with a value in sD. -/
theorem State.issue_skipList_gives {t : State} {v : BitVec 64} (mirror : Env → State → State) (ht : t.groups = s.groups)
    (hd : e.NoPop d v) :
    (e.skipList s mirror fun e s => (t.putS e d v).orUndo s).settle e = t.setGroup e.gid (e.withScalar e.passed d v) := by
  rw [Env.skipList_of_single hp, State.putS_passed he ht hd, Res.orUndo_ok]
  refine State.skipAudit_of_off (State.group?_setGroup _ _ _) ?_
  rw [Env.withScalar_audit, Env.passed_audit, ha]

end

/-! #### QMOV (R58, R377) -/

theorem toNat_extractLsb_state (r : Req) : (r.bits.extractLsb' 48 3).toNat = recState r.n := by
  rw [BitVec.extractLsb'_toNat]
  rfl

/-- What QMOV answers, and the records it leaves: moved, there already, in a state that does not move, or no record of the context. -/
def Env.moved (e : Env) (s : State) (rid t : Nat) : Nat × State :=
  let r := s.req rid
  if 65536 ≤ rid || r.ctx ≠ some e.cid then (3, s)
  else if recState r.n = t then (1, s)
  else if recState r.n = 0 || 4 ≤ recState r.n then (2, s)
  else (0, s.setReq rid (r.put 48 3 t))

theorem Env.moved_groups (e : Env) (s : State) (rid t : Nat) : (e.moved s rid t).2.groups = s.groups := by
  unfold Env.moved
  extract_lets r
  repeat' split
  all_goals rfl

theorem State.qmov_eq {s : State} {e : Env} {d : BitVec 6} (he : s.env? = some e) (ha : e.g.audit = .off) (hp : e.g.pair = none)
    (a : BitVec 6) (check : Bool) {n : Nat} {t : State} (hm : e.moved s (e.s a).toNat (if check then 3 else 2) = (n, t))
    (hd : e.NoPop d (BitVec.ofNat 64 n)) :
    exec (.qmov d a check) s = .next (t.setGroup e.gid (e.withScalar e.passed d (BitVec.ofNat 64 n))) := by
  have ht : t.groups = s.groups := by
    rw [← e.moved_groups s (e.s a).toNat (if check then 3 else 2), hm]
  change execQmov d a check s = _
  unfold execQmov
  rw [State.issue_of he, ← State.issue_skipList_gives he ha hp (mirrorS d e.gid) ht hd, Env.skipList_of_single hp, Env.skipList_of_single hp]
  dsimp only
  have hm' := hm
  unfold Env.moved at hm'
  dsimp only at hm'
  rw [hm']

/-! #### SPECV (R223, R401) -/

/-- What SPECV answers, and the records it leaves: recorded, too long, no check step, or a verdict was there. -/
def Env.verdict (e : Env) (s : State) (a b : BitVec 64) : Nat × State :=
  let entry := ((Map.get? e.gr.table (e.place s).1.toNat).getD 0).toNat
  let rid := (e.place s).2.1.toNat
  let r := s.req rid
  if bits entry 63 62 ≠ 2 then (2, s)
  else if r.verdict then (3, s)
  else if recDlen r.n < a.toNat then (1, s)
  else (0, s.setReq rid { ((r.put 1024 32 a.toNat).put 1056 32 (b.toNat % 2 ^ 32)).put 96 32 (bits entry 95 64 + a.toNat + 1) with
    verdict := true })

theorem Env.verdict_groups (e : Env) (s : State) (a b : BitVec 64) : (e.verdict s a b).2.groups = s.groups := by
  unfold Env.verdict
  extract_lets entry rid r
  repeat' split
  all_goals rfl

section

variable {s : State} {e : Env} {d a b : BitVec 6} {x : XArgs} (he : s.env? = some e) (hx : x.dst = .scal d)
include he hx

theorem State.specv_of_outside (h : e.inStep = false) : exec (.specv x) s = .next (s.takeTrap e .access 0 e.lanes) := by
  change execSpecv x s = _
  unfold execSpecv
  rw [State.issue_of he]
  simp only [hx, h]
  rfl

theorem State.specv_eq (ha : e.g.audit = .off) (hp : e.g.pair = none) (hxa : x.a = .scal a) (hxb : x.b = .scal b) (h : e.inStep = true)
    {n : Nat} {t : State} (hm : e.verdict s (e.s a) (e.s b) = (n, t)) (hd : e.NoPop d (BitVec.ofNat 64 n)) :
    exec (.specv x) s = .next (t.setGroup e.gid (e.withScalar e.passed d (BitVec.ofNat 64 n))) := by
  have ht : t.groups = s.groups := by
    rw [← e.verdict_groups s (e.s a) (e.s b), hm]
  change execSpecv x s = _
  unfold execSpecv
  rw [State.issue_of he, ← State.issue_skipList_gives he ha hp (mirrorS d e.gid) ht hd]
  simp only [hx, h, hxa, hxb, Env.scalarOf]
  rw [if_neg (by decide), Env.skipList_of_single hp, Env.skipList_of_single hp]
  have hm' := hm
  unfold Env.verdict at hm'
  dsimp only at hm'
  rw [hm']

end

/-! #### What a commit leaves of groups -/

theorem foldl_groups {α : Type} {f : State → α → State} (hf : ∀ s x, (f s x).groups = s.groups) (l : List α) (s : State) :
    (l.foldl f s).groups = s.groups :=
  List.foldlRecOn (motive := fun u : State => u.groups = s.groups) _ _ rfl fun u hu x _ => (hf u x).trans hu

namespace State

theorem charge_groups (s : State) (vf cls n : Nat) : (s.charge vf cls n).groups = s.groups := (s.charge_only vf cls n).1

theorem blockNum_groups (s : State) (vf pa n : Nat) : (s.blockNum vf pa n).2.groups = s.groups :=
  ((Stored.refl _).settleBytes _ _ _ _).groups.trans ((charge_groups _ _ _ _).trans (charge_groups _ _ _ _))

theorem blockWrite_groups (s : State) (vf pa n x : Nat) : (s.blockWrite vf pa n x).groups = s.groups :=
  ((Stored.refl _).modWriteNum _ _ _).groups.trans (charge_groups _ _ _ _)

theorem setFault_groups (s : State) (rid code detail : Nat) : (s.setFault rid code detail).groups = s.groups := by
  obtain ⟨rs, h⟩ := s.setFault_eq rid code detail
  rw [h]

theorem releaseEntry_groups (s : State) (vf : Nat) (e : BitVec 64) : (s.releaseEntry vf e).groups = s.groups := by
  unfold releaseEntry
  extract_lets f x
  repeat' split
  all_goals rfl

end State

/-- A group without its translation registers. -/
def Group.bare (g : Group) : Group := { g with regs := { g.regs with g := [] } }

theorem Group.of_bare {g g' : Group} (h : g.bare = g'.bare) :
    g.dormant = g'.dormant ∧ g.depth = g'.depth ∧ ∀ i, g.slot i = g'.slot i := by
  have hdormant := congrArg Group.dormant h
  have hdepth := congrArg Group.depth h
  have hslot (i : Bool) := congrArg (fun x : Group => x.slot i) h
  exact ⟨hdormant, hdepth, hslot⟩

/-- A state after another where, of groups, only their translation registers may have changed. -/
def State.GroupsBare (s t : State) : Prop := ∀ gid, (t.group? gid).map Group.bare = (s.group? gid).map Group.bare

namespace State.GroupsBare

variable {s t u : State}

theorem refl (s : State) : s.GroupsBare s := fun _ => rfl

theorem trans (h : s.GroupsBare t) (h' : t.GroupsBare u) : s.GroupsBare u := fun gid => (h' gid).trans (h gid)

theorem of_eq (h : s.GroupsBare t) (he : u.groups = t.groups) : s.GroupsBare u := h.trans fun gid => by
  rw [State.group?, he]
  rfl

theorem foldl {α : Type} {f : State → α → State} (h : s.GroupsBare t) (hf : ∀ u x, s.GroupsBare u → s.GroupsBare (f u x)) (l : List α) :
    s.GroupsBare (l.foldl f t) :=
  List.foldlRecOn (motive := fun u => s.GroupsBare u) _ _ h fun u hu x _ => hf u x hu

theorem tlbDrop (h : s.GroupsBare t) (asid lo hi : Nat) : s.GroupsBare (t.tlbDrop asid lo hi) := by
  refine h.trans fun gid => ?_
  unfold State.tlbDrop
  extract_lets keep covers grp
  have hgrp (g : Group) : (grp g).bare = g.bare := by
    unfold grp
    extract_lets mine
    split <;> rfl
  rw [State.group?, Map.get?_map (f := fun p : Nat × Group => (p.1, grp p.2)) (fun _ => rfl), Option.map_map]
  exact congrArg (fun f => (t.group? gid).map f) (funext hgrp)

theorem group_of (h : s.GroupsBare t) {gid : Nat} {g : Group} (hg : s.group? gid = some g) :
    ∃ g', t.group? gid = some g' ∧ g'.bare = g.bare := by
  have hmap := h gid
  rw [hg] at hmap
  exact Option.map_eq_some_iff.mp hmap

variable (h : s.GroupsBare t)
include h

theorem charge (vf cls n : Nat) : s.GroupsBare (t.charge vf cls n) := h.of_eq (t.charge_groups vf cls n)

theorem releaseKv (rid cid va : Nat) : s.GroupsBare (t.releaseKv rid cid va) := by
  unfold State.releaseKv
  split
  · exact h
  · extract_lets s0
    have h0 : s.GroupsBare s0 := h.charge _ _ _
    split
    · exact (of_eq (h0.tlbDrop _ _ _) ((Stored.refl _).modWriteNum _ _ _).groups).of_eq (releaseEntry_groups _ _ _)
    · exact h0.of_eq rfl
    · exact h0

theorem releaseKvFrom (rid cid first : Nat) : s.GroupsBare (t.releaseKvFrom rid cid first) := by
  unfold State.releaseKvFrom
  extract_lets x s1
  have h1 : s.GroupsBare s1 := h.foldl (fun _ _ h => h.foldl (fun _ _ h => h.releaseKv _ _ _) _) _
  split
  · exact h1
  · refine charge ?_ _ _ _
    exact h1.of_eq rfl

theorem retireReq (rid c : Nat) : s.GroupsBare (t.retireReq rid c) := by
  unfold State.retireReq
  extract_lets r r1 s1
  have h1 : s.GroupsBare s1 := h.of_eq rfl
  split
  · exact h1
  · exact (h1.releaseKvFrom _ _ _).of_eq rfl

theorem abandonRound (rid : Nat) : s.GroupsBare (t.abandonRound rid) := by
  unfold State.abandonRound
  extract_lets r
  split
  · exact h.of_eq (setFault_groups _ _ _ _)
  · next hp _ =>
    have h1 : s.GroupsBare (t.blockNum r.vf hp 64).2 := h.of_eq (blockNum_groups _ _ _ _)
    generalize t.blockNum r.vf hp 64 = p at h1
    obtain ⟨hd, s1⟩ := p
    dsimp only at h1 ⊢
    split
    · exact h1
    · refine (foldl (h1.of_eq (blockWrite_groups _ _ _ _ _)) (fun u i hu => ?_) _).of_eq rfl
      split
      · exact hu.of_eq (setFault_groups _ _ _ _)
      · exact (hu.of_eq (blockNum_groups _ _ _ _)).of_eq (blockWrite_groups _ _ _ _ _)

theorem commitReq (rid : Nat) : s.GroupsBare (t.commitReq rid).2 := by
  unfold State.commitReq
  extract_lets r clen r1 s1
  have h1 : s.GroupsBare s1 := h.of_eq rfl
  split
  · exact h1.retireReq _ _
  · split
    · refine retireReq ?_ _ _
      exact h1.of_eq rfl
    · split
      · exact h1.retireReq _ _
      · exact h1

theorem settleReq (vf rid stepNo : Nat) (y : Tally) : s.GroupsBare (t.settleReq vf rid stepNo y).2 := by
  unfold State.settleReq
  extract_lets r
  split
  · exact (h.of_eq (setFault_groups _ _ _ _)).retireReq _ _
  · split
    · exact h.of_eq rfl
    · exact h.commitReq _

omit h in
theorem settleReqs (h : s.GroupsBare t) (vf stepNo : Nat) (y : Tally) (rids : List Nat) :
    s.GroupsBare (t.settleReqs vf stepNo y rids).2 := by
  induction rids generalizing t y with
  | nil => exact h
  | cons rid rids ih => exact ih (h.settleReq _ _ _ _) _

theorem commitStep (vf k : Nat) : s.GroupsBare (t.commitStep vf k).2 := by
  unfold State.commitStep
  extract_lets rids s1
  exact (settleReqs (h.foldl (fun _ _ h => h.abandonRound _) _) _ _ _ _).of_eq rfl

end State.GroupsBare

namespace State

theorem modGrid_groups (s : State) (i : Nat) (f : Grid → Grid) : (s.modGrid i f).groups = s.groups := by
  unfold modGrid
  split <;> rfl

theorem tellRacers_groups (s : State) (gid : Nat) (retired : Bool) : (s.tellRacers gid retired).groups = s.groups := by
  unfold tellRacers
  repeat' split
  · rfl
  · rfl
  · rfl
  · exact foldl_groups (fun s n => s.sendFor_groups _ _ _) _ _

end State

/-! #### STEPCMT (R55, R402) -/

/-- A commit's answer: requests committed, retired and held, in 32, 16 and 16 bits. -/
def Tally.word (t : Tally) : BitVec 64 := BitVec.ofNat 16 t.held ++ BitVec.ofNat 16 t.retired ++ BitVec.ofNat 32 t.committed

theorem Tally.ofNat_word (t : Tally) :
    BitVec.ofNat 64 (t.committed % 2 ^ 32 + t.retired % 65536 * 2 ^ 32 + t.held % 65536 * 2 ^ 48) = t.word := by
  apply BitVec.eq_of_toNat_eq
  have h1 : t.committed % 2 ^ 32 < 2 ^ 32 := Nat.mod_lt _ (by decide)
  have h2 : t.retired % 2 ^ 16 < 2 ^ 16 := Nat.mod_lt _ (by decide)
  have h3 : t.held % 2 ^ 16 < 2 ^ 16 := Nat.mod_lt _ (by decide)
  rw [Tally.word, BitVec.toNat_append, BitVec.toNat_append, ← Nat.shiftLeft_add_eq_or_of_lt (BitVec.isLt _),
    ← Nat.shiftLeft_add_eq_or_of_lt (BitVec.isLt _), BitVec.toNat_ofNat, BitVec.toNat_ofNat, BitVec.toNat_ofNat, BitVec.toNat_ofNat,
    Nat.shiftLeft_eq, Nat.shiftLeft_eq]
  omega

/-- The state that a commit by STEPCMT begins with: what ended groups of the grid had stored is performed, and the instruction is a
release at device scope. -/
def Env.commitBase (e : Env) (s : State) : State :=
  ((s.performAt .device fun p => p.sp.isNone && p.grid = e.t.grid).modGroup e.gid fun g => { g with relScope := .device }).tellRacers
    e.gid false

/-- STEPCMT of the group that may execute it: what it waits for, in its order, else the commit. -/
def Env.commits (e : Env) (vf k : Nat) (d : BitVec 6) (s : State) : Res :=
  if !e.aloneInGrid s then .wait .others s
  else if (s.stepReqs vf k).any s.resampling then .wait .resample s
  else if !s.settledAt e.gid .device then .wait (s.behind e.gid) s
  else if s.gridSends e.t.grid then .wait .fabric s
  else if s.stepReqs vf k ≠ [] && !s.blockReady vf then .wait (s.blockWait vf) s
  else
    let r := (e.commitBase s).commitStep vf k
    ((r.2.modGrid e.t.grid fun g => { g with committed := true }).putS e d
      (BitVec.ofNat 64 (r.1.committed % 2 ^ 32 + r.1.retired % 65536 * 2 ^ 32 + r.1.held % 65536 * 2 ^ 48))).orUndo s

section

variable {s : State} {e : Env} {d : BitVec 6} (he : s.env? = some e)
include he

theorem State.stepcmt_of_trap (h : e.gr.step = none ∨ e.gr.commit = false ∨ e.t.no ≠ 0 ∨ e.g.no ≠ 0 ∨ e.gr.committed = true) :
    exec (.stepcmt d) s = .next (s.takeTrap e .illop 0 e.lanes) := by
  change execStepcmt d s = _
  unfold execStepcmt
  rw [State.issue_of he]
  split
  · rfl
  · next hs =>
    rw [if_pos]
    · rfl
    · rcases h with h | h | h | h | h
      · rw [h] at hs
        cases hs
      all_goals simp [h]

variable (hp : e.g.pair = none) {vf k m : Nat} (hs : e.gr.step = some (vf, k, m)) (hc : e.gr.commit = true) (ht : e.t.no = 0) (hg : e.g.no = 0)
  (hcd : e.gr.committed = false)
include hp hs hc ht hg hcd

theorem State.stepcmt_eq : exec (.stepcmt d) s = .next (Res.settle e (match e.commits vf k d s with
    | .ok s2 => .ok (s2.skipAudit e)
    | r => r)) := by
  change execStepcmt d s = _
  unfold execStepcmt
  rw [State.issue_of he, hs]
  dsimp only
  rw [if_neg (by simp [hc, ht, hg, hcd]), Env.skipList_of_single hp]
  rfl

theorem State.stepcmt_of_wait {w : Wait} (h : e.commits vf k d s = .wait w s) :
    exec (.stepcmt d) s = .next (s.setGroup e.gid (e.waiting w)) := by
  rw [State.stepcmt_eq he hp hs hc ht hg hcd, h]
  dsimp only
  rw [Res.settle_wait, State.updSlot_of (State.env?_group he)]
  rfl

end

theorem Env.commitBase_group {e : Env} {s : State} (h : s.group? e.gid = some e.g) :
    (e.commitBase s).group? e.gid = some { e.g with relScope := .device } := by
  unfold Env.commitBase
  rw [State.group?, State.tellRacers_groups, ← State.group?, State.modGroup_of _ _ _ e.g, State.group?_setGroup]
  rw [State.group?, ((State.Stored.refl s).performAt _ _).groups]
  exact h

/-- A commit writes sD in the group as it is then, and the unit passes. -/
theorem Env.commit_gives {e : Env} {s : State} {d : BitVec 6} (h : s.group? e.gid = some e.g) (vf k : Nat) {v : BitVec 64}
    (hd : e.NoPop d v) :
    (((e.commitBase s).commitStep vf k).2.modGrid e.t.grid fun g => { g with committed := true }).putS e d v =
      .ok ((((e.commitBase s).commitStep vf k).2.modGrid e.t.grid fun g => { g with committed := true }).gives e d v) := by
  have hkept := ((State.GroupsBare.refl (e.commitBase s)).commitStep vf k).of_eq
    (State.modGrid_groups _ e.t.grid fun g => { g with committed := true })
  obtain ⟨g, hg, hbare⟩ := hkept.group_of (Env.commitBase_group h)
  obtain ⟨hdormant, hdepth, hslot⟩ := Group.of_bare hbare
  rw [State.putS_noPop hg hdormant (congrArg Slot.live (hslot _)) hdepth hd, State.gives, State.modGroup_of _ _ _ _ hg]

/-- Settles O44: QMOV and SPECV by what they make of the records; STEPCMT by what it waits for, in its order, and a commit leaves of
groups all but their translation registers. -/
theorem stepCommands : Obligations.StepCommands := by
  unfold Obligations.StepCommands
  intro s e d he ha hp answers
  refine ⟨State.stepcmt_of_trap he, fun vf k m hs hc ht hg hcd => ?_, fun a check => ?_, fun x a b hx hxa hxb => ?_⟩
  · intro waits resampling admitted
    have hwait {w : Wait} : e.commits vf k d s = .wait w s → waits w := State.stepcmt_of_wait he hp hs hc ht hg hcd
    have hres : (s.stepReqs vf k).any s.resampling = true ↔ resampling := by simp [resampling, State.resampling]
    have hadm : ((decide (s.stepReqs vf k ≠ []) && !s.blockReady vf) = true) ↔ ¬admitted := by simp [admitted]
    refine ⟨fun h1 => hwait ?_, fun h1 h2 => hwait ?_, fun h1 h2 h3 => hwait ?_, fun h1 h2 h3 =>
      ⟨fun h4 => hwait ?_, fun h4 h5 => hwait ?_, fun h4 h5 => ?_⟩⟩
    · rw [Env.commits, if_pos (by simp [h1])]
    · rw [Env.commits, if_neg (by simp [h1]), if_pos (hres.mpr h2)]
    · rw [Env.commits, if_neg (by simp [h1]), if_neg (hres.not.mpr h2), if_pos (by simp [h3])]
    · rw [Env.commits, if_neg (by simp [h1]), if_neg (hres.not.mpr h2), if_neg (by simp [h3]), if_pos h4]
    · rw [Env.commits, if_neg (by simp [h1]), if_neg (hres.not.mpr h2), if_neg (by simp [h3]), if_neg (by simp [h4]), if_pos (hadm.mpr h5)]
    · intro s0 s1 r v hd
      rw [State.stepcmt_eq he hp hs hc ht hg hcd, Env.commits, if_neg (by simp [h1]), if_neg (hres.not.mpr h2), if_neg (by simp [h3]),
        if_neg (by simp [h4]), if_neg (hadm.not.mpr (not_not.mpr h5))]
      dsimp only
      rw [Tally.ofNat_word]
      have hgives := Env.commit_gives (State.env?_group he) vf k (v := ((e.commitBase s).commitStep vf k).1.word) hd
      rw [hgives]
      rfl
  · intro rid r st t mine
    have hst : st = recState r.n := toNat_extractLsb_state r
    have hmine : (decide (65536 ≤ rid) || decide (r.ctx ≠ some e.cid)) = true ↔ ¬mine := by
      rw [Bool.or_eq_true, decide_eq_true_eq, decide_eq_true_eq, ← Nat.not_lt, ← not_and_or]
    have hmoved (n : Nat) (u : State) (h : e.moved s rid t = (n, u)) : answers (.qmov d a check) u (BitVec.ofNat 64 n) :=
      State.qmov_eq he ha hp a check h
    refine ⟨fun h => hmoved 3 s ?_, fun h h1 => hmoved 1 s ?_, fun h h1 => hmoved 2 s ?_, fun h h1 h2 h3 => hmoved 0 _ ?_⟩
    · rw [Env.moved, if_pos (hmine.mpr h)]
    · rw [Env.moved, if_neg (hmine.not.mpr (not_not.mpr h)), if_pos (hst ▸ h1)]
    · have ht : recState r.n ≠ t := by
        have : t = 3 ∨ t = 2 := by cases check <;> simp [t]
        omega
      have h1 : (decide (recState r.n = 0) || decide (4 ≤ recState r.n)) = true := by
        rw [Bool.or_eq_true, decide_eq_true_eq, decide_eq_true_eq]
        omega
      rw [Env.moved, if_neg (hmine.not.mpr (not_not.mpr h)), if_neg ht, if_pos h1]
    · have h4 : ¬(decide (recState r.n = 0) || decide (4 ≤ recState r.n)) = true := by
        rw [Bool.or_eq_true, decide_eq_true_eq, decide_eq_true_eq]
        omega
      rw [Env.moved, if_neg (hmine.not.mpr (not_not.mpr h)), if_neg (hst ▸ h1), if_neg h4]
      rfl
  · refine ⟨State.specv_of_outside he hx, fun h => ?_⟩
    intro entry rid r check
    have hcheck : bits entry.toNat 63 62 = 2 ↔ check := by
      change _ ↔ entry.extractLsb' 62 2 = 2
      rw [← BitVec.toNat_inj, BitVec.extractLsb'_toNat]
      rfl
    have hspecv (n : Nat) (u : State) (hm : e.verdict s (e.s a) (e.s b) = (n, u)) : answers (.specv x) u (BitVec.ofNat 64 n) :=
      State.specv_eq he hx ha hp hxa hxb h hm
    refine ⟨fun h1 => hspecv 2 s ?_, fun h1 h2 => hspecv 3 s ?_, fun h1 h2 h3 => hspecv 1 s ?_, fun h1 h2 h3 => hspecv 0 _ ?_⟩
    · rw [Env.verdict, if_pos (hcheck.not.mpr h1)]
    · rw [Env.verdict, if_neg (not_not.mpr (hcheck.mpr h1)), if_pos h2]
    · rw [Env.verdict, if_neg (not_not.mpr (hcheck.mpr h1)), if_neg (Bool.not_eq_true _ |>.mpr h2), if_pos h3]
    · rw [Env.verdict, if_neg (not_not.mpr (hcheck.mpr h1)), if_neg (Bool.not_eq_true _ |>.mpr h2), if_neg (Nat.not_lt.mpr h3)]
      rw [BitVec.extractLsb'_toNat]
      rfl

end Sys2Proof.Machine
end

section
namespace Sys2Proof.Machine

set_option Elab.async false

/-! ### Operations on a population (O43) -/

/-! #### Lanes, bytes and words -/

theorem LaneMask.mem_toList {m : LaneMask} {l : Nat} : l ∈ LaneMask.toList m ↔ m.getLsbD l = true := by
  rw [LaneMask.toList, List.mem_filter, List.mem_range]
  exact and_iff_right_of_imp BitVec.lt_of_getLsbD

theorem LaneMask.toList_eq_nil {m : LaneMask} : LaneMask.toList m = [] ↔ m = 0 := by
  rw [List.eq_nil_iff_forall_not_mem]
  refine ⟨fun h => BitVec.eq_of_getLsbD_eq fun l _ => ?_, fun h l hl => ?_⟩
  · rw [Bool.eq_false_iff.mpr fun hl => h l (LaneMask.mem_toList.mpr hl)]
    exact BitVec.getLsbD_zero.symm
  · rw [h, LaneMask.mem_toList] at hl
    exact Bool.false_ne_true (BitVec.getLsbD_zero.symm.trans hl)

/-- The low bytes of a number are those of its remainder. -/
theorem leBytes_mod (n x k : Nat) : leBytes n (x % 256 ^ (n + k)) = leBytes n x := by
  induction n generalizing x with
  | zero => rfl
  | succ n ih =>
    have hpow : 256 ^ (n + 1 + k) = 256 * 256 ^ (n + k) := by rw [Nat.add_right_comm, Nat.pow_succ, Nat.mul_comm]
    rw [leBytes, leBytes, hpow, Nat.mod_mul_right_div_self, ih]
    congr 1
    apply BitVec.eq_of_toNat_eq
    rw [BitVec.toNat_ofNat, BitVec.toNat_ofNat]
    exact Nat.mod_mod_of_dvd _ (Dvd.intro _ rfl)

theorem leBytes_word (x : Nat) : leBytes 4 (BitVec.ofNat 32 x).toNat = leBytes 4 x := leBytes_mod 4 x 0

theorem extractLsb'_ofNat_words {n j : Nat} (hj : j < n) (v : Nat) :
    (BitVec.ofNat (32 * n) v).extractLsb' (32 * j) 32 = BitVec.ofNat 32 (v / 2 ^ (32 * j)) := by
  apply BitVec.eq_of_getLsbD_eq
  intro i hi
  rw [BitVec.getLsbD_extractLsb', BitVec.getLsbD_ofNat, BitVec.getLsbD_ofNat, Nat.testBit_div_two_pow]
  have : i + 32 * j < 32 * n := by omega
  simp [hi, this, Nat.add_comm (32 * j)]

theorem Regs.setVecs_congr {m : LaneMask} {f : Nat → Lanes} {g : Nat → Lanes} (js : List Nat) (r : Regs) (d : Nat)
    (h : ∀ j ∈ js, ∀ l, l < 96 → m.getLsbD l = true → lane (f j) l = lane (g j) l) :
    r.setVecs d m (js.map f) = r.setVecs d m (js.map g) := by
  induction js generalizing r d with
  | nil => rfl
  | cons j js ih =>
    rw [List.map_cons, List.map_cons, Regs.setVecs, Regs.setVecs, Regs.setVec_congr _ _ (h j List.mem_cons_self)]
    exact ih _ _ fun i hi => h i (List.mem_cons_of_mem _ hi)

/-! #### The issuing group -/

theorem Env.holds_of_single {e : Env} (hp : e.g.pair = none) : e.holds = false := by rw [Env.holds, hp]; rfl

theorem Env.replaying_of_off {e : Env} (ha : e.g.audit = .off) : e.replaying = false := by rw [Env.replaying, ha]

theorem State.logged_of_off {s : State} {e : Env} {g : Group} (hg : s.group? e.gid = some g) (ha : g.audit = .off) (size : Nat)
    (vals : List Nat) : s.logged e size vals = s := by
  unfold State.logged State.loggedEntry
  rw [hg]
  dsimp only
  rw [ha]

theorem Env.memUsing_fresh {e : Env} {u : Use} (hf : e.Fresh) (hr : e.Ready u) (hq : e.Quiet (e.deadFlag u)) (s : State) (k : State → Res) :
    e.memUsing s u k = k (s.setFlags e (e.deadFlag u)) := by
  obtain ⟨hunf, hsent, -⟩ := hf
  rw [Env.memUsing, hunf, hsent, if_neg (by decide), Env.using_ready hr, Env.flagged_quiet hq]

section

variable {s : State} {e : Env} (he : s.env? = some e)
include he

theorem State.setFlags_reqs (fl : Flags) : (s.setFlags e fl).reqs = s.reqs := by
  rw [State.setFlags_of (State.env?_group he)]
  rfl

theorem State.setFlags_node (fl : Flags) : (s.setFlags e fl).node = s.node := by
  rw [State.setFlags_of (State.env?_group he)]
  rfl

theorem State.setFlags_vfs (fl : Flags) : (s.setFlags e fl).vfs = s.vfs := by
  rw [State.setFlags_of (State.env?_group he)]
  rfl

/-- Registers delivered after flags: marks, destination, last-result file and PC. -/
theorem Env.deliver_vec (u : Use) (d : BitVec 8) (m : LaneMask) (rs : List Lanes) :
    e.deliver (s.setFlags e (e.deadFlag u)) (.vec d) u.marks m (.vec rs) = .ok (s.setGroup e.gid
      { (e.passed.modSlot e.slot fun y => y.wrote d.toNat rs.length) with
        regs := (e.readRegs u (e.deadFlag u)).setVecs d.toNat m rs }) := by
  unfold Env.deliver
  rw [State.setFlags_of (State.env?_group he)]
  dsimp only
  rw [State.updRegs_of (State.group?_setGroup s e.gid _)]
  unfold State.putVec
  rw [State.setGroup_setGroup, State.advance_of (State.group?_setGroup s e.gid _)]
  rw [State.setGroup_setGroup, State.updRegs_of (State.group?_setGroup s e.gid _)]
  rw [State.setGroup_setGroup, State.updSlot_of (State.group?_setGroup s e.gid _), State.setGroup_setGroup]
  congr 2
  rcases e with ⟨gid, slot, pc, len, pfx, nx, g, t, gr, c⟩
  cases slot <;> rfl

/-- A scalar delivered after flags. -/
theorem Env.deliver_scal (u : Use) {d : BitVec 6} {v : BitVec 64} (hd : e.NoPop d v) :
    e.deliver (s.setFlags e (e.deadFlag u)) (.scal d) u.marks 0 (.scal v) = .ok (s.setGroup e.gid
      (e.withScalar { e.passed with regs := e.readRegs u (e.deadFlag u) } d v)) := by
  unfold Env.deliver
  rw [State.setFlags_of (State.env?_group he)]
  dsimp only
  rw [State.updRegs_of (State.group?_setGroup s e.gid _), State.setGroup_setGroup]
  rw [State.putS_noPop (State.group?_setGroup s e.gid _) ?_ ?_ ?_ hd, Res.orUndo_ok, State.setGroup_setGroup]
  · congr 3
    rcases e with ⟨gid, slot, pc, len, pfx, nx, g, t, gr, c⟩
    cases slot <;> rfl
  · rfl
  · rcases e with ⟨gid, slot, pc, len, pfx, nx, g, t, gr, c⟩
    cases slot <;> rfl
  · rfl

end

/-! #### The tests of R226, and the operations at their home -/

theorem State.popOk_congr {s t : State} (h : t.reqs = s.reqs) (cid rid : Nat) : t.popOk cid rid = s.popOk cid rid := by
  rw [State.popOk, State.popOk, State.req_congr h]

theorem State.popSize_congr {s t : State} (h : t.reqs = s.reqs) (rid : Nat) : t.popSize rid = s.popSize rid := by
  rw [State.popSize, State.popSize, State.req_congr h]

theorem State.blockReady_congr {s t : State} (h : t.vfs = s.vfs) (vf : Nat) : t.blockReady vf = s.blockReady vf := by
  unfold State.blockReady State.admits State.vf
  rw [h]

theorem State.blockWait_congr {s t : State} (h : t.vfs = s.vfs) (vf : Nat) : t.blockWait vf = s.blockWait vf := by
  unfold State.blockWait State.admits State.vf
  rw [h]

section

variable {e : Env} {s : State} {rid : Nat} {uniform : Bool} {ps : List (Nat × Nat)}

theorem Env.popTests_of_bad (h : s.popOk e.cid rid = false) (k : State → Res) : e.popTests s rid uniform ps k = e.trap .access s := by
  rw [Env.popTests, h]
  exact if_pos rfl

theorem Env.popTests_of_good (h : s.popOk e.cid rid = true) (hps : ∀ p ∈ ps, p.2 < s.popSize rid) (k : State → Res) :
    e.popTests s rid uniform ps k = k s := by
  have hnone : (ps.filter fun p => s.popSize rid ≤ p.2) = [] :=
    List.filter_eq_nil_iff.mpr fun p hp h => absurd (of_decide_eq_true h) (Nat.not_le.mpr (hps p hp))
  rw [Env.popTests, h, if_neg (by decide), hnone]

theorem particles_lt {m : LaneMask} {f : Nat → Nat} {n : Nat} (h : ∀ l, m.getLsbD l = true → f l < n) (h0 : uniform = true → f 0 < n) :
    ∀ p ∈ particles uniform m f, p.2 < n := by
  intro p hp
  unfold particles at hp
  split at hp
  · next hu =>
    rw [List.mem_singleton.mp hp]
    exact h0 hu
  · obtain ⟨l, hl, rfl⟩ := List.mem_map.mp hp
    exact h l (LaneMask.mem_toList.mp hl)

/-- The population is this module's: the tests, then the operations. -/
theorem Env.population_here (hf : e.g.regs.popid.extractLsb' 26 6 = 0) (hn : e.popNode = s.node) (ops : List PopOp)
    (k : List (Nat × Nat) → State → Res) :
    e.population s uniform ps ops k = e.popTests s e.popRid uniform ps fun s => e.popHere s e.popRid uniform ops k := by
  have hzero : bits e.g.regs.popid.toNat 31 26 = 0 := by
    have h := congrArg BitVec.toNat hf
    rw [BitVec.extractLsb'_toNat] at h
    exact h
  rw [Env.population, hzero, if_neg (by decide), if_pos hn]

/-- The operations of lanes in their order: what they give, and the state after. -/
def State.popAll (s : State) (rid : Nat) (ops : List PopOp) : List (Nat × Nat) × State :=
  ops.foldl (fun (acc : List (Nat × Nat) × State) o => match acc.2.popDo rid o.kind with
    | (.done v, s1) => (acc.1 ++ [(o.lane, v)], s1)
    | (_, s1) => (acc.1, s1)) ([], s)

theorem Env.popHere_of_unready {ops : List PopOp} (h : s.blockReady (s.req rid).vf = false) (hops : ops ≠ [])
    (k : List (Nat × Nat) → State → Res) :
    e.popHere s rid uniform ops k = .wait (s.blockWait (s.req rid).vf) s := by
  rw [Env.popHere, h]
  exact if_pos (by simp [hops])

/-- Operations that none waits of and none fails are performed. -/
theorem Env.popHere_of_done {ops : List PopOp} (h : s.blockReady (s.req rid).vf = true)
    (hops : ∀ o ∈ ops, ∃ v, (s.popDo rid o.kind).1 = .done v) (k : List (Nat × Nat) → State → Res) :
    e.popHere s rid uniform ops k = k (s.popAll rid ops).1 (s.popAll rid ops).2 := by
  unfold Env.popHere
  have hwait : ((ops.map fun o => (o.lane, (s.popDo rid o.kind).1)).any fun p => p.2 = .wait) = false := by
    rw [List.any_eq_false]
    intro p hp
    obtain ⟨o, ho, rfl⟩ := List.mem_map.mp hp
    obtain ⟨v, hv⟩ := hops o ho
    simp [hv]
  have hbad : ((ops.map fun o => (o.lane, (s.popDo rid o.kind).1)).filter fun p => p.2 = .access) = [] := by
    rw [List.filter_eq_nil_iff]
    intro p hp
    obtain ⟨o, ho, rfl⟩ := List.mem_map.mp hp
    obtain ⟨v, hv⟩ := hops o ho
    simp [hv]
  dsimp only
  rw [h, if_neg (by simp), hwait, if_neg (by decide), hbad]
  rfl

end

/-- Operations change the state one after the other. -/
theorem State.popAll_state (s : State) (rid : Nat) (ops : List PopOp) :
    (s.popAll rid ops).2 = ops.foldl (fun t o => (t.popDo rid o.kind).2) s := by
  unfold State.popAll
  suffices h : ∀ acc : List (Nat × Nat) × State, (ops.foldl (fun (acc : List (Nat × Nat) × State) o => match acc.2.popDo rid o.kind with
      | (.done v, s1) => (acc.1 ++ [(o.lane, v)], s1)
      | (_, s1) => (acc.1, s1)) acc).2 = ops.foldl (fun t o => (t.popDo rid o.kind).2) acc.2 from h ([], s)
  induction ops with
  | nil => exact fun _ => rfl
  | cons o ops ih =>
    intro acc
    rw [List.foldl_cons, List.foldl_cons, ih]
    congr 1
    generalize acc.2.popDo rid o.kind = p
    obtain ⟨r, t⟩ := p
    cases r <;> rfl

/-- Reads that leave the state as it is. -/
theorem State.popAll_reads {s : State} {rid : Nat} {ops : List PopOp} {v : Nat → Nat}
    (h : ∀ o ∈ ops, s.popDo rid o.kind = (.done (v o.lane), s)) :
    s.popAll rid ops = (ops.map fun o => (o.lane, v o.lane), s) := by
  unfold State.popAll
  suffices hs : ∀ l : List (Nat × Nat), ops.foldl (fun (acc : List (Nat × Nat) × State) o => match acc.2.popDo rid o.kind with
      | (.done v, s1) => (acc.1 ++ [(o.lane, v)], s1)
      | (_, s1) => (acc.1, s1)) (l, s) = (l ++ ops.map fun o => (o.lane, v o.lane), s) from hs []
  induction ops with
  | nil => exact fun l => by rw [List.map_nil, List.append_nil]; rfl
  | cons o ops ih =>
    intro l
    rw [List.foldl_cons]
    dsimp only
    rw [h o List.mem_cons_self]
    dsimp only
    rw [ih (fun o ho => h o (List.mem_cons_of_mem _ ho)), List.append_assoc, List.map_cons, List.singleton_append]

/-- One operation. -/
theorem State.popAll_single {s t : State} {rid v : Nat} {o : PopOp} (h : s.popDo rid o.kind = (.done v, t)) :
    s.popAll rid [o] = ([(o.lane, v)], t) := by
  unfold State.popAll
  rw [List.foldl_cons, List.foldl_nil]
  dsimp only
  rw [h]
  rfl

/-! #### What the home does with an operation -/

theorem State.popDo_plwadd (s : State) (rid i : Nat) (x : Word) : (s.popDo rid (.plwadd i x)).2 = (s.popAdd rid i x).2 := by
  rw [State.popDo]
  generalize s.popAdd rid i x = p
  obtain ⟨r, t⟩ := p
  rcases r with _ | _ | _ <;> rfl

theorem State.popDo_plwadd_done {s : State} {rid i : Nat} {x : Word} (h : (s.popAdd rid i x).1 = some true) :
    (s.popDo rid (.plwadd i x)).1 = .done 0 := by
  rw [State.popDo]
  generalize s.popAdd rid i x = p at h
  obtain ⟨r, t⟩ := p
  dsimp only at h
  rw [h]

theorem State.popDo_plwrd {s t : State} {rid i hp ep h en : Nat} (ha : s.popAt rid i = (.entry hp ep h en, t)) :
    s.popDo rid (.plwrd i) = (.done (readWeight en), t) := by rw [State.popDo, ha]

theorem State.popDo_pmap {s t : State} {rid i hp ep h en : Nat} (ha : s.popAt rid i = (.entry hp ep h en, t)) :
    s.popDo rid (.pmap i) = (.done (bits en 207 192), t) := by rw [State.popDo, ha]; rfl

/-- A state after another where only memory was accessed, and charged. -/
def State.Metered (s t : State) : Prop := ∃ m ps tm n vs, t = { s with mem := m, pend := ps, teams := tm, nextId := n, vfs := vs }

namespace State.Metered

variable {s t u : State}

theorem refl (s : State) : s.Metered s := ⟨_, _, _, _, _, rfl⟩

theorem trans (h : s.Metered t) (h' : t.Metered u) : s.Metered u := by
  obtain ⟨m, ps, tm, n, vs, rfl⟩ := h
  obtain ⟨m', ps', tm', n', vs', rfl⟩ := h'
  exact ⟨m', ps', tm', n', vs', rfl⟩

theorem stored (h : s.Metered t) (hs : t.Stored u) : s.Metered u := by
  obtain ⟨⟨m, ps, tm, n, rfl⟩, -⟩ := hs
  exact h.trans ⟨m, ps, tm, n, _, rfl⟩

theorem charge (h : s.Metered t) (vf cls n : Nat) : s.Metered (t.charge vf cls n) := by
  obtain ⟨vs, hvs⟩ := t.charge_eq vf cls n
  rw [hvs]
  exact h.trans ⟨_, _, _, _, vs, rfl⟩

theorem blockNum (h : s.Metered t) (vf pa n : Nat) : s.Metered (t.blockNum vf pa n).2 :=
  ((h.charge vf 3 1).charge vf 0 _).stored ((Stored.refl _).settleBytes _ _ _ _)

theorem blockWrite (h : s.Metered t) (vf pa n x : Nat) : s.Metered (t.blockWrite vf pa n x) :=
  (h.charge vf 0 _).stored ((Stored.refl _).modWriteNum _ _ _)

theorem popAt (s : State) (rid i : Nat) : s.Metered (s.popAt rid i).2 := by
  unfold State.popAt
  extract_lets r
  split
  · exact .refl s
  · next hp _ =>
    have h1 := (State.Metered.refl s).blockNum r.vf hp 64
    generalize s.blockNum r.vf hp 64 = p at h1
    obtain ⟨h, s1⟩ := p
    dsimp only at h1 ⊢
    split
    · exact h1
    · split
      · exact h1
      · next ep _ =>
        have h2 := h1.blockNum r.vf ep 32
        generalize s1.blockNum r.vf ep 32 = q at h2
        obtain ⟨x, s2⟩ := q
        exact h2

variable (h : s.Metered t)
include h

theorem groups : t.groups = s.groups := by
  obtain ⟨_, _, _, _, _, rfl⟩ := h
  rfl

theorem reqs : t.reqs = s.reqs := by
  obtain ⟨_, _, _, _, _, rfl⟩ := h
  rfl

theorem node : t.node = s.node := by
  obtain ⟨_, _, _, _, _, rfl⟩ := h
  rfl

theorem req (rid : Nat) : t.req rid = s.req rid := State.req_congr h.reqs rid

end State.Metered

/-- The entry and the header of a particle rewritten. -/
def State.recount (s : State) (vf hp ep en hdr : Nat) : State :=
  (s.blockWrite vf ep 32 (setBits en 128 8 (bits en 135 128 + 1))).blockWrite vf hp 64 hdr

theorem State.Metered.recount {s t : State} (h : s.Metered t) (vf hp ep en hdr : Nat) : s.Metered (t.recount vf hp ep en hdr) :=
  (h.blockWrite _ _ _ _).blockWrite _ _ _ _

section

variable {s s2 : State} {rid i step hp ep h en : Nat}

theorem State.arriveAt_of_running (ha : s.popAt rid i = (.running, s2)) : s.arriveAt rid i step = (.done 3, s2) := by
  rw [State.arriveAt, ha]

variable (ha : s.popAt rid i = (.entry hp ep h en, s2))
include ha

theorem State.arriveAt_of_late (hs : bits h 127 64 = step) : s.arriveAt rid i step = (.done 3, s2) := by
  rw [State.arriveAt, ha]
  exact if_pos hs

variable (hs : bits h 127 64 ≠ step)
include hs

theorem State.arriveAt_of_full (hf : bits en 135 128 = recApp (s.req rid).h) : s.arriveAt rid i step = (.done 2, s2) := by
  have hreq : s2.req rid = s.req rid := by simpa [ha] using (State.Metered.popAt s rid i).req rid
  rw [State.arriveAt, ha]
  dsimp only
  rw [hreq]
  exact (if_neg hs).trans (if_pos hf)

theorem State.arriveAt_of_counted (hf : bits en 135 128 ≠ recApp (s.req rid).h) {n : Nat} (hn : n = bits h 63 32 + 1)
    {last : Bool} (hl : last = decide (n = recNpart (s.req rid).h * recApp (s.req rid).h)) :
    s.arriveAt rid i step = (.done last.toNat,
      (s2.recount (s.req rid).vf hp ep en (if last then setBits (setBits (setBits h 0 2 2) 32 32 n) 64 64 step
        else setBits (setBits h 0 2 1) 32 32 n)).setReq rid { s.req rid with
          running := last
          timer := if last then none else if bits h 1 0 = 0 ∧ recRpol (s.req rid).h % 2 = 1 then some s.cycle else (s.req rid).timer
          startLen := if last then recTlen (s.req rid).n else (s.req rid).startLen }) := by
  have hsame : s.Metered s2 := by simpa [ha] using State.Metered.popAt s rid i
  have hreq (vf x y a b : Nat) : ((s2.blockWrite vf ep x y).blockWrite vf hp a b).req rid = s.req rid :=
    ((hsame.blockWrite vf ep x y).blockWrite vf hp a b).req rid
  rw [State.arriveAt, ha]
  dsimp only
  rw [hsame.req rid, hreq]
  refine (if_neg hs).trans ((if_neg hf).trans ?_)
  have hn' : hdrNarr h + 1 = n := hn.symm
  rw [hn', ← hl]
  have htimer : (if (decide (hdrRst h = 0) && decide (recRpol (s.req rid).h % 2 = 1)) = true then some s.cycle else (s.req rid).timer) =
      if bits h 1 0 = 0 ∧ recRpol (s.req rid).h % 2 = 1 then some s.cycle else (s.req rid).timer := by
    refine if_congr ?_ rfl rfl
    rw [Bool.and_eq_true, decide_eq_true_eq, decide_eq_true_eq]
    rfl
  simp only [htimer, State.recount, entArr]
  cases last
  · simp only [Bool.false_eq_true, if_false]
  · simp only [if_true]

end

section

variable {s s2 : State} {rid i step hp ep h en n : Nat} (ha : s.popAt rid i = (.entry hp ep h en, s2)) (hs : bits h 127 64 ≠ step)
  (hf : bits en 135 128 ≠ recApp (s.req rid).h) (hn : n = bits h 63 32 + 1)
include ha hs hf hn

/-- An arrival that others are to follow. -/
theorem State.arriveAt_of_more (hl : n ≠ recNpart (s.req rid).h * recApp (s.req rid).h) :
    s.arriveAt rid i step = (.done 0, (s2.recount (s.req rid).vf hp ep en (setBits (setBits h 0 2 1) 32 32 n)).setReq rid
      { s.req rid with
        running := false
        timer := if bits h 1 0 = 0 ∧ recRpol (s.req rid).h % 2 = 1 then some s.cycle else (s.req rid).timer }) := by
  rw [State.arriveAt_of_counted ha hs hf hn (decide_eq_false hl).symm]
  simp only [Bool.false_eq_true, if_false, Bool.toNat_false]

/-- The last arrival of a round starts the resample. -/
theorem State.arriveAt_of_last (hl : n = recNpart (s.req rid).h * recApp (s.req rid).h) :
    s.arriveAt rid i step = (.done 1, (s2.recount (s.req rid).vf hp ep en
      (setBits (setBits (setBits h 0 2 2) 32 32 n) 64 64 step)).setReq rid
        { s.req rid with running := true, timer := none, startLen := recTlen (s.req rid).n }) := by
  rw [State.arriveAt_of_counted ha hs hf hn (decide_eq_true hl).symm]
  simp only [if_true, Bool.toNat_true]

end

/-! #### PLWADD -/

section

variable {s : State} {e : Env} {x : XArgs} (he : s.env? = some e) (ha : e.g.audit = .off) (hp : e.g.pair = none)
  (hpf : e.g.regs.popid.extractLsb' 26 6 = 0) (hn : e.popNode = s.node)

/-- PLWADD's operations: each active lane's increment, in ascending lanes. -/
def Env.increments (e : Env) (x : XArgs) : List PopOp := (LaneMask.toList (e.active x)).map fun l =>
  { lane := l, kind := .plwadd ((e.val x .int .n32 x.b).at l) (BitVec.ofNat 32 ((e.val x .float .f32 x.a).at l)) }

/-- PLWADD's use of registers. -/
def plwaddUse (x : XArgs) : Use := { srcs := [(x.a, 1), (x.b, 1)] }

theorem Env.mem_increments {o : PopOp} : o ∈ e.increments x ↔ ∃ l, (e.active x).getLsbD l = true ∧
    o = { lane := l, kind := .plwadd ((e.val x .int .n32 x.b).at l) (BitVec.ofNat 32 ((e.val x .float .f32 x.a).at l)) } := by
  rw [Env.increments, List.mem_map]
  refine exists_congr fun l => ?_
  rw [LaneMask.mem_toList, eq_comm (a := o)]

theorem Env.increments_eq_nil : e.increments x = [] ↔ e.active x = 0 := by
  rw [Env.increments, List.map_eq_nil_iff, LaneMask.toList_eq_nil]

include he ha hp hpf hn

theorem State.plwadd_eq (hf : e.Fresh) (hr : e.Ready (plwaddUse x)) (hq : e.Quiet (e.deadFlag (plwaddUse x))) :
    exec (.plwadd x) s = .next ((e.popTests (s.setFlags e (e.deadFlag (plwaddUse x))) e.popRid (!x.b.isVec)
      (particles (!x.b.isVec) (e.active x) (e.val x .int .n32 x.b).at) fun s =>
        e.popHere s e.popRid (!x.b.isVec) (e.increments x) fun _ s =>
          .ok ((s.recordLanes e (e.active x) (fun _ => e.g.regs.popid.setWidth 64) 4 3 fun l =>
            leBytes 4 ((e.val x .int .n32 x.b).at l) ++ leBytes 4 ((e.val x .float .f32 x.a).at l)).memDone e x (plwaddUse x))).settle e) := by
  change execPlwadd x s = _
  unfold execPlwadd
  rw [State.issue_of he]
  dsimp only
  have hmem := Env.memUsing_fresh hf hr hq s
  rw [plwaddUse] at hmem
  rw [hmem, Env.replaying_of_off ha, Env.holds_of_single hp, if_neg (by decide), if_pos (by decide),
    Env.population_here hpf (hn.trans (State.setFlags_node he _).symm)]
  rfl

theorem State.plwadd_of_bad (hk : s.popOk e.cid e.popRid = false) (hf : e.Fresh) (hr : e.Ready (plwaddUse x))
    (hq : e.Quiet (e.deadFlag (plwaddUse x))) :
    exec (.plwadd x) s = .next ((s.setFlags e (e.deadFlag (plwaddUse x))).takeTrap e .access 0 e.lanes) := by
  rw [State.plwadd_eq he ha hp hpf hn hf hr hq, Env.popTests_of_bad ((State.popOk_congr (State.setFlags_reqs he _) _ _).trans hk)]
  rfl

variable (hk : s.popOk e.cid e.popRid = true) (hf : e.Fresh) (hr : e.Ready (plwaddUse x)) (hq : e.Quiet (e.deadFlag (plwaddUse x)))
  {s1 : State} (hs1 : s1 = s.setFlags e (e.deadFlag (plwaddUse x)))
  (hlanes : ∀ l, (e.active x).getLsbD l = true → (e.val x .int .n32 x.b).at l < s.popSize e.popRid)
  (hone : x.b.isVec = false → (e.val x .int .n32 x.b).at 0 < s.popSize e.popRid)
include hk hf hr hq hs1 hlanes hone

theorem State.plwadd_tested : exec (.plwadd x) s = .next ((e.popHere s1 e.popRid (!x.b.isVec) (e.increments x) fun _ s =>
      .ok ((s.recordLanes e (e.active x) (fun _ => e.g.regs.popid.setWidth 64) 4 3 fun l =>
        leBytes 4 ((e.val x .int .n32 x.b).at l) ++ leBytes 4 ((e.val x .float .f32 x.a).at l)).memDone e x (plwaddUse x))).settle e) := by
  have hreqs := State.setFlags_reqs he (e.deadFlag (plwaddUse x))
  rw [State.plwadd_eq he ha hp hpf hn hf hr hq, Env.popTests_of_good ((State.popOk_congr hreqs _ _).trans hk), hs1]
  rw [State.popSize_congr hreqs]
  exact particles_lt hlanes fun h => hone (by simpa using h)

theorem State.plwadd_of_unready (hb : s.blockReady (s.req e.popRid).vf = false) (hm : e.active x ≠ 0) :
    exec (.plwadd x) s = .next (s1.updSlot e fun y => { y with wait := s.blockWait (s.req e.popRid).vf }) := by
  have hvfs := hs1 ▸ State.setFlags_vfs he (e.deadFlag (plwaddUse x))
  have hreq : s1.req e.popRid = s.req e.popRid := State.req_congr (hs1 ▸ State.setFlags_reqs he _) _
  rw [State.plwadd_tested he ha hp hpf hn hk hf hr hq hs1 hlanes hone,
    Env.popHere_of_unready (by rw [hreq, State.blockReady_congr hvfs, hb]) (Env.increments_eq_nil.not.mpr hm), hreq, State.blockWait_congr hvfs]
  rfl

theorem State.plwadd_of_ready (hb : s.blockReady (s.req e.popRid).vf = true)
    (hadd : ∀ l, (e.active x).getLsbD l = true → (s1.popAdd e.popRid ((e.val x .int .n32 x.b).at l)
      (BitVec.ofNat 32 ((e.val x .float .f32 x.a).at l))).1 = some true) :
    exec (.plwadd x) s = .next ((((e.activeLanes x).foldl (fun t l => (t.popAdd e.popRid ((e.val x .int .n32 x.b).at l)
        (BitVec.ofNat 32 ((e.val x .float .f32 x.a).at l))).2) s1).recordLanes e (e.active x) (fun _ => e.g.regs.popid.setWidth 64) 4 3 fun l =>
          leBytes 4 ((e.val x .int .n32 x.b).at l) ++ leBytes 4 (BitVec.ofNat 32 ((e.val x .float .f32 x.a).at l)).toNat).memDone e x
            (plwaddUse x)) := by
  have hvfs := hs1 ▸ State.setFlags_vfs he (e.deadFlag (plwaddUse x))
  have hreq : s1.req e.popRid = s.req e.popRid := State.req_congr (hs1 ▸ State.setFlags_reqs he _) _
  rw [State.plwadd_tested he ha hp hpf hn hk hf hr hq hs1 hlanes hone, Env.popHere_of_done (by rw [hreq, State.blockReady_congr hvfs, hb]),
    State.popAll_state, Env.increments, List.foldl_map, Env.activeLanes]
  · simp only [State.popDo_plwadd, leBytes_word]
    rfl
  · intro o ho
    obtain ⟨l, hl, rfl⟩ := Env.mem_increments.mp ho
    exact ⟨0, State.popDo_plwadd_done (hadd l hl)⟩

end

/-! #### PLWRD and PMAP -/

theorem find?_map_pair {β : Type} {l : Nat} {ls : List Nat} (h : l ∈ ls) (v : Nat → β) :
    (ls.map fun l => (l, v l)).find? (fun p => p.1 = l) = some (l, v l) := by
  induction ls with
  | nil => cases h
  | cons i ls ih =>
    rw [List.map_cons, List.find?_cons]
    by_cases hi : i = l
    · simp [hi]
    · simp [hi, ih (List.mem_of_ne_of_mem (Ne.symm hi) h)]

section

variable {s : State} {e : Env} {x : XArgs} (he : s.env? = some e) (ha : e.g.audit = .off)
  (hpf : e.g.regs.popid.extractLsb' 26 6 = 0) (hn : e.popNode = s.node) (hk : s.popOk e.cid e.popRid = true)
  (hb : s.blockReady (s.req e.popRid).vf = true) {size n : Nat} {kind : Nat → FabKind} {v : Nat → Nat} {s1 : State} {u : Use}
  (hu : u = { srcs := [(x.a, 1)], dst := some x.dst, n }) (hs1 : s1 = s.setFlags e (e.deadFlag u))
  (hr : e.Ready u) (hq : e.Quiet (e.deadFlag u))
include he ha hpf hn hk hb hu hs1 hr hq

/-- Each lane is given the value of its particle. -/
theorem Env.popRead_vec {d : BitVec 8} (hd : x.dst = .vec d)
    (hlanes : ∀ l, (e.active x).getLsbD l = true → (e.val x .int .n32 x.a).at l < s.popSize e.popRid ∧
      s1.popDo e.popRid (kind ((e.val x .int .n32 x.a).at l)) = (.done (v l), s1))
    (hone : x.a.isVec = false → (e.val x .int .n32 x.a).at 0 < s.popSize e.popRid) :
    (e.popRead s x size n kind fun _ _ v => v) = .ok (s.setGroup e.gid { e.passed.modSlot e.slot (fun y => y.wrote d.toNat n) with
      regs := (e.readRegs u (e.deadFlag u)).setVecs d.toNat (e.active x) ((List.range n).map fun j => mkLanes fun l =>
        if (e.active x).getLsbD l then (BitVec.ofNat (32 * n) (v l)).extractLsb' (32 * j) 32 else 0) }) := by
  have hreqs := State.setFlags_reqs he (e.deadFlag u)
  have hvfs := State.setFlags_vfs he (e.deadFlag u)
  have hreq : (s.setFlags e (e.deadFlag u)).req e.popRid = s.req e.popRid := State.req_congr hreqs _
  have hoff : ∃ g, (s.setFlags e (e.deadFlag u)).group? e.gid = some g ∧ g.audit = .off := by
    rw [State.setFlags_of (State.env?_group he), State.group?_setGroup]
    exact ⟨_, rfl, ha⟩
  obtain ⟨g, hg, hga⟩ := hoff
  subst hs1
  unfold Env.popRead
  rw [hd] at hu ⊢
  dsimp only
  rw [← hu, Env.using_ready hr, Env.flagged_quiet hq, Env.replaying_of_off ha, if_neg (by decide),
    Env.population_here hpf (hn.trans (State.setFlags_node he _).symm), Env.popTests_of_good ((State.popOk_congr hreqs _ _).trans hk),
    Env.popHere_of_done (by rw [hreq, State.blockReady_congr hvfs, hb]), State.popAll_reads (v := v)]
  · rw [State.logged_of_off hg hga, ite_self, Env.deliver_vec he u d, List.map_map, List.map_map, List.length_map, List.length_range]
    congr 3
    dsimp only
    congr 1
    refine Regs.setVecs_congr _ _ _ fun j hj l hl hm => ?_
    have hfind : ((e.active x).toList.map fun l => (l, v l)).find? (fun p => p.1 = l) = some (l, v l) :=
      find?_map_pair (LaneMask.mem_toList.mpr hm) v
    rw [lane_mkLanes _ hl, lane_mkLanes _ hl, if_pos hm, extractLsb'_ofNat_words (List.mem_range.mp hj)]
    exact congrArg (fun o : Option (Nat × Nat) => BitVec.ofNat 32 ((o.map (·.2)).getD 0 / 2 ^ (32 * j))) hfind
  · intro o ho
    obtain ⟨l, hl, rfl⟩ := List.mem_map.mp ho
    exact (hlanes l (LaneMask.mem_toList.mp hl)).2
  · intro o ho
    obtain ⟨l, hl, rfl⟩ := List.mem_map.mp ho
    exact ⟨v l, congrArg Prod.fst (hlanes l (LaneMask.mem_toList.mp hl)).2⟩
  · rw [State.popSize_congr hreqs]
    exact particles_lt (fun l hl => (hlanes l hl).1) fun h => hone (by simpa using h)

/-- A scalar is given the value of one particle. -/
theorem Env.popRead_scal {d : BitVec 6} (hd : x.dst = .scal d) {w : Nat} (hi : (e.val x .int .n32 x.a).at 0 < s.popSize e.popRid)
    (hw : s1.popDo e.popRid (kind ((e.val x .int .n32 x.a).at 0)) = (.done w, s1)) (hnp : e.NoPop d (BitVec.ofNat 64 w)) :
    (e.popRead s x size n kind fun _ _ v => v) = .ok (s.setGroup e.gid
      (e.withScalar { e.passed with regs := e.readRegs u (e.deadFlag u) } d (BitVec.ofNat 64 w))) := by
  have hreqs := State.setFlags_reqs he (e.deadFlag u)
  have hvfs := State.setFlags_vfs he (e.deadFlag u)
  have hreq : (s.setFlags e (e.deadFlag u)).req e.popRid = s.req e.popRid := State.req_congr hreqs _
  have hoff : ∃ g, (s.setFlags e (e.deadFlag u)).group? e.gid = some g ∧ g.audit = .off := by
    rw [State.setFlags_of (State.env?_group he), State.group?_setGroup]
    exact ⟨_, rfl, ha⟩
  obtain ⟨g, hg, hga⟩ := hoff
  subst hs1
  unfold Env.popRead
  rw [hd] at hu ⊢
  dsimp only
  rw [← hu, Env.using_ready hr, Env.flagged_quiet hq, Env.replaying_of_off ha, if_neg (by decide),
    Env.population_here hpf (hn.trans (State.setFlags_node he _).symm), Env.popTests_of_good ((State.popOk_congr hreqs _ _).trans hk),
    Env.popHere_of_done (by rw [hreq, State.blockReady_congr hvfs, hb]), State.popAll_single hw]
  · dsimp only
    rw [State.logged_of_off hg hga]
    exact Env.deliver_scal he u hnp
  · intro o ho
    rw [List.mem_singleton.mp ho]
    exact ⟨w, congrArg Prod.fst hw⟩
  · rw [State.popSize_congr hreqs]
    intro p hp
    rw [List.mem_singleton.mp hp]
    exact hi

end

/-! #### RSMP -/

section

variable {s : State} {e : Env} {x : XArgs} {d : BitVec 6} (he : s.env? = some e) (ha : e.g.audit = .off) (hp : e.g.pair = none)
  (hpf : e.g.regs.popid.extractLsb' 26 6 = 0) (hn : e.popNode = s.node) (hd : x.dst = .scal d)

/-- RSMP's operation. -/
def Env.arrival (e : Env) (x : XArgs) : PopOp := { lane := 0, kind := .rsmp ((e.val x .int .n32 x.a).at 0) e.gr.stepNo }

/-- What RSMP does once its record is tested: it waits for the group's earlier accesses, and is a release. -/
def Env.arrives (e : Env) (x : XArgs) (d : BitVec 6) (s : State) : Res :=
  if !e.sl.sent && !s.settledAt e.gid (e.popScope s) then .wait (s.behind e.gid) s
  else (e.population s true [(0, (e.val x .int .n32 x.a).at 0)] [e.arrival x] fun vs s =>
    (s.putS e d (BitVec.ofNat 64 ((vs.map (·.2)).headD 0))).orUndo s).andThen fun s => s.release e.gid (e.popScope s)

include he hp hpf hn hd

theorem State.rsmp_eq : exec (.rsmp x) s = .next ((e.popTests s e.popRid true [(0, (e.val x .int .n32 x.a).at 0)] fun s =>
    match e.arrives x d s with
    | .ok s2 => .ok (s2.skipAudit e)
    | r => r).settle e) := by
  change execRsmp x s = _
  unfold execRsmp
  have hzero : bits e.g.regs.popid.toNat 31 26 = 0 := by
    have h := congrArg BitVec.toNat hpf
    rw [BitVec.extractLsb'_toNat] at h
    exact h
  rw [State.issue_of he, hd]
  dsimp only
  rw [hzero, if_neg (by decide), if_neg (by simp [hn])]
  simp only [Env.skipList_of_single hp]
  rfl

theorem State.rsmp_of_bad (hk : s.popOk e.cid e.popRid = false) : exec (.rsmp x) s = .next (s.takeTrap e .access 0 e.lanes) := by
  rw [State.rsmp_eq he hp hpf hn hd, Env.popTests_of_bad hk]
  rfl

variable (hk : s.popOk e.cid e.popRid = true) (hi : (e.val x .int .n32 x.a).at 0 < s.popSize e.popRid)
include hk hi

theorem State.rsmp_tested : exec (.rsmp x) s = .next (Res.settle e (match e.arrives x d s with
    | .ok s2 => .ok (s2.skipAudit e)
    | r => r)) := by
  rw [State.rsmp_eq he hp hpf hn hd, Env.popTests_of_good hk]
  intro p hp
  rw [List.mem_singleton.mp hp]
  exact hi

theorem State.rsmp_of_unsettled (hf : e.Fresh) (hs : s.settledAt e.gid .device = false) :
    exec (.rsmp x) s = .next (s.setGroup e.gid (e.waiting (s.behind e.gid))) := by
  have hscope : e.popScope s = .device := if_pos hn
  obtain ⟨-, hsent, -⟩ := hf
  rw [State.rsmp_tested he hp hpf hn hd hk hi, Env.arrives, hscope, hsent, hs, if_pos (by decide)]
  dsimp only
  rw [Res.settle_wait, State.updSlot_of (State.env?_group he)]
  rfl

include ha

/-- An arrival that is counted or refused: its status in sD, and a release. -/
theorem State.rsmp_answers (hb : s.blockReady (s.req e.popRid).vf = true) (hs : s.settledAt e.gid .device = true) {t : State} {v : Nat}
    (hv : s.arriveAt e.popRid ((e.val x .int .n32 x.a).at 0) e.gr.stepNo = (.done v, t)) (ht : t.groups = s.groups)
    (hnode : t.node = s.node) (hnp : e.NoPop d (BitVec.ofNat 64 v)) :
    exec (.rsmp x) s = .next ((t.gives e d (BitVec.ofNat 64 v)).release e.gid .device) := by
  have hg : t.group? e.gid = some e.g := (congrArg (Map.get? · e.gid) ht).trans (State.env?_group he)
  have hgives : t.gives e d (BitVec.ofNat 64 v) = t.setGroup e.gid (e.withScalar e.passed d (BitVec.ofNat 64 v)) := by
    rw [State.gives, State.modGroup_of _ _ _ _ hg]
    rfl
  have hscope : e.popScope s = .device := if_pos hn
  have hscope' : e.popScope (t.setGroup e.gid (e.withScalar e.passed d (BitVec.ofNat 64 v))) = .device := if_pos (hn.trans hnode.symm)
  have harr : e.arrives x d s = .ok ((t.gives e d (BitVec.ofNat 64 v)).release e.gid .device) := by
    rw [Env.arrives, hscope, hs, if_neg (by simp), Env.population_here hpf hn, Env.popTests_of_good hk, Env.popHere_of_done hb,
      State.popAll_single (o := e.arrival x) hv]
    · have hput := State.putS_noPop hg rfl rfl rfl hnp
      change (Res.orUndo t (t.putS e d (BitVec.ofNat 64 v))).andThen _ = _
      rw [hput, Res.orUndo_ok, hgives]
      exact congrArg (fun sc => Res.ok (State.release _ e.gid sc)) hscope'
    · intro o ho
      rw [List.mem_singleton.mp ho]
      exact ⟨v, congrArg Prod.fst hv⟩
    · intro p hp
      rw [List.mem_singleton.mp hp]
      exact hi
  have hoff : ∃ g, ((t.gives e d (BitVec.ofNat 64 v)).release e.gid .device).group? e.gid = some g ∧ g.audit = .off := by
    rw [State.release, State.group?, State.tellRacers_groups, ← State.group?, hgives, State.modGroup_of _ _ _ _ (State.group?_setGroup _ _ _),
      State.group?_setGroup]
    refine ⟨_, rfl, ?_⟩
    exact (Env.withScalar_audit _ _ _ _).trans ((Env.passed_audit e).trans ha)
  obtain ⟨g, hg', hga⟩ := hoff
  rw [State.rsmp_tested he hp hpf hn hd hk hi, harr]
  dsimp only
  rw [State.skipAudit_of_off hg' hga]
  rfl

end

/-- Settles O43: each instruction by the tests of R226, then by what the home does with its operations. -/
theorem populationOperations : Obligations.PopulationOperations := by
  unfold Obligations.PopulationOperations
  intro s e x he ha hp hf hpf hn rid m ua
  refine ⟨fun hk => ⟨State.plwadd_of_bad he ha hp hpf hn hk hf, fun d hd => State.rsmp_of_bad he hp hpf hn hd hk⟩, fun hk => ⟨?_, ?_, ?_⟩⟩
  · intro part inc s1 hr hq _ hlanes hone
    refine ⟨fun hb hm => ?_, fun hb => ?_⟩
    · exact State.plwadd_of_unready he ha hp hpf hn hk hf hr hq rfl (fun l hl => (hlanes l hl).1) hone hb hm
    · exact State.plwadd_of_ready he ha hp hpf hn hk hf hr hq rfl (fun l hl => (hlanes l hl).1) hone hb fun l hl => (hlanes l hl).2
  · intro n d hp' ep h en hd u s1 hr hq hlanes hone hb result
    have hread (size : Nat) (kind : Nat → FabKind) (v : Nat → Nat) (hv : ∀ l, m.getLsbD l = true →
        s1.popDo rid (kind ((e.val x .int .n32 x.a).at l)) = (.done (v l), s1)) :
        (e.popRead s x size n kind fun _ _ v => v) = .ok (result fun l => BitVec.ofNat (32 * n) (v l)) :=
      Env.popRead_vec he ha hpf hn hk hb rfl rfl hr hq hd (fun l hl => ⟨(hlanes l hl).1, hv l hl⟩) hone
    refine ⟨fun hn2 => ?_, fun hn1 => ?_⟩
    · subst hn2
      change execPlwrd x s = _
      unfold execPlwrd
      rw [State.issue_of he, Env.holds_of_single hp, if_neg (by decide), hread 8 _ _ fun l hl => State.popDo_plwrd (hlanes l hl).2]
      rfl
    · subst hn1
      change execPmap x s = _
      unfold execPmap
      rw [State.issue_of he, hread 4 _ _ fun l hl => State.popDo_pmap (hlanes l hl).2]
      rfl
  · intro d hp' ep h en s2 hd hb i hi
    refine ⟨?_, State.rsmp_of_unsettled he hp hpf hn hd hk hi hf, ?_⟩
    · intro u reads
      refine ⟨fun hat hr hq hnp => ?_, fun hat hr hq hnp => ?_⟩
      · change execPlwrd x s = _
        unfold execPlwrd
        rw [State.issue_of he, Env.holds_of_single hp, if_neg (by decide),
          Env.popRead_scal he ha hpf hn hk hb rfl rfl hr hq hd hi (State.popDo_plwrd hat) hnp]
        rfl
      · change execPmap x s = _
        unfold execPmap
        rw [State.issue_of he, Env.popRead_scal he ha hpf hn hk hb rfl rfl hr hq hd hi (State.popDo_pmap hat) hnp]
        rfl
    · intro answers arr n r counted hs
      have hanswers (t : State) (v : Nat) (hv : s.arriveAt rid i e.gr.stepNo = (.done v, t)) (ht : t.groups = s.groups)
          (hnode : t.node = s.node) : answers t (BitVec.ofNat 64 v) :=
        State.rsmp_answers he ha hp hpf hn hd hk hi hb hs hv ht hnode
      refine ⟨fun hat => ?_, fun hat => ?_⟩
      · have hm : s.Metered s2 := by simpa [hat] using State.Metered.popAt s rid i
        exact hanswers s2 3 (State.arriveAt_of_running hat) hm.groups hm.node
      · have hm : s.Metered s2 := by simpa [hat] using State.Metered.popAt s rid i
        have hset (t : State) (q : Req) (ht : s.Metered t) : (t.setReq rid q).groups = s.groups ∧ (t.setReq rid q).node = s.node :=
          ⟨(State.setReq_groups _ _ _).trans ht.groups, (State.setReq_node _ _ _).trans ht.node⟩
        refine ⟨fun hs' => hanswers s2 3 (State.arriveAt_of_late hat hs') hm.groups hm.node,
          fun hs' hfull => hanswers s2 2 (State.arriveAt_of_full hat hs' hfull) hm.groups hm.node, fun hs' hfull hlt => ?_, fun hs' hfull heq => ?_⟩
        · obtain ⟨hg, hno⟩ := hset _ _ (hm.recount _ _ _ _ _)
          exact hanswers _ 0 (State.arriveAt_of_more hat hs' hfull rfl hlt.ne) hg hno
        · obtain ⟨hg, hno⟩ := hset _ _ (hm.recount _ _ _ _ _)
          exact hanswers _ 1 (State.arriveAt_of_last hat hs' hfull rfl heq) hg hno

end Sys2Proof.Machine
end

section
namespace Sys2Proof.Machine

set_option Elab.async false

/-! ### Invalidations, and what comes by the fabric (O49) -/

/-! #### Translations that leave the TLBs (R146, R210) -/

/-- Whether a translation is of an address space and overlaps a range of pages. -/
abbrev Tlb.overlaps (x : Tlb) (asid lo hi : Nat) : Prop := x.asid = asid ∧ x.page < hi ∧ lo < x.page + x.pages

/-- A translation register over a range of pages is to be translated again. -/
def GReg.staled (r : GReg) (lo hi : Nat) : GReg :=
  if r.base.toNat / 65536 < hi ∧ lo ≤ (r.base.toNat + max 1 r.limit - 1) / 65536 then { r with stale := true } else r

theorem mem_tlb_filter {l : List Tlb} {x : Tlb} {asid lo hi : Nat} :
    x ∈ l.filter (fun t => !(t.asid = asid && t.page < hi && lo < t.page + t.pages)) ↔ x ∈ l ∧ ¬x.overlaps asid lo hi := by
  rw [List.mem_filter, Bool.not_eq_true', Bool.and_eq_false_iff, Bool.and_eq_false_iff, decide_eq_false_iff_not, decide_eq_false_iff_not,
    decide_eq_false_iff_not]
  refine and_congr_right fun _ => ?_
  unfold Tlb.overlaps
  tauto

/-- A core without the translations of an address space over a range of pages. -/
def Core.dropTlb (c : Core) (asid lo hi : Nat) : Core :=
  { c with tlb := c.tlb.filter fun t => !(t.asid = asid && t.page < hi && lo < t.page + t.pages) }

theorem State.tlbDrop_core (s : State) (asid lo hi n : Nat) (x : Tlb) :
    x ∈ ((s.tlbDrop asid lo hi).core n).tlb ↔ x ∈ (s.core n).tlb ∧ ¬x.overlaps asid lo hi := by
  have hget : Map.get? (s.tlbDrop asid lo hi).cores n = (Map.get? s.cores n).map fun c => c.dropTlb asid lo hi :=
    Map.get?_map (f := fun p : Nat × Core => (p.1, p.2.dropTlb asid lo hi)) (fun _ => rfl) s.cores n
  unfold State.core
  rw [hget]
  cases Map.get? s.cores n with
  | none => simp
  | some c => exact mem_tlb_filter

theorem State.tlbDrop_tlb2 {s : State} {asid lo hi : Nat} {l : List Tlb} (hl : l ∈ (s.tlbDrop asid lo hi).tlb2) {x : Tlb} (hx : x ∈ l) :
    ¬x.overlaps asid lo hi := by
  obtain ⟨l', -, rfl⟩ := List.mem_map.mp hl
  exact (mem_tlb_filter.mp hx).2

/-- Whether a group is of an address space. -/
def State.inSpace (s : State) (asid : Nat) (g : Group) : Bool := match s.team? g.team with
  | some t => (match s.grid? t.grid with
    | some gr => asidOf gr.ctx = asid
    | none => false)
  | none => false

theorem State.inSpace_of {s : State} {g : Group} {cid : Nat} (hc : s.ctxOf g = some cid) : s.inSpace (asidOf cid) g = true := by
  unfold State.ctxOf at hc
  unfold State.inSpace
  split at hc
  · cases hc
  · next t ht =>
    rw [ht]
    dsimp only
    split at hc
    · cases hc
    · next gr hgr =>
      rw [hgr]
      cases hc
      exact decide_eq_true rfl

/-- A group whose translation registers over a range of pages are to be translated again. -/
def Group.staled (g : Group) (lo hi : Nat) : Group :=
  { g with regs := { g.regs with g := g.regs.g.map fun r =>
      if (decide (r.base.toNat / 65536 < hi) && decide (lo ≤ (r.base.toNat + max 1 r.limit - 1) / 65536)) = true then { r with stale := true }
      else r } }

theorem State.tlbDrop_group {s : State} {asid lo hi gid cid : Nat} {g : Group} (hg : s.group? gid = some g) (hc : s.ctxOf g = some cid)
    (ha : asidOf cid = asid) :
    ∃ h, (s.tlbDrop asid lo hi).group? gid = some h ∧ ∀ (i : Nat) (r : GReg), g.regs.g[i]? = some r → h.regs.g[i]? = some (r.staled lo hi) := by
  have hget : (s.tlbDrop asid lo hi).group? gid = (s.group? gid).map fun g => if s.inSpace asid g = true then g.staled lo hi else g :=
    Map.get?_map (f := fun p => (p.1, if s.inSpace asid p.2 = true then p.2.staled lo hi else p.2)) (fun _ => rfl) s.groups gid
  refine ⟨g.staled lo hi, ?_, fun i r hr => ?_⟩
  · rw [hget, hg, Option.map_some, if_pos (ha ▸ State.inSpace_of hc)]
  · rw [Group.staled, List.getElem?_map, hr, Option.map_some, GReg.staled]
    simp only [Bool.and_eq_true, decide_eq_true_eq]

/-! #### The invalidation queue (R209, R210) -/

/-- The instruction of the model that takes a command into the queue. -/
def invInstr (vf : Nat) (c : BitVec 256) : Instr :=
  if invOp c = 2 then .sync vf c else if invOp c = 3 then .flushRouteHints vf c else .invalidate vf c

section

variable {s : State} {vf : Nat} {c : BitVec 256}

theorem exec_invInstr : exec (invInstr vf c) s = .next (s.invalidation vf c) := by
  unfold invInstr
  split
  · next h => exact congrArg Host.Outcome.next (if_neg (not_not.mpr h))
  · split
    · next h => exact congrArg Host.Outcome.next (if_neg (not_not.mpr h))
    · next h2 h3 => exact congrArg Host.Outcome.next (if_neg (by simp [h2, h3]))

theorem State.discard_discw (s : State) (vf : Nat) : ((s.discard vf).vf vf).discw = (s.vf vf).discw + 1 := by
  rw [State.discard, State.vf_setVf]

variable (hr : s.dev.ready = true)
include hr

theorem State.invalidation_of_badWord (hw : s.wordOk vf (invCmpl c) = false) : s.invalidation vf c = s.discard vf := by
  simp [State.invalidation, hr, hw]

variable (hw : s.wordOk vf (invCmpl c) = true)
include hw

theorem State.invalidation_of_word :
    s.invalidation vf c = { s with invq := s.invq ++ [({ vf, cmd := c } : InvCmd)] }.invRun (s.invq.length + 1) := by
  simp [State.invalidation, hr, hw]

/-- A command behind one that waits for a lichen half's stores. -/
theorem State.invalidation_of_blocked {q : InvCmd} {rest : List InvCmd} {l : List Nat} {p : PStore} (hq : s.invq = q :: rest)
    (hok : invOk q.cmd = true) (hop : invOp q.cmd = 1) (hl : q.waits = some l) (hp : p ∈ s.pend) (hheld : p.held = true) (hid : p.id ∈ l) :
    s.invalidation vf c = { s with invq := s.invq ++ [{ vf, cmd := c }] } := by
  have hany : (s.pend.any fun p => p.held && l.contains p.id) = true :=
    List.any_eq_true.mpr ⟨p, hp, by simp [hheld, hid]⟩
  have hstep (rest : List InvCmd) (hs : s.invq ++ [{ vf, cmd := c }] = q :: rest) :
      { s with invq := s.invq ++ [({ vf, cmd := c } : InvCmd)] }.invStep q rest = (false, { s with invq := s.invq ++ [{ vf, cmd := c }] }) := by
    rw [hs]
    obtain ⟨qvf, cmd, waits⟩ := q
    dsimp only at hok hop hl
    rw [hl, State.invStep, hok, hop, if_neg (by decide)]
    exact if_pos hany
  rw [State.invalidation_of_word hr hw, State.invRun]
  dsimp only
  rw [hq, List.cons_append] at hstep ⊢
  dsimp only
  rw [hstep _ rfl]

end

/-! What the command at the head of the queue does. -/

section

variable {s : State} {q : InvCmd} {rest : List InvCmd}

theorem State.invStep_of_bad (h : invOk q.cmd = false) : s.invStep q rest = (true, { s with invq := rest }.complete (invCmpl q.cmd) (2 ^ 32)) := by
  rw [State.invStep, h]
  exact if_pos rfl

variable (hok : invOk q.cmd = true)
include hok

theorem State.invStep_sync (h : invOp q.cmd = 2) : s.invStep q rest = (true, { s with invq := rest }.complete (invCmpl q.cmd) 1) := by
  rw [State.invStep, hok, h]
  exact if_neg (by decide)

theorem State.invStep_flush (h : invOp q.cmd = 3) :
    s.invStep q rest = (true, { s.hintsDrop q.cmd with invq := rest }.complete (invCmpl q.cmd) 1) := by
  rw [State.invStep, hok, h]
  exact if_neg (by decide)

variable (h : invOp q.cmd = 1) (hw : q.waits = none)
include h hw

theorem State.invStep_held (hp : ((s.invEffect q.cmd).pend.any fun p => p.held && (s.invHeld q.cmd).contains p.id) = true) :
    s.invStep q rest = (false, { s.invEffect q.cmd with invq := { q with waits := some (s.invHeld q.cmd) } :: rest }) := by
  rw [State.invStep, hok, h, hw, if_neg (by decide)]
  exact if_pos hp

theorem State.invStep_over (hp : ((s.invEffect q.cmd).pend.any fun p => p.held && (s.invHeld q.cmd).contains p.id) = false) :
    s.invStep q rest = (true, { (s.invEffect q.cmd).performAt .pod (fun p => (s.invHeld q.cmd).contains p.id) with invq := rest }.complete
      (invCmpl q.cmd) 1) := by
  rw [State.invStep, hok, h, hw, if_neg (by decide)]
  exact if_neg (ne_true_of_eq_false hp)

end

section

variable {s : State} {vf : Nat} {c : BitVec 256} (hr : s.dev.ready = true) (hw : s.wordOk vf (invCmpl c) = true) (hq : s.invq = [])
include hr hw hq

/-- A command alone in the queue. -/
theorem State.invalidation_of_first : s.invalidation vf c = ({ s with invq := [({ vf, cmd := c } : InvCmd)] }.invStep { vf, cmd := c } []).2 := by
  rw [State.invalidation_of_word hr hw, State.invRun, hq]
  dsimp only [List.nil_append]
  generalize State.invStep _ _ _ = r
  obtain ⟨b, t⟩ := r
  cases b <;> rfl

omit hr hw in
theorem State.invq_nil (i : List InvCmd) : { { s with invq := i } with invq := [] } = s := by rw [← hq]

end

/-! #### Operations at their home (R205) -/

theorem State.charge_ctxs (s : State) (vf cls n : Nat) : (s.charge vf cls n).ctxs = s.ctxs := by
  obtain ⟨vs, h⟩ := s.charge_eq vf cls n
  rw [h]

section

variable {s : State}

theorem State.comes_of_here {x : Arrival} (h : s.CameIn (s.source x)) : s.comes x = s.arrived x := by
  unfold State.comes
  rcases h with h | ⟨hup, hfree⟩
  · exact if_neg (by simp [h])
  · have hany : s.portIn.any (·.1 = Config.portOf (s.source x)) = false :=
      List.any_eq_false.mpr fun p hp => by simpa using hfree p hp
    exact if_neg (by rw [decide_eq_false (not_not.mpr hup), hany]; simp)

theorem State.comes_of_down {x : Arrival} (hn : s.source x ≠ s.node)
    (hdown : (s.dev.ports.getD (Config.portOf (s.source x)) {}).link ≠ 2) :
    s.comes x = { s with portIn := s.portIn ++ [(Config.portOf (s.source x), x)] } :=
  if_pos (by rw [decide_eq_true hn, decide_eq_true hdown]; rfl)

variable {r : FabReq} (hheld : s.fabHeld = [])
include hheld

theorem State.fabricIngress_eq : exec (.fabricIngress r) s = .next (s.comes (.request r)) := by
  change execFabricIngress r s = _
  unfold execFabricIngress
  rw [hheld]
  rfl

theorem State.fabricIngress_taken (hin : s.CameIn r.node) : exec (.fabricIngress r) s = .next (s.takeIn r) := by
  rw [State.fabricIngress_eq hheld, State.comes_of_here hin]
  rfl

end

theorem State.ingress_of_unknown {s : State} {r : FabReq} (h : s.ctx? r.ctxid = none) : s.ingress r = .notHome s := by
  rw [State.ingress, h]

theorem State.walk_of_translateAt {s s1 : State} {cid va kind pa : Nat} {c : Ctx} {leaf : BitVec 64}
    (h : s.translateAt cid c va kind = (.ok pa leaf, s1)) : ∃ e level, (s.walk c va).1 = .leaf e level := by
  unfold State.translateAt at h
  split at h
  · cases h
  · have h1 := congrArg Prod.fst h
    rw [State.walkAt] at h1
    dsimp only at h1
    generalize (s.walk c va).1 = w at h1
    cases w with
    | leaf e level => exact ⟨e, level, rfl⟩
    | _ => cases h1

/-- Reads and writes of bytes: the operations that are told here. -/
def FabKind.Plain (k : FabKind) : Prop := (∃ n own, k = .read n own) ∨ ∃ bs, k = .write bs

section

variable {s : State} {r : FabReq} {c : Ctx} (hc : s.ctx? r.ctxid = some c) (hst : c.cst = 1 ∨ c.cst = 2) (hk : FabKind.Plain r.kind)
include hc hst hk

theorem State.ingress_of_moved {node : Nat} (hw : (s.walk c r.va.toNat).1 = .moved node) (ha : s.admits c.vf 3 = true) :
    s.ingress r = .forward node (s.charge c.vf 3 1) := by
  have hgo : ¬((decide (c.cst ≠ 1) && decide (c.cst ≠ 2)) = true) := by
    rcases hst with h | h <;> simp [h]
  have ht (kind : Nat) : s.translateAt r.ctxid c r.va.toNat kind = (.remote node, s.charge c.vf 3 1) := by
    rw [State.translateAt, ha, State.walkAt, hw]
    exact if_neg (by decide)
  rw [State.ingress, hc]
  dsimp only
  rw [if_neg hgo]
  rcases hk with ⟨n, own, hk⟩ | ⟨bs, hk⟩
  · rw [hk]
    dsimp only
    rw [hw, ht]
  · rw [hk]
    dsimp only
    rw [hw, ht]

theorem State.ingress_of_mapped {pa : Nat} {leaf : BitVec 64} {s1 : State}
    (ht : s.translateAt r.ctxid c r.va.toNat (FabKind.kind r.kind) = (.ok pa leaf, s1)) :
    s.ingress r = match s1.fabPerform c r pa leaf with
      | some (rep, s2) => .answer rep s2
      | none => .hold s1 := by
  have hgo : ¬((decide (c.cst ≠ 1) && decide (c.cst ≠ 2)) = true) := by
    rcases hst with h | h <;> simp [h]
  obtain ⟨e, level, hw⟩ := State.walk_of_translateAt ht
  rw [State.ingress, hc]
  dsimp only
  rw [if_neg hgo]
  rcases hk with ⟨n, own, hk⟩ | ⟨bs, hk⟩
  · rw [hk] at ht ⊢
    dsimp only
    rw [hw, ht]
    exact if_neg (by simp)
  · rw [hk] at ht ⊢
    dsimp only
    rw [hw, ht]
    exact if_neg (by simp)

end

/-! #### What a home performs (R65, R66, R149) -/

section

variable {s : State} {c : Ctx} {r : FabReq} {leaf : BitVec 64} (hwatch : leafWatch leaf = false) (hacc : r.acc = none) (pa : Nat)
include hwatch hacc

theorem State.fabPerform_read {n : Nat} {own : List (Nat × Byte)} (hk : r.kind = .read n own) : s.fabPerform c r pa leaf =
    if s.admits c.vf 0 = true then some (.data ((s.charge c.vf 0 (unitBytes pa n)).ownedBytes own pa n), s.charge c.vf 0 (unitBytes pa n))
    else none := by
  unfold State.fabPerform
  cases ha : s.admits c.vf 0 <;> simp [hk, hacc, hwatch, ha, FabKind.elems, FabKind.kind, FabKind.span, State.fabAccess]

theorem State.fabPerform_write {bs : List Byte} (hk : r.kind = .write bs) : s.fabPerform c r pa leaf =
    if s.admits c.vf 0 = true then some (.data [], (s.charge c.vf 0 (unitBytes pa bs.length)).modWrite pa bs) else none := by
  unfold State.fabPerform
  cases ha : s.admits c.vf 0 <;> simp [hk, hacc, hwatch, ha, FabKind.elems, FabKind.kind, FabKind.span, State.fabAccess]

end

/-! #### An operation taken in -/

section

variable {s : State} {r : FabReq} {c : Ctx} (hc : s.ctx? r.ctxid = some c) (hst : c.cst = 1 ∨ c.cst = 2) (hheld : s.fabHeld = [])
  (hin : s.CameIn r.node) (hk : FabKind.Plain r.kind)
include hc hst hheld hin hk

theorem State.fabricIngress_moved {node : Nat} (hw : (s.walk c r.va.toNat).1 = .moved node) (ha : s.admits c.vf 3 = true) :
    (r.hops < 3 → exec (.fabricIngress r) s = .next ((s.charge c.vf 3 1).sendFor c.vf node { r with hops := r.hops + 1 })) ∧
    (3 ≤ r.hops → exec (.fabricIngress r) s = .next (((s.charge c.vf 3 1).tell (.forwardLimit r.ctxid r.va)).answer r .xlfail)) := by
  have hctx : (s.charge c.vf 3 1).ctx? r.ctxid = some c := by rw [State.ctx?, State.charge_ctxs, ← State.ctx?, hc]
  rw [State.fabricIngress_taken hheld hin, State.takeIn, State.ingress_of_moved hc hst hk hw ha]
  dsimp only
  refine ⟨fun h => ?_, fun h => ?_⟩
  · rw [if_neg (Nat.not_le.mpr h), hctx]
    rfl
  · rw [if_pos h]

theorem State.fabricIngress_mapped {pa : Nat} {leaf : BitVec 64} {s1 : State} {p : Bool} {rep : FabRep} {s2 : State}
    (ht : s.translateAt r.ctxid c r.va.toNat (FabKind.kind r.kind) = (.ok pa leaf, s1))
    (hp : s1.fabPerform c r pa leaf = if p = true then some (rep, s2) else none) :
    (p = true → exec (.fabricIngress r) s = .next (s2.answer r rep)) ∧
    (p = false → exec (.fabricIngress r) s = .next { s1 with fabHeld := s1.fabHeld ++ [r] }) := by
  rw [State.fabricIngress_taken hheld hin, State.takeIn, State.ingress_of_mapped hc hst hk ht, hp]
  exact ⟨fun h => by rw [if_pos h], fun h => by rw [if_neg (ne_true_of_eq_false h)]⟩

end

theorem State.fabricIngress_unknown {s : State} {r : FabReq} (hc : s.ctx? r.ctxid = none) (hheld : s.fabHeld = []) (hid : r.id ≠ 0)
    (hn : r.node ≠ s.node) (hin : s.CameIn r.node) : exec (.fabricIngress r) s = .next (s.post r.node (.notHome r.node r.id)) := by
  rw [State.fabricIngress_taken hheld hin, State.takeIn, State.ingress_of_unknown hc]
  dsimp only
  rw [if_neg hid, if_neg hn]

/-! #### Answers at the sender (R205) -/

section

variable {s : State} {id : Nat} {o : FabOut} (ho : s.fabOut.find? (fun p => p.id = id) = some o)
include ho

theorem State.source_reply (rep : FabRep) : s.source (.reply id rep) = o.dest := by
  rw [State.source, ho]
  rfl

theorem State.source_notHome : s.source (.notHome id) = o.dest := by
  rw [State.source, ho]
  rfl

theorem State.fabricReply_of_down (rep : FabRep) (hn : o.dest ≠ s.node) (hdown : (s.dev.ports.getD (Config.portOf o.dest) {}).link ≠ 2) :
    exec (.fabricReply id rep) s = .next { s with portIn := s.portIn ++ [(Config.portOf o.dest, .reply id rep)] } := by
  have hsrc := State.source_reply ho rep
  change Host.Outcome.next (s.comes (.reply id rep)) = _
  rw [State.comes_of_down (by rwa [hsrc]) (by rwa [hsrc]), hsrc]

theorem State.notHome_of_down (hn : o.dest ≠ s.node) (hdown : (s.dev.ports.getD (Config.portOf o.dest) {}).link ≠ 2) :
    exec (.notHome id) s = .next { s with portIn := s.portIn ++ [(Config.portOf o.dest, .notHome id)] } := by
  have hsrc := State.source_notHome ho
  change Host.Outcome.next (s.comes (.notHome id)) = _
  rw [State.comes_of_down (by rwa [hsrc]) (by rwa [hsrc]), hsrc]

variable (hin : s.CameIn o.dest)
include hin

theorem State.fabricReply_arrived (rep : FabRep) :
    exec (.fabricReply id rep) s = .next (if s.unsent id = true then s else s.deliver id rep) := by
  change Host.Outcome.next (s.comes (.reply id rep)) = _
  rw [State.comes_of_here (by rwa [State.source_reply ho rep])]
  rfl

theorem State.notHome_arrived : exec (.notHome id) s = .next (if s.unsent id = true then s else s.notHome id) := by
  change Host.Outcome.next (s.comes (.notHome id)) = _
  rw [State.comes_of_here (by rwa [State.source_notHome ho])]
  rfl

omit hin in
theorem State.notHome_twice (h : 1 ≤ o.misses) :
    s.notHome id = (s.dropHint o.req.ctxid (o.req.va.toNat / 65536)).deliver id .xlfail := by
  rw [State.notHome, ho]
  exact if_pos h

omit hin in
theorem State.notHome_rerouted {s0 : State} (hs0 : s0 = s.dropHint o.req.ctxid (o.req.va.toNat / 65536)) {c : Ctx} {n : Nat}
    (h : o.misses = 0) (hk : FabKind.population o.req.kind = false) (hc : s.ctx? o.req.ctxid = some c)
    (hr : s0.route c o.req.va.toNat = some n) (hn : n ≠ s.node) :
    s.notHome id = ({ s0 with fabOut := s0.fabOut.map fun (p : FabOut) =>
      if p.id = id then { p with dest := n, misses := p.misses + 1 } else p }.sendFor c.vf n o.req) := by
  have hc' : s0.ctx? o.req.ctxid = some c := by rw [hs0]; exact hc
  rw [State.notHome, ho]
  dsimp only
  rw [← hs0, h, if_neg (by decide), hk, hc', if_neg (by decide), Option.bind_some, hr]
  dsimp only
  rw [if_neg hn]
  refine congrArg (State.sendFor _ · n o.req) ?_
  change ((s0.ctx? o.req.ctxid).map (·.vf)).getD 0 = c.vf
  rw [hc']
  rfl

end

/-- What the answer of a write lets go on, of a group that did not halt, leaves the group but for the modules that keep it. -/
theorem State.written_spec {s : State} {o : FabOut} {g : Group} (hg : s.group? o.gid = some g) (hh : o.writes = true → g.halts = false)
    (home : Nat) : ∃ l, (s.written o home).group? o.gid = some { g with told := l } ∧ (s.written o home).fabOut = s.fabOut ∧
      (s.written o home).mem = s.mem := by
  unfold State.written
  split
  · exact ⟨g.told, hg, rfl, rfl⟩
  · next hw =>
    have hhalts : g.halts = false := hh (by simpa using hw)
    have htold : ∃ (u : State) (l : List Nat), (if o.req.acc.isSome = true then s.modGroup o.gid fun g =>
        { g with told := if g.told.contains home then g.told else g.told ++ [home] } else s) = u ∧
        u.group? o.gid = some { g with told := l } ∧ u.fabOut = s.fabOut ∧ u.mem = s.mem := by
      split
      · rw [State.modGroup_of _ _ _ _ hg]
        exact ⟨_, _, rfl, State.group?_setGroup _ _ _, rfl, rfl⟩
      · exact ⟨_, g.told, rfl, hg, rfl, rfl⟩
    obtain ⟨u, l, hu, hgroup, hfab, hmem⟩ := htold
    rw [hu]
    have hgroup' : u.tellEnded.group? o.gid = some { g with told := l } := by rw [State.tellEnded_eq]; exact hgroup
    have hrest : u.tellEnded.fabOut = s.fabOut ∧ u.tellEnded.mem = s.mem := by rw [State.tellEnded_eq]; exact ⟨hfab, hmem⟩
    dsimp only
    rw [hgroup']
    dsimp only
    refine ⟨l, ?_⟩
    split
    · rw [if_neg (by simpa [Group.halts] using hhalts)]
      exact ⟨hgroup', hrest⟩
    · exact ⟨hgroup', hrest⟩

theorem Slot.wakeIf_reps (x : Slot) (f : Wait → Bool) : (x.wakeIf f).reps = x.reps := by
  unfold Slot.wakeIf
  split <;> rfl

/-- Both slots of a group woken where a predicate picks their waits. -/
def Group.wake (g : Group) (f : Wait → Bool) : Group := { g with slot0 := g.slot0.wakeIf f, slot1 := g.slot1.wakeIf f }

theorem Group.slot_wake (g : Group) (f : Wait → Bool) (i : Bool) : (g.wake f).slot i = (g.slot i).wakeIf f := by cases i <;> rfl

theorem State.wake_of {s : State} {gid : Nat} {g : Group} (h : s.group? gid = some g) (f : Wait → Bool) :
    s.wake gid f = s.setGroup gid (g.wake f) := State.modGroup_of s gid _ g h

/-- A slot with one more answer. -/
def Slot.withRep (x : Slot) (i : Nat) (rep : FabRep) : Slot := { x with reps := x.reps ++ [(i, rep)] }

/-- The state in which an operation of a slot was answered: the answer is kept in the slot, and its waits for it end. -/
def State.slotAnswered (s : State) (o : FabOut) (rep : FabRep) : State :=
  let s1 := (s.modGroup o.gid fun g => g.modSlot o.slot (·.withRep o.idx rep)).wake o.gid fun w =>
    w = .stores || w = .fabric
  if (s.modGroup o.gid fun g => g.modSlot o.slot (·.withRep o.idx rep)).fabOut.any fun p =>
    p.gid = o.gid && p.slot = o.slot && p.eng.isNone then s1 else s1.wake o.gid Wait.fabricEnds

section

variable {s : State} {id : Nat} {o : FabOut} (ho : s.fabOut.find? (fun p => p.id = id) = some o) {rep : FabRep}
  (hs : o.signal = false) (he : o.eng = none) (hi : o.idx < 96) (hrep : ∀ n x, rep ≠ .hint n x)
include ho hs he hi hrep

theorem State.deliver_to_slot : s.deliver id rep = ({ s with fabOut := s.fabOut.filter fun p => p.id ≠ id }.written o o.dest).slotAnswered o rep := by
  have hidx : o.idx ≠ modTaker := by
    have : modTaker = 2 ^ 64 + 1 := rfl
    omega
  have hidx' : o.idx < noTaker := by
    have : noTaker = 2 ^ 64 := rfl
    omega
  unfold State.deliver
  rw [ho]
  dsimp only
  rw [if_neg hidx, hs, if_neg (by decide), he]
  dsimp only
  rw [if_pos hidx']
  cases rep with
  | hint n x => exact absurd rfl (hrep n x)
  | _ => rfl

/-- The slot that awaits the answer of its last operation keeps it, and goes on. -/
theorem State.deliver_last {g : Group} (hg : s.group? o.gid = some g) (hh : o.writes = true → g.halts = false)
    (hlast : ∀ p ∈ s.fabOut, p.id ≠ id → ¬(p.gid = o.gid ∧ p.slot = o.slot ∧ p.eng = none)) :
    ∃ h, (s.deliver id rep).fabOut = s.fabOut.filter (fun p => p.id ≠ id) ∧ (s.deliver id rep).mem = s.mem ∧
      (s.deliver id rep).group? o.gid = some h ∧ (h.slot o.slot).reps = (g.slot o.slot).reps ++ [(o.idx, rep)] ∧ h.regs = g.regs ∧
      ((g.slot o.slot).wait = .fabric → (h.slot o.slot).wait = .ready) := by
  rw [State.deliver_to_slot ho hs he hi hrep]
  obtain ⟨l, hgroup, hfab, hmem⟩ := State.written_spec (s := { s with fabOut := s.fabOut.filter fun p => p.id ≠ id }) hg hh o.dest
  generalize State.written _ o o.dest = u at hgroup hfab hmem
  have hmore : (u.fabOut.any fun p => p.gid = o.gid && p.slot = o.slot && p.eng.isNone) = false := by
    rw [hfab, List.any_eq_false]
    intro p hp
    obtain ⟨hp, hid⟩ := List.mem_filter.mp hp
    simpa [and_assoc] using hlast p hp (of_decide_eq_true hid)
  have hanswered : u.slotAnswered o rep = u.setGroup o.gid
      ((({ g with told := l }.modSlot o.slot (·.withRep o.idx rep)).wake fun w => w = Wait.stores || w = Wait.fabric).wake Wait.fabricEnds) := by
    unfold State.slotAnswered
    rw [State.modGroup_of _ _ _ _ hgroup, State.setGroup_fabOut, hmore, State.wake_of (State.group?_setGroup _ _ _), State.setGroup_setGroup]
    dsimp only
    rw [if_neg (by decide), State.wake_of (State.group?_setGroup _ _ _), State.setGroup_setGroup]
  rw [hanswered]
  refine ⟨_, hfab, hmem, State.group?_setGroup _ _ _, ?_, ?_, fun hw => ?_⟩
  · rw [Group.slot_wake, Group.slot_wake, Slot.wakeIf_reps, Slot.wakeIf_reps, Group.modSlot, Group.slot_setSlot]
    rfl
  · rw [Group.wake, Group.wake, Group.modSlot, Group.setSlot_regs]
  · rw [Group.slot_wake, Group.slot_wake, Group.modSlot, Group.slot_setSlot]
    have hwait : (({ g with told := l }.slot o.slot).withRep o.idx rep).wait = .fabric := hw
    rw [Slot.wakeIf, Slot.wakeIf, hwait]
    rfl

end

/-! #### The commands' completions -/

section

variable {s : State} {vf : Nat} {c : BitVec 256} (hr : s.dev.ready = true) (hw : s.wordOk vf (invCmpl c) = true) (hq : s.invq = [])
include hr hw hq

theorem State.invInstr_of_illegal (hok : invOk c = false) : exec (invInstr vf c) s = .next (s.complete (invCmpl c) (2 ^ 32)) := by
  rw [exec_invInstr, State.invalidation_of_first hr hw hq, State.invStep_of_bad (q := { vf, cmd := c }) hok, State.invq_nil hq]

variable (hok : invOk c = true)
include hok

theorem State.invInstr_sync (hop : invOp c = 2) : exec (invInstr vf c) s = .next (s.complete (invCmpl c) 1) := by
  rw [exec_invInstr, State.invalidation_of_first hr hw hq, State.invStep_sync (q := { vf, cmd := c }) hok hop, State.invq_nil hq]

theorem State.invInstr_flush (hop : invOp c = 3) : exec (invInstr vf c) s = .next ((s.hintsDrop c).complete (invCmpl c) 1) := by
  rw [exec_invInstr, State.invalidation_of_first hr hw hq, State.invStep_flush (q := { vf, cmd := c }) hok hop]
  refine congrArg (fun u : State => Host.Outcome.next (u.complete (invCmpl c) 1)) ?_
  unfold State.hintsDrop
  rw [← hq]

omit hr hw hq hok in
theorem mem_hintsDrop (s : State) (c : BitVec 256) (i : Nat) (h : Nat × Nat × Nat) :
    h ∈ (s.hintsDrop c).hints.getD i [] ↔
      h ∈ s.hints.getD i [] ∧ ¬(h.1 = invAsid c ∧ (invRange c).1 ≤ h.2.1 ∧ h.2.1 < (invRange c).2) := by
  unfold State.hintsDrop
  dsimp only
  rw [List.getD_eq_getElem?_getD, List.getD_eq_getElem?_getD, List.getElem?_map]
  cases s.hints[i]? with
  | none => simp
  | some l =>
    simp only [Option.map_some, Option.getD_some, List.mem_filter, Bool.not_eq_true', Bool.and_eq_false_iff, decide_eq_false_iff_not]
    exact and_congr_right fun _ => by tauto

variable (hop : invOp c = 1)
include hop

theorem State.invInstr_invalidate {s1 : State} (hs1 : s1 = { s with invq := [{ vf, cmd := c }] }) :
    (((s1.invEffect c).pend.any fun p => p.held && (s1.invHeld c).contains p.id) = false → exec (invInstr vf c) s = .next
      ({ (s1.invEffect c).performAt .pod (fun p => (s1.invHeld c).contains p.id) with invq := [] }.complete (invCmpl c) 1)) ∧
    (((s1.invEffect c).pend.any fun p => p.held && (s1.invHeld c).contains p.id) = true → exec (invInstr vf c) s = .next
      { s1.invEffect c with invq := [{ vf, cmd := c, waits := some (s1.invHeld c) }] }) := by
  rw [exec_invInstr, State.invalidation_of_first hr hw hq, ← hs1]
  exact ⟨fun h => by rw [State.invStep_over (q := { vf, cmd := c }) hok hop rfl h], fun h => by rw [State.invStep_held (q := { vf, cmd := c }) hok hop rfl h]⟩

end

/-- Settles O49: the commands by what the queue's head does, an operation by its walk and its access, an answer by what it leaves of the
group that awaits it. -/
theorem invalidationsAndFabric : Obligations.InvalidationsAndFabric := by
  unfold Obligations.InvalidationsAndFabric
  refine ⟨fun s asid lo hi => ⟨rfl, rfl, rfl, fun n x => State.tlbDrop_core s asid lo hi n x, fun l hl x hx => State.tlbDrop_tlb2 hl hx,
    fun gid g cid hg hc ha => State.tlbDrop_group hg hc ha⟩, fun s vf c hr => ?_, fun s r c hc hst hheld hin => ⟨?_, ?_⟩,
    fun s r hc hheld hid hn hin => State.fabricIngress_unknown hc hheld hid hn hin, fun s r hheld hn hdown => ?_, fun s id o ho => ?_⟩
  · intro lo hi i
    refine ⟨fun hw => ⟨?_, s.discard_discw vf⟩, fun q rest l p hw hq hok hop hl hp hh hid => ?_, fun hw hq => ⟨?_, ?_, ?_, ?_⟩⟩
    · exact exec_invInstr.trans (congrArg _ (State.invalidation_of_badWord hr hw))
    · exact exec_invInstr.trans (congrArg _ (State.invalidation_of_blocked hr hw hq hok hop hl hp hh hid))
    · exact State.invInstr_of_illegal hr hw hq
    · intro hok hop
      have h := State.invInstr_sync hr hw hq hok hop
      rwa [invInstr, if_pos hop] at h
    · intro hok hop
      have h := State.invInstr_flush hr hw hq hok hop
      rw [invInstr, hop, if_neg (by decide), if_pos rfl] at h
      exact ⟨_, h, List.length_map _, fun j x => mem_hintsDrop s c j x⟩
    · intro hok hop s1 s2 late
      have h := State.invInstr_invalidate hr hw hq hok hop (s1 := s1) rfl
      rw [invInstr, hop, if_neg (by decide), if_neg (by decide)] at h
      exact h
  · intro node n own hk hw ha s1
    refine State.fabricIngress_moved hc hst hheld hin ?_ hw ha
    exact hk.imp (fun h => ⟨n, own, h⟩) id
  · intro pa leaf s1 hwatch hacc
    refine ⟨?_, fun bs hk ht => ?_⟩
    · intro n own hk ht s2
      exact State.fabricIngress_mapped hc hst hheld hin (.inl ⟨n, own, hk⟩) (by rw [hk]; exact ht) (State.fabPerform_read hwatch hacc pa hk)
    · exact State.fabricIngress_mapped hc hst hheld hin (.inr ⟨bs, hk⟩) (by rw [hk]; exact ht) (State.fabPerform_write hwatch hacc pa hk)
  · rw [State.fabricIngress_eq hheld, State.comes_of_down (x := .request r) hn hdown]
    rfl
  · refine ⟨fun rep hn hdown => ⟨State.fabricReply_of_down ho rep hn hdown, State.notHome_of_down ho hn hdown⟩, fun hin hu rep => ⟨?_, ?_⟩,
      fun hin hu => ⟨fun rep g hs he hi hrep hg hh hlast => ?_, ?_⟩⟩
    · rw [State.fabricReply_arrived ho hin, if_pos hu]
    · rw [State.notHome_arrived ho hin, if_pos hu]
    · obtain ⟨h, hrest⟩ := State.deliver_last ho hs he hi hrep hg (fun hw => (hh hw).1) hlast
      exact ⟨s.deliver id rep, h, by rw [State.fabricReply_arrived ho hin, if_neg (ne_true_of_eq_false hu)], hrest⟩
    · intro s0
      rw [State.notHome_arrived ho hin, if_neg (ne_true_of_eq_false hu)]
      exact ⟨fun h => by rw [State.notHome_twice ho h], fun c n hm hk hc hroute hn => by
        rw [State.notHome_rerouted ho rfl hm hk hc hroute hn]⟩

end Sys2Proof.Machine
end

section
namespace Sys2Proof.Machine

set_option Elab.async false

/-! ### Loads (O23) -/

/-! #### Lanes that all translate here -/

/-- Lanes' accesses with the physical address and the leaf of each. -/
def placed (pa : Nat → Nat) (leaf : Nat → BitVec 64) (accs : List Acc) : List (Acc × Nat × BitVec 64) :=
  accs.map fun a => (a, pa a.lane, leaf a.lane)

section

variable {s : State} {pa : Nat → Nat} {leaf : Nat → BitVec 64} {accs : List Acc} {xl : State → Acc → Xl × State}

theorem State.xlLanes_mapped (h : ∀ a ∈ accs, xl s a = (.ok (pa a.lane) (leaf a.lane), s)) :
    s.xlLanes xl accs = (accs.map fun a => (a, .ok (pa a.lane) (leaf a.lane)), s) := by
  induction accs with
  | nil => rfl
  | cons a accs ih =>
    rw [State.xlLanes, h a List.mem_cons_self]
    dsimp only
    rw [ih fun b hb => h b (List.mem_cons_of_mem _ hb)]
    rfl

theorem sortLanes_mapped (accs : List Acc) : sortLanes (accs.map fun a => (a, Xl.ok (pa a.lane) (leaf a.lane))) =
    { ok := placed pa leaf accs, parks := [], away := [], deferred := false } := by
  unfold sortLanes placed
  congr 1
  · rw [List.filterMap_map, ← List.filterMap_eq_map]
    rfl
  · rw [List.filterMap_map]
    exact List.filterMap_eq_nil_iff.mpr fun _ _ => rfl
  · rw [List.filterMap_map]
    exact List.filterMap_eq_nil_iff.mpr fun _ _ => rfl
  · rw [List.any_map]
    exact List.any_eq_false.mpr fun _ _ => by simp

/-- Lanes performed where no page is watched: one after the other. -/
theorem State.performLanes_unwatched {e : Env} {op : MemOp} (h : ∀ a ∈ accs, leafWatch (leaf a.lane) = false) (out : List (Nat × List Nat)) :
    s.performLanes e op (placed pa leaf accs) out = accs.foldl (fun acc a =>
      (acc.1 ++ [(a.lane, (op.here acc.2 a (pa a.lane) (leaf a.lane)).1)], (op.here acc.2 a (pa a.lane) (leaf a.lane)).2)) (out, s) := by
  induction accs generalizing s out with
  | nil => rfl
  | cons a accs ih =>
    have hwatch (r : Racer) (w wrote : Bool) (n va p : Nat) : s.watch r w wrote n va p (leaf a.lane) = s := by
      rw [State.watch, h a List.mem_cons_self]
      rfl
    rw [placed, List.map_cons, State.performLanes, hwatch, ite_self]
    exact ih (fun b hb => h b (List.mem_cons_of_mem _ hb)) _

end

theorem lanesOf_nil : lanesOf [] = 0 := by
  apply BitVec.eq_of_getLsbD_eq
  intro l _
  rw [lanesOf, getLsbD_mkMask]
  simp

theorem State.addLoad_nil (s : State) (e : Env) (d : Option (Nat × Nat)) (dev miss : Bool) : s.addLoad e d [] dev miss = s := by
  cases d <;> rfl

section

variable {s : State} {e : Env} {op : MemOp} {pa : Nat → Nat} {leaf : Nat → BitVec 64} {accs : List Acc} (d : Option (Nat × Nat))
  (hkind : op.kind = 0) (hprobed : e.sl.probed = false) (hfree : s.Unmetered e.c.vf)
  (hmap : ∀ a ∈ accs, op.xl s a = (.ok (pa a.lane) (leaf a.lane), s) ∧ leafWatch (leaf a.lane) = false)
  (finish : State → Res)
include hkind hprobed hfree hmap

omit hprobed hmap in
/-- A load whose lanes all translate here performs them, and its values wait. -/
theorem Env.perform_load :
    e.perform s op d accs { ok := placed pa leaf accs, parks := [], away := [], deferred := false } finish =
      finish ((s.performLanes e op (placed pa leaf accs) []).2.addLoad e d (s.performLanes e op (placed pa leaf accs) []).1 true op.fab) := by
  have hleft : (accs.filter fun a => !((placed pa leaf accs).any fun p => p.1.lane = a.lane)) = [] := by
    refine List.filter_eq_nil_iff.mpr fun a ha => ?_
    have : ((placed pa leaf accs).any fun p => p.1.lane = a.lane) = true :=
      List.any_eq_true.mpr ⟨_, List.mem_map_of_mem ha, decide_eq_true rfl⟩
    simp [this]
  have hhold : (e.holds && decide (op.kind = 1)) = false := by rw [hkind]; exact Bool.and_false _
  unfold Env.perform
  dsimp only
  rw [hhold, hfree.charge]
  simp only [Bool.false_and, Bool.not_false, Bool.and_true, Bool.false_eq_true, if_false]
  rw [hleft]
  exact if_pos lanesOf_nil

/-- An attempt at such lanes, each aligned or of a format that takes it. -/
theorem Env.attempt_load (hfit : ∀ a ∈ accs, if op.typed ≠ 0 then typedCheck (formatOf (leaf a.lane)) op.write (pa a.lane % 65536) op.typed = .ok
      else a.va.toNat % op.size = 0) :
    e.attempt s op d accs finish =
      finish ((s.performLanes e op (placed pa leaf accs) []).2.addLoad e d (s.performLanes e op (placed pa leaf accs) []).1 true op.fab) := by
  by_cases hnil : accs = []
  · subst hnil
    rw [Env.attempt, if_pos rfl]
    exact congrArg finish (State.addLoad_nil _ _ _ _ _).symm
  have hbad : (if op.typed ≠ 0 then [] else accs.filter fun a => a.va.toNat % op.size ≠ 0) = [] := by
    split
    · rfl
    · next ht =>
      refine List.filter_eq_nil_iff.mpr fun a ha => ?_
      have := hfit a ha
      rw [if_neg ht] at this
      simp [this]
  have hmeet (here : Acc → Bool) (rank : Nat) (h : ∀ a ∈ accs, here a = false) : e.meeting here rank accs = [] := by
    refine List.filter_eq_nil_iff.mpr fun a ha => ?_
    rw [h a ha, hprobed]
    simp
  have hcheck (c : TypedCheck) (hc : c ≠ .ok) (a : Acc) : (decide (op.typed ≠ 0) && (placed pa leaf accs).any fun p =>
      p.1.lane = a.lane && typedCheck (formatOf p.2.2) op.write (p.2.1 % 65536) op.typed = c) = false := by
    by_cases ht : op.typed ≠ 0
    · rw [decide_eq_true ht, Bool.true_and, List.any_eq_false]
      intro p hp
      obtain ⟨b, hb, rfl⟩ := List.mem_map.mp hp
      have hok := hfit b hb
      rw [if_pos ht] at hok
      simp [hok, hc.symm]
    · rw [decide_eq_false ht, Bool.false_and]
  have hrace : s.races (e.racer s) op (placed pa leaf accs) = [] := by
    rw [State.races, List.map_eq_nil_iff, List.filter_eq_nil_iff]
    intro p hp
    obtain ⟨a, ha, rfl⟩ := List.mem_map.mp hp
    simp [(hmap a ha).2]
  have haccess (a : Acc) : ((accs.map fun a => (a, Xl.ok (pa a.lane) (leaf a.lane))).any fun p => p.1.lane = a.lane && p.2 = .access) = false := by
    rw [List.any_map, List.any_eq_false]
    intro b _
    simp
  have hreps : (accs.filterMap fun a => ((if e.sl.probed = true then e.sl.reps else []).find? fun r =>
      r.1 = a.lane && repRank r.2 = 1).map fun r => (a, r.2)) = [] := by
    rw [List.filterMap_eq_nil_iff, hprobed]
    exact fun _ _ => rfl
  have hadmits : s.admits e.c.vf 0 = true := by rw [State.admits, hfree 0]
  unfold Env.attempt
  rw [if_neg hnil]
  dsimp only
  rw [hbad, State.xlLanes_mapped fun a ha => (hmap a ha).1, sortLanes_mapped]
  dsimp only
  rw [List.foldl_nil, if_neg (by simp), hmeet _ 0 fun a _ => haccess a]
  dsimp only
  rw [hreps]
  dsimp only
  rw [if_neg (by simp [Sorted.stall]), hmeet _ 2 fun a _ => hcheck _ (by decide) a]
  dsimp only
  rw [hmeet _ 3 fun a _ => hcheck _ (by decide) a]
  dsimp only
  rw [hrace, ite_self, hmeet _ 4 fun _ _ => List.any_nil]
  dsimp only
  rw [hadmits, if_neg (by simp), if_neg (by simp [hkind])]
  exact Env.perform_load d hkind hfree finish

end

/-! #### What a load leaves of the issuing group -/

theorem State.settleOwn_groups (s : State) (gid : Nat) (sp : Option Nat) (a n : Nat) : (s.settleOwn gid sp a n).groups = s.groups := by
  unfold State.settleOwn
  split
  · exact ((State.Stored.refl s).performAt _ _).groups
  · rfl

theorem Env.loadedAt_groups (e : Env) (s : State) (typed : Bool) (n pa : Nat) (leaf : BitVec 64) : (e.loadedAt s typed n pa leaf).2.groups = s.groups := by
  unfold Env.loadedAt
  extract_lets f page s1 s2
  split
  · change s1.groups = s.groups
    unfold s1
    split
    · exact s.settleOwn_groups _ _ _ _
    · exact s.settleOwn_groups _ _ _ _
  · exact s.settleOwn_groups _ _ _ _

theorem Env.loadsOf_groups (e : Env) (x : XArgs) (n : Nat) (pa : Nat → Nat) (leaf : Nat → BitVec 64) (s : State) (ls : List Nat) :
    (e.loadsOf x n pa leaf s ls).2.groups = s.groups :=
  List.foldlRecOn (motive := fun acc : List (Nat × List Nat) × State => acc.2.groups = s.groups) _ _ rfl fun acc hacc l _ =>
    (e.loadedAt_groups acc.2 (x.ty = .page) n (pa l) (leaf l)).trans hacc

theorem State.addLoad_group {s : State} {e : Env} {g : Group} (hg : s.group? e.gid = some g) (d : Option (Nat × Nat))
    (vals : List (Nat × List Nat)) (dev miss : Bool) : ∃ l, (s.addLoad e d vals dev miss).group? e.gid = some { g with loads := l } := by
  unfold State.addLoad
  split
  · exact ⟨g.loads, hg⟩
  · split
    · exact ⟨g.loads, hg⟩
    · extract_lets col ld
      have hg' : ({ s with nextId := s.nextId + 1 } : State).group? e.gid = some g := hg
      rw [State.upd_of hg']
      exact ⟨_, State.group?_setGroup _ _ _⟩

theorem State.logLoad_of_off {s : State} {e : Env} {g : Group} (hg : s.group? e.gid = some g) (ha : g.audit = .off) (m : LaneMask) (d n : Nat) :
    s.logLoad e m d n = s := by
  unfold State.logLoad
  rw [hg]
  dsimp only
  rw [State.logged_of_off hg ha, ite_self]

/-! #### Loads of vD -/

section

variable {s : State} {e : Env} {x : XArgs} {d : BitVec 8} {base : BitVec 64} {pa : Nat → Nat} {leaf : Nat → BitVec 64}
  (he : s.env? = some e) (hd : x.dst = .vec d) (hf : e.Fresh) (ha : e.g.audit = .off) (hfree : s.Unmetered e.c.vf)

/-- The active lanes' accesses, in ascending order. -/
theorem Env.mem_accs {a : Acc} (h : a ∈ e.accs x base (e.active x)) :
    (e.active x).getLsbD a.lane = true ∧ a = { lane := a.lane, va := base + e.offset x a.lane, off := e.offset x a.lane } := by
  obtain ⟨l, hl, rfl⟩ := List.mem_map.mp h
  exact ⟨LaneMask.mem_toList.mp hl, rfl⟩

include he hd hf ha hfree

/-- A load whose active lanes all translate here: the lanes read in their order, the values outstanding, and the unit over. -/
theorem Env.load_mapped {u : Use} {op : MemOp} {n : Nat} {s1 : State} {fl : Flags} (hs1 : s1 = s.setFlags e fl) (hkind : op.kind = 0)
    (hmap : e.LanesMap s1 op.xl x base pa leaf)
    (hfit : ∀ l, (e.active x).getLsbD l = true → if op.typed ≠ 0 then typedCheck (formatOf (leaf l)) op.write (pa l % 65536) op.typed = .ok
      else (base + e.offset x l).toNat % op.size = 0)
    {r : List (Nat × List Nat) × State} (hgroups : r.2.groups = s1.groups)
    (hr : (e.activeLanes x).foldl (fun acc l =>
      (acc.1 ++ [(l, (op.here acc.2 { lane := l, va := base + e.offset x l, off := e.offset x l } (pa l) (leaf l)).1)],
        (op.here acc.2 { lane := l, va := base + e.offset x l, off := e.offset x l } (pa l) (leaf l)).2)) ([], s1) = r) :
    e.load s1 x u op base n = .ok ((r.2.addLoad e (some (d.toNat, n)) r.1 true op.fab).memDone e x u) := by
  obtain ⟨hunf, hsent, hprobed⟩ := hf
  have htodo : e.todo x = e.active x := by rw [Env.todo, hunf]; rfl
  have hg1 : s1.group? e.gid = some { e.g with regs := { e.g.regs with astat := e.g.regs.astat ||| fl.bits } } := by
    rw [hs1, State.setFlags_of (State.env?_group he), State.group?_setGroup]
  have hfree1 : s1.Unmetered e.c.vf := fun c => by
    have hvfs : s1.vfs = s.vfs := hs1 ▸ State.setFlags_vfs he fl
    rw [State.vf, hvfs]
    exact hfree c
  have hlanes : s1.performLanes e op (placed pa leaf (e.accs x base (e.active x))) [] = r := by
    rw [State.performLanes_unwatched fun a h => (hmap _ (Env.mem_accs h).1).2, Env.accs, List.foldl_map]
    exact hr
  obtain ⟨l, hload⟩ := State.addLoad_group (g := { e.g with regs := { e.g.regs with astat := e.g.regs.astat ||| fl.bits } })
    (s := r.2) (e := e) (by rw [State.group?, hgroups]; exact hg1) (some (d.toNat, n)) r.1 true op.fab
  have hnum : x.dst.num?.getD 0 = d.toNat := by rw [hd]; rfl
  unfold Env.load
  rw [Env.replaying_of_off ha, if_neg (by decide), hnum, htodo]
  unfold Env.memory
  rw [hsent, if_neg (by decide), Env.attempt_load (pa := pa) (leaf := leaf) _ hkind hprobed hfree1, hlanes, State.logLoad_of_off hload ha]
  · intro a h
    obtain ⟨hl, hacc⟩ := Env.mem_accs h
    obtain ⟨hxl, hwatch⟩ := hmap _ hl
    rw [← hacc] at hxl
    exact ⟨hxl, hwatch⟩
  · intro a h
    obtain ⟨hl, hacc⟩ := Env.mem_accs h
    have := hfit _ hl
    have hva : a.va = base + e.offset x a.lane := congrArg Acc.va hacc
    rwa [← hva] at this

end

theorem Env.gregReady_of {e : Env} {s : State} {a : Src} {g : BitVec 4} (ha : a = .greg g) (hw : (e.greg a).written = true) (k : Res) :
    e.gregReady s a k = k := by
  subst ha
  exact if_pos hw

/-- A read's typed run is as long as its registers, which are at least one. -/
theorem Env.loadOp_fits {e : Env} {x : XArgs} {n : Nat} {base : BitVec 64} {pa : Nat → Nat} {leaf : Nat → BitVec 64} (hn : n ≠ 0)
    (hfit : e.LanesFit x n false base pa leaf) (p : Prefix) (xl : State → Acc → Xl × State) :
    ∀ l, (e.active x).getLsbD l = true → if (e.loadOp x n p xl).typed ≠ 0 then
      typedCheck (formatOf (leaf l)) (e.loadOp x n p xl).write (pa l % 65536) (e.loadOp x n p xl).typed = .ok
      else (base + e.offset x l).toNat % (e.loadOp x n p xl).size = 0 := by
  intro l hl
  have h := hfit l hl
  by_cases ht : x.ty = .page
  · rw [if_pos ht] at h
    have htyped : (e.loadOp x n p xl).typed = n := by simp [Env.loadOp, ht]
    rw [htyped, if_pos hn]
    exact h
  · rw [if_neg ht] at h
    have htyped : (e.loadOp x n p xl).typed = 0 := by simp [Env.loadOp, ht]
    rw [htyped, if_neg (not_not.mpr rfl)]
    exact h

/-- Values made of what lanes read are the reads' values, each made so. -/
theorem foldl_reads_map {σ : Type} (f : σ → Nat → List Nat × σ) (g : Nat → List Nat → List Nat) (ls : List Nat) (s : σ) :
    ls.foldl (fun (acc : List (Nat × List Nat) × σ) l => (acc.1 ++ [(l, g l (f acc.2 l).1)], (f acc.2 l).2)) ([], s) =
      ((ls.foldl (fun (acc : List (Nat × List Nat) × σ) l => (acc.1 ++ [(l, (f acc.2 l).1)], (f acc.2 l).2)) ([], s)).1.map fun p =>
        (p.1, g p.1 p.2), (ls.foldl (fun (acc : List (Nat × List Nat) × σ) l => (acc.1 ++ [(l, (f acc.2 l).1)], (f acc.2 l).2)) ([], s)).2) := by
  suffices h : ∀ out : List (Nat × List Nat), ls.foldl (fun (acc : List (Nat × List Nat) × σ) l => (acc.1 ++ [(l, g l (f acc.2 l).1)], (f acc.2 l).2))
      (out.map fun p => (p.1, g p.1 p.2), s) =
      ((ls.foldl (fun (acc : List (Nat × List Nat) × σ) l => (acc.1 ++ [(l, (f acc.2 l).1)], (f acc.2 l).2)) (out, s)).1.map fun p =>
        (p.1, g p.1 p.2), (ls.foldl (fun (acc : List (Nat × List Nat) × σ) l => (acc.1 ++ [(l, (f acc.2 l).1)], (f acc.2 l).2)) (out, s)).2) from
    h []
  induction ls generalizing s with
  | nil => exact fun _ => rfl
  | cons l ls ih =>
    intro out
    rw [List.foldl_cons, List.foldl_cons, ← ih, List.map_append]
    rfl

/-! #### Pairs turned by the lane's angle (R135, R215) -/

/-- A lane's pair of elements of a page's format, turned. -/
def Env.turnedPair (e : Env) (x : XArgs) (typed : Bool) (l fmt : Nat) (v : List Nat) : List Nat :=
  let el (j : Nat) : Nat := pairElem typed fmt (v.getD j 0)
  let p := rotatePair ((e.val x .int .n32 x.c).at l) (el 0) (el 1)
  [p.1, p.2]

/-- LDK's operation: a load of two registers whose values are turned. -/
def Env.pairOp (e : Env) (x : XArgs) : MemOp :=
  let op := e.loadOp x 2 (e.pfxOf .load .pod) fun s a => s.xlGreg e (e.greg x.a) 0 a
  { op with
    here := fun s a pa leaf => (e.turnedPair x (op.typed ≠ 0) a.lane (leafFmt leaf) (op.here s a pa leaf).1, (op.here s a pa leaf).2)
    there := fun s a bs => (e.turnedPair x (op.typed ≠ 0) a.lane (bs.getD 8 0).toNat (op.there s a bs).1, (op.there s a bs).2) }

theorem State.ldk_eq {s : State} {e : Env} {x : XArgs} (he : s.env? = some e) {u : Use}
    (hu : u = { srcs := [(x.b, 1), (x.c, 1)], dst := some x.dst, n := 2 }) :
    exec (.ldk x) s = .next ((e.memUsing s u fun s => e.gregReady s x.a (e.load s x u (e.pairOp x) (e.greg x.a).base 2)).settle e) := by
  change execLdk x s = _
  unfold execLdk
  rw [State.issue_of he, hu]
  rfl

/-- Settles O23: each instruction is a load whose active lanes translate here. -/
theorem loadsWaitForRegisters : Obligations.LoadsWaitForRegisters := by
  unfold Obligations.LoadsWaitForRegisters
  refine ⟨fun s e x d base pa leaf he hd hf ha hfree => ?_, fun s e x d g pa leaf he hd hx hw hf ha hfree => ?_⟩
  · intro n u hr hq hfit s1 r t
    have hn : n ≠ 0 := Nat.two_pow_pos _ |>.ne'
    have hgroups : r.2.groups = s1.groups := e.loadsOf_groups x n pa leaf s1 _
    refine ⟨fun g hg hw hbase hmap => ?_, fun a hsrc hbase hmap => ?_⟩
    · have hload := Env.load_mapped he hd hf ha hfree (u := u) (n := n) (op := e.loadOp x n (e.pfxOf .load .pod) fun s a => s.xlGreg e (e.greg x.a) 0 a)
        rfl rfl hmap (Env.loadOp_fits hn hfit _ _) hgroups rfl
      change execLdg x s = _
      unfold execLdg
      rw [State.issue_of he]
      dsimp only
      rw [Env.memUsing_fresh hf hr hq, Env.gregReady_of hg hw, ← hbase, hload]
      rfl
    · have hload := Env.load_mapped he hd hf ha hfree (u := u) (n := n)
        (op := { e.loadOp x n (e.pfxOf .load .pod) fun s a => s.xlFab e 0 a with fab := true })
        rfl rfl hmap (Env.loadOp_fits hn hfit (e.pfxOf .load .pod) fun s a => s.xlFab e 0 a) hgroups rfl
      change execLdf x s = _
      unfold execLdf
      rw [State.issue_of he]
      dsimp only
      have hscalar : e.scalarBase x.a = base := by rw [hsrc, hbase]; rfl
      rw [Env.memUsing_fresh hf hr hq, hscalar, hload]
      rfl
  · intro u base hr hq hfit s1 hmap r vals
    have htyped : decide ((e.loadOp x 2 (e.pfxOf .load .pod) fun s a => s.xlGreg e (e.greg x.a) 0 a).typed ≠ 0) = decide (x.ty = .page) := by
      by_cases ht : x.ty = .page <;> simp [Env.loadOp, ht]
    have hgroups : r.2.groups = s1.groups := e.loadsOf_groups x 2 pa leaf s1 _
    have hload := Env.load_mapped he hd hf ha hfree (u := u) (n := 2) (op := e.pairOp x) (r := (vals, r.2))
      rfl rfl hmap (Env.loadOp_fits (by decide) hfit (e.pfxOf .load .pod) fun s a => s.xlGreg e (e.greg x.a) 0 a) hgroups ?_
    · rw [State.ldk_eq he rfl, Env.memUsing_fresh hf hr hq, Env.gregReady_of hx hw, hload]
      rfl
    · have hfold := foldl_reads_map (fun (t : State) l => e.loadedAt t (x.ty = .page) 2 (pa l) (leaf l))
        (fun l v => e.turnedPair x (x.ty = .page) l (leafFmt (leaf l)) v) (e.activeLanes x) s1
      rw [Env.pairOp]
      dsimp only
      rw [htyped]
      exact hfold

end Sys2Proof.Machine
end
